-- ==== Sys2Proof/Word.lean ====
section
/-! DEFINITION. The word types of the Plynsuril P8: register elements, bytes, lane masks. -/

namespace Sys2Proof

/-- One 32-bit element of a register (R24, R129). -/
abbrev Word := BitVec 32

/-- One byte of memory (R2). -/
abbrev Byte := BitVec 8

/-- One bit for each lane 0 to 63 of a group (R31, R102). -/
abbrev Mask := BitVec 64

/-- A 64-bit generic address or register pair (R156). -/
abbrev Addr := BitVec 64

end Sys2Proof
end

