-- ==== Sys2Proof/Config.lean ====
section
/-! DEFINITION. What an implementation fixes and the spec leaves open: free values, bounded functions, named algorithms. -/

namespace Sys2Proof.Config

/-- The undefined values and free choices of the machine, one for each value of the counter State.free (R6). Log 4. -/
opaque freeValue : Nat → Word

/-- The implementation's choice for RSQ, before it is confined to the bound of R95. Log 7. -/
opaque rsq : Word → Word

/-- The implementation's choice for EX2 (R95). Log 7. -/
opaque ex2 : Word → Word

/-- The implementation's choice for LG2 (R95). Log 7. -/
opaque lg2 : Word → Word

/-- The implementation's choice for SIN (R95). Log 7. -/
opaque sin : Word → Word

/-- The implementation's choice for COS (R95). Log 7. -/
opaque cos : Word → Word

/-- The implementation's choice for TANH of a positive operand (R95). Log 7. -/
opaque tanh : Word → Word

/-- The flits of a mesh packet that carries a number of bytes (R11, R305). Log 60. -/
opaque flits : Nat → Nat

/-- The SM3 digest (R18, R365): an algorithm that the manual names and does not give. Log 8. -/
opaque sm3 : List Byte → List Byte

/-- SM2 verification of a digest under a key with a signature r, s (R299, R399). Log 8. -/
opaque sm2Verify : List Byte → List Byte → List Byte → Bool

/-- The 64 bytes of an SM2 signature by a private key over a digest (R401). Log 8. -/
opaque sm2Sign : List Byte → List Byte → List Byte

/-- The SM2 key pair derived from a secret: the private key and the public key (R400). Log 8. -/
opaque sm2Keys : List Byte → List Byte × List Byte

/-- The fused unique secret of the device (R400). Log 8. -/
opaque deviceSecret : List Byte

/-- Caldex's certificate of a device's public key (R400). Log 8. -/
opaque certificate : List Byte → List Byte

/-- The fused SM3 digest of the Caldex root key (R399). Log 8. -/
opaque rootDigest : List Byte

/-- The device serial number (R401). Log 8. -/
opaque serial : Addr

/-- The silicon stepping of PKGID (R384). Log 8. -/
opaque stepping : Byte

/-- The bytes of an ELF64 file whose e_flags and named section contents these are (R359): a format that the manual names and does not give.
Log 8. -/
opaque elf : Nat → List (String × List Byte) → List Byte

/-- The lowest voltage that sustains 3.0 GHz on a tile at a hottest logic temperature (R394). Log 8. -/
opaque minVoltage : Nat → BitVec 16 → Nat

end Sys2Proof.Config
end

