-- ==== Sys2Proof/Machine/Fp.lean ====
section
/-! DEFINITION. Number formats and arithmetic (R50 to R73, R92 to R98): exact integers first, one rounding at the end. -/

namespace Sys2Proof.Machine

/-- A floating-point datum: NaN, an infinity, or (−1)^neg × m × 2^e. -/
inductive Num where
  | nan
  | inf (neg : Bool)
  | fin (neg : Bool) (m : Nat) (e : Int)
  deriving DecidableEq, Repr

/-- A format (R51): exponent and fraction widths, bias, largest finite pattern, canonical NaN, and whether infinities exist. -/
structure Fmt where
  ebits : Nat
  fbits : Nat
  bias : Int
  top : Nat
  qnan : Nat
  hasInf : Bool
  deriving DecidableEq, Repr

/-- FP32 (R51). -/
def Fmt.f32 : Fmt := ⟨8, 23, 127, 0x7F7FFFFF, 0x7FC00000, true⟩
/-- FP16 (R51). -/
def Fmt.f16 : Fmt := ⟨5, 10, 15, 0x7BFF, 0x7E00, true⟩
/-- BF16 (R51). -/
def Fmt.bf16 : Fmt := ⟨8, 7, 127, 0x7F7F, 0x7FC0, true⟩
/-- E4M3 (R51): no infinities, 448 the largest. -/
def Fmt.e4m3 : Fmt := ⟨4, 3, 7, 0x7E, 0x7F, false⟩
/-- E5M2 (R51). -/
def Fmt.e5m2 : Fmt := ⟨5, 2, 15, 0x7B, 0x7E, true⟩

/-- The sign bit of a format. -/
def Fmt.signBit (f : Fmt) : Nat := 2 ^ (f.ebits + f.fbits)

/-- The datum a pattern denotes (R51, R53). -/
def Fmt.decode (f : Fmt) (w : Nat) : Num :=
  let neg := w / f.signBit % 2 == 1
  let mag := w % f.signBit
  let ex := mag / 2 ^ f.fbits
  let fr := mag % 2 ^ f.fbits
  if mag > f.top then
    if f.hasInf && mag == f.top + 1 then .inf neg else .nan
  else if ex = 0 then .fin neg fr (1 - f.bias - f.fbits)
  else .fin neg (2 ^ f.fbits + fr) (ex - f.bias - f.fbits)

/-- A pattern with its sign. -/
def Fmt.signed (f : Fmt) (neg : Bool) (mag : Nat) : Nat := if neg then f.signBit + mag else mag

/-- The pattern of an infinity; the canonical NaN where the format has none; the largest finite when saturating (R64). -/
def Fmt.infinite (f : Fmt) (sat neg : Bool) : Nat :=
  if sat then f.signed neg f.top else if f.hasInf then f.signed neg (f.top + 1) else f.qnan

/-- Whether an inexact result moves away from zero (R64): `twice` compares twice the remainder with the spacing. -/
def roundsUp (rm : BitVec 2) (neg odd : Bool) (rest half : Nat) : Bool :=
  match rm.toNat with
  | 0 => decide (rest > half) || (rest == half && odd)
  | 1 => false
  | 2 => !neg && rest != 0
  | _ => neg && rest != 0

/-- The magnitude of a nonzero m × 2^e rounded to a format with an unbounded exponent, as its bits would be (R64). -/
def Fmt.roundBits (f : Fmt) (rm : BitVec 2) (neg : Bool) (m : Nat) (e : Int) : Nat :=
  let lsb := max ((Nat.log2 m : Int) + e - f.fbits) (1 - f.bias - f.fbits)
  let sh := (lsb - e).toNat
  let mant :=
    if lsb ≤ e then m * 2 ^ (e - lsb).toNat
    else
      let q := m / 2 ^ sh
      if roundsUp rm neg (q % 2 == 1) (2 * (m % 2 ^ sh)) (2 ^ sh) then q + 1 else q
  (lsb + f.fbits + f.bias - 1).toNat * 2 ^ f.fbits + mant

/-- Rounds (−1)^neg × m × 2^e once to a format (R64, R65). -/
def Fmt.round (f : Fmt) (rm : BitVec 2) (sat neg : Bool) (m : Nat) (e : Int) : Nat :=
  if m = 0 then f.signed neg 0
  else
    let bits := f.roundBits rm neg m e
    if bits ≤ f.top then f.signed neg bits
    else
      match rm.toNat with
      | 0 => f.infinite sat neg
      | 1 => f.signed neg f.top
      | 2 => if neg then f.signed neg f.top else f.infinite sat neg
      | _ => if neg then f.infinite sat neg else f.signed neg f.top

/-- The sum of two finite data, exactly: a signed integer at an exponent. -/
def addExact (na : Bool) (ma : Nat) (ea : Int) (nb : Bool) (mb : Nat) (eb : Int) : Int × Int :=
  let e := min ea eb
  let sa : Int := (ma * 2 ^ (ea - e).toNat : Nat)
  let sb : Int := (mb * 2 ^ (eb - e).toNat : Nat)
  ((if na then -sa else sa) + (if nb then -sb else sb), e)

/-- Adds (R64, R65, R70): zero sums of opposite signs are +0, and −0 under RD. -/
def Fmt.add (f : Fmt) (rm : BitVec 2) (a b : Num) : Nat :=
  match a, b with
  | .nan, _ | _, .nan => f.qnan
  | .inf na, .inf nb => if na = nb then f.signed na (f.top + 1) else f.qnan
  | .inf na, _ => f.signed na (f.top + 1)
  | _, .inf nb => f.signed nb (f.top + 1)
  | .fin na ma ea, .fin nb mb eb =>
    let (s, e) := addExact na ma ea nb mb eb
    if s = 0 then
      if na = nb then f.signed na 0 else f.signed (rm.toNat == 3) 0
    else f.round rm false (decide (s < 0)) s.natAbs e

/-- The exact product of two data. -/
def Num.mul (a b : Num) : Num :=
  match a, b with
  | .nan, _ | _, .nan => .nan
  | .inf na, .inf nb => .inf (na != nb)
  | .inf na, .fin nb mb _ => if mb = 0 then .nan else .inf (na != nb)
  | .fin na ma _, .inf nb => if ma = 0 then .nan else .inf (na != nb)
  | .fin na ma ea, .fin nb mb eb => .fin (na != nb) (ma * mb) (ea + eb)

/-- A datum rounded to a format, infinities by the overflow rule of conversions (R64, R67). -/
def Fmt.ofNum (f : Fmt) (rm : BitVec 2) (sat : Bool) (a : Num) : Nat :=
  match a with
  | .nan => f.qnan
  | .inf n => f.infinite sat n
  | .fin n m e => f.round rm sat n m e

/-- The negated datum. -/
def Num.neg (a : Num) : Num :=
  match a with
  | .nan => .nan
  | .inf n => .inf (!n)
  | .fin n m e => .fin (!n) m e

/-- The order of data as extended reals, −0 equal to +0; NaN is not asked. -/
def Num.lt (a b : Num) : Bool :=
  match a, b with
  | .inf na, .inf nb => na && !nb
  | .inf na, _ => na
  | _, .inf nb => !nb
  | .fin na ma ea, .fin nb mb eb => decide ((addExact na ma ea (!nb) mb eb).1 < 0)
  | _, _ => false

/-- Whether a datum is NaN. -/
def Num.isNan (a : Num) : Bool := match a with | .nan => true | _ => false

/-- The sign of a datum. -/
def Num.sign (a : Num) : Bool := match a with | .nan => false | .inf n => n | .fin n _ _ => n

/-- minimumNumber (maxi = false) and maximumNumber (maxi = true) on patterns (R66): −0 below +0. -/
def Fmt.minMax (f : Fmt) (maxi : Bool) (x y : Nat) : Nat :=
  let a := f.decode x
  let b := f.decode y
  if a.isNan then (if b.isNan then f.qnan else y)
  else if b.isNan then x
  else
    let less := a.lt b || (!(b.lt a) && a.sign && !b.sign)
    if less != maxi then x else y

/-- FADD, FSUB, FMUL and FFMA at any format (R70, R92, R94). -/
def Fmt.addW (f : Fmt) (rm : BitVec 2) (x y : Nat) : Nat := f.add rm (f.decode x) (f.decode y)
/-- a − b. -/
def Fmt.subW (f : Fmt) (rm : BitVec 2) (x y : Nat) : Nat := f.add rm (f.decode x) (f.decode y).neg
/-- a × b. -/
def Fmt.mulW (f : Fmt) (rm : BitVec 2) (x y : Nat) : Nat := f.ofNum rm false ((f.decode x).mul (f.decode y))
/-- a × b + c. -/
def Fmt.fmaW (f : Fmt) (rm : BitVec 2) (x y z : Nat) : Nat := f.add rm ((f.decode x).mul (f.decode y)) (f.decode z)

/-- An FP32 operation on words. -/
def f32op (g : Nat → Nat → Nat) (a b : Word) : Word := BitVec.ofNat 32 (g a.toNat b.toNat)

/-- The condition of FCMP (R89). -/
def fcond (f : Nat) (a b : Word) : Bool :=
  let x := Fmt.f32.decode a.toNat
  let y := Fmt.f32.decode b.toNat
  let un := x.isNan || y.isNan
  match f with
  | 0 => !un && !x.lt y && !y.lt x
  | 1 => un || x.lt y || y.lt x
  | 2 => !un && x.lt y
  | 3 => !un && !y.lt x
  | 4 => !un && y.lt x
  | 5 => !un && !x.lt y
  | 6 => !un
  | _ => un

/-- The class mask of FCLASS (R93). -/
def fclassOf (a : Word) : Word :=
  let neg := a.getLsbD 31
  let ex := a.toNat / 2 ^ 23 % 256
  let fr := a.toNat % 2 ^ 23
  let bit :=
    if ex = 255 then (if fr = 0 then (if neg then 0 else 7) else if a.getLsbD 22 then 9 else 8)
    else if ex = 0 then
      (if fr = 0 then (if neg then 3 else 4) else if neg then 2 else 5)
    else if neg then 1 else 6
  BitVec.ofNat 32 (2 ^ bit)

/-- An integer as a datum. -/
def Num.ofInt (i : Int) : Num := .fin (decide (i < 0)) i.natAbs 0

/-- Rounds a datum to an integer by a mode, then clamps it; NaN gives 0 (R67). -/
def toIntClamp (rm : BitVec 2) (lo hi : Int) (a : Num) : Int :=
  match a with
  | .nan => 0
  | .inf n => if n then lo else hi
  | .fin n m e =>
    let mag : Nat :=
      if 0 ≤ e then m * 2 ^ (min e 200).toNat
      else
        let sh := (-e).toNat
        let q := m / 2 ^ sh
        if roundsUp rm n (q % 2 == 1) (2 * (m % 2 ^ sh)) (2 ^ sh) then q + 1 else q
    max lo (min hi (if n then -(mag : Int) else mag))

/-- The FP format of a type code 0 to 4 (R45). -/
def fmtOf (t : Nat) : Fmt :=
  match t with
  | 0 => .f32 | 1 => .f16 | 2 => .bf16 | 3 => .e4m3 | _ => .e5m2

/-- The range of an integer type code 5 to 8 (R45, R54). -/
def intRange (t : Nat) : Int × Int :=
  match t with
  | 5 => (-2 ^ 31, 2 ^ 31 - 1) | 6 => (0, 2 ^ 32 - 1) | 7 => (-128, 127) | _ => (0, 255)

/-- The integer a register holds as a type code 5 to 8 (R54). -/
def intOf (t : Nat) (w : Word) : Int :=
  match t with
  | 5 => w.toInt | 6 => w.toNat | 7 => (w.setWidth 8).toInt | _ => (w.setWidth 8).toNat

/-- An integer in a register, low bits extended by its type (R54). -/
def intPut (t : Nat) (i : Int) : Word :=
  match t with
  | 7 => (BitVec.ofInt 8 i).signExtend 32 | 8 => (BitVec.ofInt 8 i).setWidth 32 | _ => BitVec.ofInt 32 i

/-- Whether a destination FP type is wider than a source FP type (R67). -/
def fpWider (s t : Nat) : Bool :=
  match s, t with
  | 3, 1 | 3, 2 | 3, 0 | 4, 1 | 4, 2 | 4, 0 | 1, 0 | 2, 0 => true
  | _, _ => false

/-- The pattern width of an FP type code. -/
def fpBits (t : Nat) : Nat := (fmtOf t).ebits + (fmtOf t).fbits + 1

/-- The codebook of Q4 in units of 2^−7 × 5, as signed multiples of 1/128 (R55). -/
def q4Value (q : Nat) : Int :=
  match q with
  | 0 => -128 | 1 => -96 | 2 => -72 | 3 => -56 | 4 => -40 | 5 => -28 | 6 => -16 | 7 => -5
  | 8 => 5 | 9 => 16 | 10 => 28 | 11 => 40 | 12 => 56 | 13 => 72 | 14 => 96 | _ => 128

/-- The E4M3 byte of a codebook value (R55). -/
def q4Byte (q : Nat) : Byte :=
  match q with
  | 0 => 0xB8 | 1 => 0xB4 | 2 => 0xB1 | 3 => 0xAE | 4 => 0xAA | 5 => 0xA6 | 6 => 0xA0 | 7 => 0x92
  | 8 => 0x12 | 9 => 0x20 | 10 => 0x26 | 11 => 0x2A | 12 => 0x2E | 13 => 0x31 | 14 => 0x34 | _ => 0x38

/-- Whether twice a magnitude m × 2^e exceeds k/128. -/
def twiceAbove (m : Nat) (e : Int) (k : Nat) : Bool := decide ((addExact false m (e + 8) true k 0).1 > 0)

/-- The Q4 code nearest a value, ties to the smaller magnitude (R68). -/
def toQ4 (a : Num) : Nat :=
  match a with
  | .nan => 8
  | .inf n => if n then 0 else 15
  | .fin n m e =>
    let k := ([5 + 16, 16 + 28, 28 + 40, 40 + 56, 56 + 72, 72 + 96, 96 + 128].filter (twiceAbove m e)).length
    if n then 7 - k else 8 + k

/-- A number converted to a format: without saturation every overflow of one without infinities is its NaN (R64, R97; log 72). -/
def Fmt.convert (f : Fmt) (rm : BitVec 2) (sat : Bool) (v : Num) : Nat :=
  match v with
  | .fin n m e => if !f.hasInf && !sat && m != 0 && decide (f.top < f.roundBits rm n m e) then f.qnan else f.ofNum rm sat v
  | _ => f.ofNum rm sat v

/-- CVT of one element of a source type to a destination type (R67, R97). -/
def cvtElem (s t : Nat) (rm : BitVec 2) (sat : Bool) (w : Word) : Word :=
  if t = 13 then BitVec.ofNat 32 (toQ4 (Fmt.f32.decode w.toNat))
  else if s ≤ 4 then
    let a := (fmtOf s).decode (w.toNat % 2 ^ fpBits s)
    if t ≤ 4 then BitVec.ofNat 32 ((fmtOf t).convert rm (sat && !fpWider s t) a)
    else intPut t (toIntClamp rm (intRange t).1 (intRange t).2 a)
  else
    let i := intOf s w
    if t ≤ 4 then BitVec.ofNat 32 ((fmtOf t).convert rm sat (Num.ofInt i))
    else if sat then intPut t (max (intRange t).1 (min (intRange t).2 i)) else intPut t i

/-- The element type and the elements a register holds for a packed type code 9 to 12 (R45, R53). -/
def packOf (t : Nat) : Nat × Nat :=
  match t with
  | 9 => (1, 2) | 10 => (2, 2) | 11 => (3, 4) | _ => (4, 4)

/-- Stochastic rounding (R69). -/
def stochRound (f : Fmt) (sat : Bool) (x rb : Word) : Word :=
  BitVec.ofNat 32 <|
    match Fmt.f32.decode x.toNat with
    | .nan => f.qnan
    | .inf n => f.infinite sat n
    | .fin n m e =>
      if m = 0 then f.signed n 0
      else
        let topE : Int := ((f.top / 2 ^ f.fbits : Nat) : Int) - f.bias - f.fbits
        let lsb := min (max ((Nat.log2 m : Int) + e - f.fbits) (1 - f.bias - f.fbits)) topE
        let mant :=
          if lsb ≤ e then m * 2 ^ (e - lsb).toNat
          else
            let sh := (lsb - e).toNat
            let q := m / 2 ^ sh
            if (m % 2 ^ sh) * 2 ^ 32 / 2 ^ sh + rb.toNat ≥ 2 ^ 32 then q + 1 else q
        let bits := (lsb + f.fbits + f.bias - 1).toNat * 2 ^ f.fbits + mant
        if bits ≤ f.top then f.signed n bits else f.infinite sat n

/-- One step of an integer square root, from the highest bit down. -/
def isqrtGo (n : Nat) : Nat → Nat → Nat
  | 0, r => r
  | k + 1, r => isqrtGo n k (if (r + 2 ^ k) * (r + 2 ^ k) ≤ n then r + 2 ^ k else r)

/-- The integer square root of n below 2^(2k). -/
def isqrt (k n : Nat) : Nat := isqrtGo n k 0

/-- RCP, correctly rounded (R95). -/
def rcpOf (rm : BitVec 2) (a : Word) : Word :=
  BitVec.ofNat 32 <|
    match Fmt.f32.decode a.toNat with
    | .nan => Fmt.f32.qnan
    | .inf n => Fmt.f32.signed n 0
    | .fin n m e =>
      if m = 0 then Fmt.f32.infinite false n
      else
        let q := 2 ^ 80 / m
        let st := if 2 ^ 80 % m = 0 then 0 else 1
        Fmt.f32.round rm false n (2 * q + st) (-e - 81)

/-- SQRT, correctly rounded (R95). -/
def sqrtOf (rm : BitVec 2) (a : Word) : Word :=
  BitVec.ofNat 32 <|
    match Fmt.f32.decode a.toNat with
    | .nan => Fmt.f32.qnan
    | .inf n => if n then Fmt.f32.qnan else Fmt.f32.infinite false false
    | .fin n m e =>
      if m = 0 then Fmt.f32.signed n 0
      else if n then Fmt.f32.qnan
      else
        let odd := e % 2 == 1
        let m' := m * 2 ^ (if odd then 61 else 60)
        let r := isqrt 48 m'
        let st := if r * r = m' then 0 else 1
        Fmt.f32.round rm false false (2 * r + st) ((e - (if odd then 1 else 0)) / 2 - 31)

/-- Fixed point with 256 fraction bits. -/
def one256 : Int := 2 ^ 256

/-- π with 256 fraction bits. -/
def pi256 : Int :=
  31415926535897932384626433832795028841971693993751058209749445923078164062862089986280348253421170679 * 2 ^ 256
    / 10 ^ 100

/-- ln 2 with 256 fraction bits. -/
def ln2256 : Int :=
  6931471805599453094172321214581765680755001343602552541206800094933936219696947156058633269964186875 * 2 ^ 256
    / 10 ^ 100

/-- The sum of a series whose term k is the term before times x / (k (k + step) …), fixed point. -/
def seriesGo (x : Int) (next : Nat → Nat) : Nat → Nat → Int → Int → Int
  | 0, _, _, acc => acc
  | n + 1, k, t, acc =>
    let t' := t * x / one256 / (next k : Nat)
    seriesGo x next n (k + 1) t' (acc + t')

/-- e^x for |x| ≤ 1, fixed point. -/
def exp256 (x : Int) : Int := seriesGo x (fun k => k) 60 1 one256 one256

/-- 2^f for 0 ≤ f < 1, fixed point. -/
def exp2256 (f : Int) : Int := exp256 (f * ln2256 / one256)

/-- The binary digits of log2 m for 1 ≤ m < 2, fixed point. -/
def log2Go : Nat → Int → Int → Int → Int
  | 0, _, _, acc => acc
  | n + 1, m, w, acc =>
    let q := m * m / one256
    if q ≥ 2 * one256 then log2Go n (q / 2) (w / 2) (acc + w) else log2Go n q (w / 2) acc

/-- sin x for |x| ≤ π, fixed point. -/
def sin256 (x : Int) : Int := seriesGo (-(x * x / one256)) (fun k => 2 * k * (2 * k + 1)) 60 1 x x

/-- cos x for |x| ≤ π, fixed point. -/
def cos256 (x : Int) : Int := seriesGo (-(x * x / one256)) (fun k => (2 * k - 1) * (2 * k)) 60 1 one256 one256

/-- A finite datum as fixed point with 256 fraction bits. -/
def fixedOf (n : Bool) (m : Nat) (e : Int) : Int :=
  let v : Int := if 0 ≤ e + 256 then (m : Int) * 2 ^ (e + 256).toNat else (m : Int) / 2 ^ (-(e + 256)).toNat
  if n then -v else v

/-- The FP32 value nearest a fixed-point number times 2^sh. -/
def ofFixed (y : Int) (sh : Int) : Nat := Fmt.f32.round 0 false (decide (y < 0)) y.natAbs (sh - 256)

/-- The implementation's choice `r` if it is finite and within `num/2^den` ulps of y × 2^sh (or absolutely, when `abs`),
else the nearest value (R95). -/
def confine (y sh : Int) (abs : Bool) (bound : Int × Nat) (r : Word) : Word :=
  let best := ofFixed y sh
  match Fmt.f32.decode r.toNat with
  | .fin n m e =>
    let lo := Fmt.f32.round 1 false (decide (y < 0)) y.natAbs (sh - 256)
    let ulpE : Int := max (((lo % 2 ^ 31) / 2 ^ 23 : Nat) : Int) 1 - 127 - 23
    let bE : Int := (if abs then 0 else ulpE) - bound.2
    let d := addExact n m e (!decide (y < 0)) y.natAbs (sh - 256)
    if decide ((addExact false d.1.natAbs d.2 true bound.1.natAbs bE).1 ≤ 0) then r else BitVec.ofNat 32 best
  | _ => BitVec.ofNat 32 best

/-- RSQ (R95): special cases exact, else within 1 ulp. -/
def rsqOf (a : Word) : Word :=
  match Fmt.f32.decode a.toNat with
  | .nan => 0x7FC00000
  | .inf n => if n then 0x7FC00000 else 0
  | .fin n m e =>
    if m = 0 then (if n then 0xFF800000 else 0x7F800000)
    else if n then 0x7FC00000
    else
      let odd := e % 2 != 0
      let m' := if odd then 2 * m else m
      let h := (e - (if odd then 1 else 0)) / 2
      confine (isqrt 300 (2 ^ 560 / m')) (-h - 24) false (1, 0) (Config.rsq a)

/-- EX2 (R95). -/
def ex2Of (a : Word) : Word :=
  match Fmt.f32.decode a.toNat with
  | .nan => 0x7FC00000
  | .inf n => if n then 0 else 0x7F800000
  | .fin n m e =>
    if (Num.fin n m e).lt (.fin true 160 0) then confine 1 (-160 + 0) false (2, 0) (Config.ex2 a)
    else if !(Num.fin n m e).lt (.fin false 128 0) then 0x7F800000
    else
      let x := fixedOf n m e
      let i := x / one256
      let f := x % one256
      if f = 0 ∧ -149 ≤ i then BitVec.ofNat 32 (Fmt.f32.round 0 false false 1 i)
      else confine (exp2256 f) i false (2, 0) (Config.ex2 a)

/-- LG2 (R95). -/
def lg2Of (a : Word) : Word :=
  match Fmt.f32.decode a.toNat with
  | .nan => 0x7FC00000
  | .inf n => if n then 0x7FC00000 else 0x7F800000
  | .fin n m e =>
    if m = 0 then 0xFF800000
    else if n then 0x7FC00000
    else
      let k := Nat.log2 m
      let i : Int := (k : Int) + e
      let y := i * one256 + log2Go 180 ((m : Int) * one256 / 2 ^ k) (one256 / 2) 0
      if m = 2 ^ k then BitVec.ofNat 32 (if i = 0 then 0 else ofFixed (i * one256) 0)
      else if i = -1 ∨ i = 0 then confine y 0 true (1, 22) (Config.lg2 a)
      else confine y 0 false (2, 0) (Config.lg2 a)

/-- A result kept in [−1, 1]. -/
def clampUnit (w : Word) (best : Word) : Word :=
  if (w.toNat % 2 ^ 31) ≤ 0x3F800000 then w else best

/-- SIN and COS with exact argument reduction (R95). -/
def sinCosOf (cosine : Bool) (choice a : Word) : Word :=
  match Fmt.f32.decode a.toNat with
  | .nan | .inf _ => 0x7FC00000
  | .fin n m e =>
    if m = 0 then (if cosine then 0x3F800000 else a)
    else
      let x := fixedOf n m e
      let r := x % (2 * pi256) - pi256
      let y := if cosine then -(cos256 r) else -(sin256 r)
      clampUnit (confine y 0 true (1, 21) choice) (BitVec.ofNat 32 (Fmt.f32.round 1 false (decide (y < 0)) y.natAbs (-256)))

/-- TANH (R95): odd, exactly ±1.0 from 9.1 on. -/
def tanhOf (a : Word) : Word :=
  match Fmt.f32.decode a.toNat with
  | .nan => 0x7FC00000
  | .inf n => if n then 0xBF800000 else 0x3F800000
  | .fin n m e =>
    let mag : Word := a &&& 0x7FFFFFFF
    let out : Word :=
      if m = 0 then 0
      else if decide ((addExact false (10 * m) e true 91 0).1 ≥ 0) then 0x3F800000
      else
        let x := fixedOf false m e
        let t := exp256 (x / 16 * 2)
        let t2 := t * t / one256
        let t4 := t2 * t2 / one256
        let t8 := t4 * t4 / one256
        let t16 := t8 * t8 / one256
        let y := if x < one256 / 2 ^ 64 then x else (t16 - one256) * one256 / (t16 + one256)
        let best : Word := BitVec.ofNat 32 (Fmt.f32.round 1 false false y.natAbs (-256))
        let w := clampUnit (confine y 0 false (2, 0) (Config.tanh mag)) best
        if w.getLsbD 31 then best else w
    if n then out ||| 0x80000000 else out

/-- The counter-based generator (R99). -/
def mix (x : Word) : Word :=
  let x := x ^^^ (x >>> 16)
  let x := x * 0x85EBCA6B
  let x := x ^^^ (x >>> 13)
  let x := x * 0xC2B2AE35
  x ^^^ (x >>> 16)

/-- RNG (R99). -/
def rngOf (a b : Word) : Word := mix (a ^^^ mix (b + 0x9E3779B9))

end Sys2Proof.Machine
end

