-- ==== Sys2Proof/Syntax.lean ====
section
/-! DEFINITION. The instruction set of the Plynsuril P8: one constructor for each row of the table of operations and events.
The operands of an instruction word are its fields, named by the table's letters. The operands of an event say which
unit moves and what the outside supplies. -/

namespace Sys2Proof

/-- A group slot of a partition of a core (R14, R262 GSLOT). -/
structure GroupRef where
  core : Nat
  part : Nat
  slot : Nat
  deriving DecidableEq, Repr

/-- A counter bank (0 to 3) or trace unit (4) of a core or a tile (R304). -/
structure UnitRef where
  tile : Bool
  idx : Nat
  unit : Nat
  deriving DecidableEq, Repr

/-- What a packet that the mesh or a link delivers poisoned carries (R340): a write in flight, an answer of a home, a read of the host. -/
inductive Packet where
  | write (n : Nat)
  | answer (core n : Nat)
  | read (n : Nat)
  deriving DecidableEq, Repr

/-- An error in one of the structures of R340, and where it is: in DRAM only for private memory, whose sectors have no physical address
in the model. -/
inductive SoftError where
  | register (g : GroupRef) (reg lane : Nat)
  | scratchpad (block granule : Nat)
  | column (core granule : Nat)
  | accumulator (core part ctx cell : Nat)
  | plane (core part ctx : Nat) (shadow : Bool)
  | l1 (core sector : Nat)
  | l2 (sector : Nat)
  | saggar (home core ctx handle lane : Nat)
  | translation (core va : Nat)
  | freeMap (sector : Nat)
  | frameMap (frame : Nat)
  | flit (tile : Nat) (p : Packet)
  | priv (block sector : Nat)
  deriving DecidableEq, Repr

/-- What the stack-level code finds in a sector that is scrubbed, or a correctable error that a program's access has met (R341, R343); or an
error that is found elsewhere (R340; log 73). -/
inductive ScrubOutcome where
  | clean
  | corrected
  | met
  | uncorrectable
  | elsewhere (e : SoftError) (corrected : Bool)
  deriving DecidableEq, Repr

/-- How a read across the host link completes (R389). -/
inductive LinkAnswer where
  | data (bytes : List Byte)
  | rejected
  deriving DecidableEq, Repr

/-- A scale-out memory packet (R391): a write of bytes, or a read of `len` bytes when it carries none. -/
structure FabricPacket where
  port : Nat
  flow : Nat
  vf : Nat
  ctx : Nat
  va : Addr
  bytes : Option (List Byte)
  len : Nat
  release : Bool
  deriving DecidableEq, Repr

/-- A unit that gates itself off when idle (R394). -/
inductive PowerUnit where
  | matrix (core part : Nat)
  | homeLanes (home : Nat)
  | portLanes (port : Nat)
  deriving DecidableEq, Repr

/-- A firmware image in the management flash or the recovery window (R399): its bytes with their SM3 digest, its rollback number, its signature and the key
to check it by. -/
structure FirmwareImage where
  bytes : List Byte
  digest : List Byte
  rollback : Nat
  signature : List Byte
  key : List Byte
  deriving DecidableEq, Repr

/-- What a debugger reads or writes of a stopped group (R318). -/
inductive DumpOp where
  | read
  | writeReg (r lane : Nat) (v : Word)
  | writeSreg (r : Nat) (v : Word)
  | writePred (p lane : Nat) (b : Bool)
  | writeTemp (x lane : Nat) (v : Word)
  | writeMeet (lane : Nat) (v : Word)
  | writeStack (lane : Nat) (vs : List Word)
  | writeTimeout (lane : Nat) (v : Option Nat)
  deriving DecidableEq, Repr

/-- A section of a code object (R360): ELF section type and flags, alignment, contents, size in memory. -/
structure ObjSection where
  name : String
  type : Nat
  flags : Nat
  align : Nat
  bytes : List Byte
  size : Nat
  deriving DecidableEq, Repr

/-- A symbol of a code object (R360, R362). -/
structure ObjSymbol where
  type : Nat
  section_ : String
  value : Nat
  deriving DecidableEq, Repr

/-- A relocation entry (R362): the section it patches, its offset, type, symbol and addend. -/
structure ObjReloc where
  section_ : String
  offset : Nat
  type : Nat
  symbol : ObjSymbol
  addend : Int
  deriving DecidableEq, Repr

/-- A note (R363). -/
structure ObjNote where
  name : List Byte
  type : Nat
  desc : List Byte
  deriving DecidableEq, Repr

/-- A code object as its ELF container presents it (R359 to R364), with the bytes of the file for its digest (R365). -/
structure CodeObject where
  file : List Byte
  eiClass : Nat
  eiData : Nat
  eiOsabi : Nat
  eType : Nat
  eMachine : Nat
  eEntry : Nat
  eFlags : Nat
  sections : List ObjSection
  symbols : List ObjSymbol
  relocs : List ObjReloc
  deriving DecidableEq, Repr

/-- The instructions and events of the machine. -/
inductive Instr where
  /-- R80. Integer add modulo 2^32, or modulo 2^64 on pairs, register form. -/
  | iadd (w : BitVec 2) (d : BitVec 7) (a : BitVec 7) (b : BitVec 7)
  /-- R80. Integer subtract modulo 2^32, or modulo 2^64 on pairs, register form. -/
  | isub (w : BitVec 2) (d : BitVec 7) (a : BitVec 7) (b : BitVec 7)
  /-- R80. Low 32 bits of the integer product, register form. -/
  | imul (d : BitVec 7) (a : BitVec 7) (b : BitVec 7)
  /-- R80. High word of the signed 64-bit product, register form. -/
  | imulhS32 (d : BitVec 7) (a : BitVec 7) (b : BitVec 7)
  /-- R80. Signed minimum, register form. -/
  | iminS32 (d : BitVec 7) (a : BitVec 7) (b : BitVec 7)
  /-- R80. Signed maximum, register form. -/
  | imaxS32 (d : BitVec 7) (a : BitVec 7) (b : BitVec 7)
  /-- R80. a times b plus the prior destination, modulo 2^32, register form. -/
  | imad (d : BitVec 7) (a : BitVec 7) (b : BitVec 7)
  /-- R80. Adds four signed byte products to the destination. -/
  | idp4S8 (d : BitVec 7) (a : BitVec 7) (b : BitVec 7)
  /-- R80. Integer add with an immediate. -/
  | iaddImm (w : BitVec 2) (d : BitVec 7) (a : BitVec 7) (i : BitVec 7)
  /-- R80. Integer subtract with an immediate. -/
  | isubImm (w : BitVec 2) (d : BitVec 7) (a : BitVec 7) (i : BitVec 7)
  /-- R80. Integer multiply by an immediate. -/
  | imulImm (d : BitVec 7) (a : BitVec 7) (i : BitVec 7)
  /-- R80. High word of the signed product with an immediate. -/
  | imulhS32Imm (d : BitVec 7) (a : BitVec 7) (i : BitVec 7)
  /-- R80. Signed minimum with an immediate. -/
  | iminS32Imm (d : BitVec 7) (a : BitVec 7) (i : BitVec 7)
  /-- R80. Signed maximum with an immediate. -/
  | imaxS32Imm (d : BitVec 7) (a : BitVec 7) (i : BitVec 7)
  /-- R80. Multiply by an immediate and add the prior destination. -/
  | imadImm (d : BitVec 7) (a : BitVec 7) (i : BitVec 7)
  /-- R80. Absolute value as i32 modulo 2^32. -/
  | iabs (d : BitVec 7) (a : BitVec 7)
  /-- R80. High word of the unsigned 64-bit product. -/
  | imulhUi32 (d : BitVec 7) (a : BitVec 7) (b : BitVec 7)
  /-- R80. Unsigned minimum. -/
  | iminUi32 (d : BitVec 7) (a : BitVec 7) (b : BitVec 7)
  /-- R80. Unsigned maximum. -/
  | imaxUi32 (d : BitVec 7) (a : BitVec 7) (b : BitVec 7)
  /-- R80. Adds four unsigned byte products to the destination. -/
  | idp4Ui8 (d : BitVec 7) (a : BitVec 7) (b : BitVec 7)
  /-- R83. 64-bit base plus a shifted, sign-extended 32-bit index. -/
  | lea (s : BitVec 3) (d : BitVec 7) (a : BitVec 7) (b : BitVec 7)
  /-- R84. Bitwise AND, register form. -/
  | and (d : BitVec 7) (a : BitVec 7) (b : BitVec 7)
  /-- R84. Bitwise OR, register form. -/
  | or (d : BitVec 7) (a : BitVec 7) (b : BitVec 7)
  /-- R84. Bitwise XOR, register form. -/
  | xor (d : BitVec 7) (a : BitVec 7) (b : BitVec 7)
  /-- R84. a AND NOT b, register form. -/
  | andn (d : BitVec 7) (a : BitVec 7) (b : BitVec 7)
  /-- R84. Logical left shift, register form. -/
  | shl (d : BitVec 7) (a : BitVec 7) (b : BitVec 7)
  /-- R84. Logical right shift, register form. -/
  | shr (d : BitVec 7) (a : BitVec 7) (b : BitVec 7)
  /-- R84. Arithmetic right shift, register form. -/
  | sar (d : BitVec 7) (a : BitVec 7) (b : BitVec 7)
  /-- R85. Funnel shift right of a and the prior destination, register form. -/
  | shf (d : BitVec 7) (a : BitVec 7) (b : BitVec 7)
  /-- R84. Bitwise AND with an immediate. -/
  | andImm (d : BitVec 7) (a : BitVec 7) (i : BitVec 7)
  /-- R84. Bitwise OR with an immediate. -/
  | orImm (d : BitVec 7) (a : BitVec 7) (i : BitVec 7)
  /-- R84. Bitwise XOR with an immediate. -/
  | xorImm (d : BitVec 7) (a : BitVec 7) (i : BitVec 7)
  /-- R84. a AND NOT immediate. -/
  | andnImm (d : BitVec 7) (a : BitVec 7) (i : BitVec 7)
  /-- R84. Logical left shift by an immediate. -/
  | shlImm (d : BitVec 7) (a : BitVec 7) (i : BitVec 7)
  /-- R84. Logical right shift by an immediate. -/
  | shrImm (d : BitVec 7) (a : BitVec 7) (i : BitVec 7)
  /-- R84. Arithmetic right shift by an immediate. -/
  | sarImm (d : BitVec 7) (a : BitVec 7) (i : BitVec 7)
  /-- R85. Funnel shift right by an immediate. -/
  | shfImm (d : BitVec 7) (a : BitVec 7) (i : BitVec 7)
  /-- R86. Counts the set bits. -/
  | popc (d : BitVec 7) (a : BitVec 7)
  /-- R86. Counts the leading zero bits. -/
  | clz (d : BitVec 7) (a : BitVec 7)
  /-- R86. Reverses the bit order. -/
  | brev (d : BitVec 7) (a : BitVec 7)
  /-- R87. Sign-extended bit-field extract, register control. -/
  | bfxS32 (d : BitVec 7) (a : BitVec 7) (b : BitVec 7)
  /-- R87. Zero-extended bit-field extract, register control. -/
  | bfxUi32 (d : BitVec 7) (a : BitVec 7) (b : BitVec 7)
  /-- R87. Bit-field insert, register control. -/
  | bfi (d : BitVec 7) (a : BitVec 7) (b : BitVec 7)
  /-- R88. Byte permute of a and the prior destination, register control. -/
  | prmt (d : BitVec 7) (a : BitVec 7) (b : BitVec 7)
  /-- R87. Sign-extended bit-field extract, immediate control. -/
  | bfxS32Imm (d : BitVec 7) (a : BitVec 7) (i : BitVec 7)
  /-- R87. Zero-extended bit-field extract, immediate control. -/
  | bfxUi32Imm (d : BitVec 7) (a : BitVec 7) (i : BitVec 7)
  /-- R87. Bit-field insert, immediate control. -/
  | bfiImm (d : BitVec 7) (a : BitVec 7) (i : BitVec 7)
  /-- R88. Byte permute, immediate control. -/
  | prmtImm (d : BitVec 7) (a : BitVec 7) (i : BitVec 7)
  /-- R89. Signed compare writing a predicate, register form. -/
  | icmpS32 (c : BitVec 3) (p : BitVec 3) (a : BitVec 7) (b : BitVec 7)
  /-- R89. Signed compare with an immediate writing a predicate. -/
  | icmpS32Imm (c : BitVec 3) (p : BitVec 3) (a : BitVec 7) (i : BitVec 7)
  /-- R89. Unsigned compare writing a predicate, register form. -/
  | icmpUi32 (c : BitVec 3) (p : BitVec 3) (a : BitVec 7) (b : BitVec 7)
  /-- R89. Unsigned compare with an immediate writing a predicate. -/
  | icmpUi32Imm (c : BitVec 3) (p : BitVec 3) (a : BitVec 7) (i : BitVec 7)
  /-- R90. Any function of three predicates by a truth table. -/
  | plop (c : BitVec 3) (d : BitVec 3) (h : BitVec 4) (a : BitVec 3) (l : BitVec 4) (b : BitVec 3)
  /-- R90. Sets a predicate from bit 0 of a register. -/
  | pmovToPred (d : BitVec 3) (a : BitVec 7)
  /-- R90. Writes 1 or 0 from a predicate into a register. -/
  | pmovToReg (d : BitVec 7) (a : BitVec 3)
  /-- R91. Per-lane choice between a and b by a predicate. -/
  | sel (p : BitVec 3) (d : BitVec 7) (a : BitVec 7) (b : BitVec 7)
  /-- R91. Moves one to eight registers. -/
  | mov (w : BitVec 2) (d : BitVec 7) (a : BitVec 7)
  /-- R91. Writes a 32-bit immediate. -/
  | movi (d : BitVec 7) (i : BitVec 14)
  /-- R91. Writes a sign-extended 64-bit immediate to a pair. -/
  | moviX2 (d : BitVec 7) (i : BitVec 14)
  /-- R92. FP32 add rounded once, register form. -/
  | fadd (r : BitVec 2) (d : BitVec 7) (a : BitVec 7) (b : BitVec 7)
  /-- R92. FP32 subtract rounded once, register form. -/
  | fsub (r : BitVec 2) (d : BitVec 7) (a : BitVec 7) (b : BitVec 7)
  /-- R92. FP32 multiply rounded once, register form. -/
  | fmul (r : BitVec 2) (d : BitVec 7) (a : BitVec 7) (b : BitVec 7)
  /-- R92. FP32 fused multiply-add into the destination, register form. -/
  | ffma (r : BitVec 2) (d : BitVec 7) (a : BitVec 7) (b : BitVec 7)
  /-- R92. FP32 minimumNumber, register form. -/
  | fmin (d : BitVec 7) (a : BitVec 7) (b : BitVec 7)
  /-- R92. FP32 maximumNumber, register form. -/
  | fmax (d : BitVec 7) (a : BitVec 7) (b : BitVec 7)
  /-- R93. One-hot class mask of an FP32 value. -/
  | fclass (d : BitVec 7) (a : BitVec 7)
  /-- R92. FP32 add with an immediate. -/
  | faddImm (r : BitVec 2) (d : BitVec 7) (a : BitVec 7) (i : BitVec 7)
  /-- R92. FP32 subtract with an immediate. -/
  | fsubImm (r : BitVec 2) (d : BitVec 7) (a : BitVec 7) (i : BitVec 7)
  /-- R92. FP32 multiply by an immediate. -/
  | fmulImm (r : BitVec 2) (d : BitVec 7) (a : BitVec 7) (i : BitVec 7)
  /-- R92. FP32 fused multiply-add with an immediate. -/
  | ffmaImm (r : BitVec 2) (d : BitVec 7) (a : BitVec 7) (i : BitVec 7)
  /-- R92. FP32 minimumNumber with an immediate. -/
  | fminImm (d : BitVec 7) (a : BitVec 7) (i : BitVec 7)
  /-- R92. FP32 maximumNumber with an immediate. -/
  | fmaxImm (d : BitVec 7) (a : BitVec 7) (i : BitVec 7)
  /-- R89. FP32 compare writing a predicate, register form. -/
  | fcmp (c : BitVec 3) (p : BitVec 3) (a : BitVec 7) (b : BitVec 7)
  /-- R89. FP32 compare with an immediate writing a predicate. -/
  | fcmpImm (c : BitVec 3) (p : BitVec 3) (a : BitVec 7) (i : BitVec 7)
  /-- R94. Packed 16-bit float add of two elements. -/
  | hadd2 (r : BitVec 2) (t : BitVec 1) (d : BitVec 7) (a : BitVec 7) (b : BitVec 7)
  /-- R94. Packed 16-bit float multiply of two elements. -/
  | hmul2 (r : BitVec 2) (t : BitVec 1) (d : BitVec 7) (a : BitVec 7) (b : BitVec 7)
  /-- R94. Packed 16-bit float fused multiply-add. -/
  | hfma2 (r : BitVec 2) (t : BitVec 1) (d : BitVec 7) (a : BitVec 7) (b : BitVec 7)
  /-- R94. Packed 16-bit float maximumNumber. -/
  | hmax2 (t : BitVec 1) (d : BitVec 7) (a : BitVec 7) (b : BitVec 7)
  /-- R95. Correctly rounded reciprocal. -/
  | rcp (r : BitVec 2) (d : BitVec 7) (a : BitVec 7)
  /-- R95. Reciprocal square root within 1 ulp. -/
  | rsq (d : BitVec 7) (a : BitVec 7)
  /-- R95. Correctly rounded square root. -/
  | sqrt (r : BitVec 2) (d : BitVec 7) (a : BitVec 7)
  /-- R95. Base-2 exponential. -/
  | ex2 (d : BitVec 7) (a : BitVec 7)
  /-- R95. Base-2 logarithm. -/
  | lg2 (d : BitVec 7) (a : BitVec 7)
  /-- R95. Sine in radians. -/
  | sin (d : BitVec 7) (a : BitVec 7)
  /-- R95. Cosine in radians. -/
  | cos (d : BitVec 7) (a : BitVec 7)
  /-- R95. Hyperbolic tangent. -/
  | tanh (d : BitVec 7) (a : BitVec 7)
  /-- R97. Converts between numeric types by rounding mode and saturate bit. -/
  | cvt (r : BitVec 2) (s : BitVec 3) (d : BitVec 7) (a : BitVec 7) (t : BitVec 4) (h : BitVec 1) (x : BitVec 1)
  /-- R98. Stochastically rounds FP32 to a narrow format with a random word. -/
  | cvtsr (x : BitVec 1) (f : BitVec 2) (d : BitVec 7) (a : BitVec 7) (b : BitVec 7)
  /-- R99. Stateless counter-based random word from key and counter. -/
  | rng (d : BitVec 7) (a : BitVec 7) (b : BitVec 7)
  /-- R100. Reads a from lane n mod grant, register form. -/
  | shfl (d : BitVec 7) (a : BitVec 7) (b : BitVec 7)
  /-- R100. Reads a from lane l XOR n, register form. -/
  | shflx (d : BitVec 7) (a : BitVec 7) (b : BitVec 7)
  /-- R100. Reads a from lane l minus n, register form. -/
  | shflup (d : BitVec 7) (a : BitVec 7) (b : BitVec 7)
  /-- R100. Reads a from lane l plus n, register form. -/
  | shfldn (d : BitVec 7) (a : BitVec 7) (b : BitVec 7)
  /-- R101. Permutes within each quad by per-lane selectors. -/
  | qswz (d : BitVec 7) (a : BitVec 7) (b : BitVec 7)
  /-- R100. Broadcasts one lane within each quad, register form. -/
  | qbc (d : BitVec 7) (a : BitVec 7) (b : BitVec 7)
  /-- R100. Broadcasts one lane to the group, register form. -/
  | lbc (d : BitVec 7) (a : BitVec 7) (b : BitVec 7)
  /-- R100. Reads a from lane imm7 mod grant. -/
  | shflImm (d : BitVec 7) (a : BitVec 7) (i : BitVec 7)
  /-- R100. Reads a from lane l XOR imm7. -/
  | shflxImm (d : BitVec 7) (a : BitVec 7) (i : BitVec 7)
  /-- R100. Reads a from lane l minus imm7. -/
  | shflupImm (d : BitVec 7) (a : BitVec 7) (i : BitVec 7)
  /-- R100. Reads a from lane l plus imm7. -/
  | shfldnImm (d : BitVec 7) (a : BitVec 7) (i : BitVec 7)
  /-- R101. Permutes within each quad by a permutation index. -/
  | qswzImm (d : BitVec 7) (a : BitVec 7) (i : BitVec 7)
  /-- R100. Broadcasts quad position imm7 within each quad. -/
  | qbcImm (d : BitVec 7) (a : BitVec 7) (i : BitVec 7)
  /-- R100. Broadcasts lane imm7 to the group. -/
  | lbcImm (d : BitVec 7) (a : BitVec 7) (i : BitVec 7)
  /-- R102. 1 if the predicate holds in every active lane. -/
  | voteAll (d : BitVec 7) (p : BitVec 3)
  /-- R102. 1 if the predicate holds in some active lane. -/
  | voteAny (d : BitVec 7) (p : BitVec 3)
  /-- R102. 64-bit mask of active lanes where the predicate holds. -/
  | voteBallot (d : BitVec 7) (p : BitVec 3)
  /-- R102. Mask of active lanes holding an equal value. -/
  | matchLanes (d : BitVec 7) (a : BitVec 7)
  /-- R104. Transposes 8x8 byte matrices over 8-lane runs. -/
  | trn8B8 (d : BitVec 7) (a : BitVec 7)
  /-- R104. Transposes 8x8 16-bit matrices over 8-lane runs. -/
  | trn8B16 (d : BitVec 7) (a : BitVec 7)
  /-- R104. Transposes 8x8 32-bit matrices over 8-lane runs. -/
  | trn8B32 (d : BitVec 7) (a : BitVec 7)
  /-- R103. Integer sum over lanes by the fixed tree. -/
  | lredAddI32 (d : BitVec 7) (a : BitVec 7)
  /-- R103. FP32 sum over lanes by the fixed tree, rounding each step. -/
  | lredAddF32 (r : BitVec 2) (d : BitVec 7) (a : BitVec 7)
  /-- R103. FP32 minimum over lanes. -/
  | lredMinF32 (d : BitVec 7) (a : BitVec 7)
  /-- R103. FP32 maximum over lanes. -/
  | lredMaxF32 (d : BitVec 7) (a : BitVec 7)
  /-- R103. Inclusive integer prefix sum by the doubling order. -/
  | lscanAddI32 (d : BitVec 7) (a : BitVec 7)
  /-- R103. Inclusive FP32 prefix sum by the doubling order. -/
  | lscanAddF32 (r : BitVec 2) (d : BitVec 7) (a : BitVec 7)
  /-- R103. Signed integer minimum over lanes. -/
  | lredMinI32 (d : BitVec 7) (a : BitVec 7)
  /-- R103. Signed integer maximum over lanes. -/
  | lredMaxI32 (d : BitVec 7) (a : BitVec 7)
  /-- R148. Loads one word per lane into a saggar slot as a proxy, or declines to a plain load. -/
  | ldp (p : BitVec 3) (d : BitVec 7) (a : BitVec 7) (o : BitVec 7)
  /-- R149. Stores a proxy's words from its home without passing through the core. -/
  | stp (d : BitVec 7) (a : BitVec 7) (o : BitVec 7)
  /-- R150. Brings a proxy's lanes out of its home as values. -/
  | mat (d : BitVec 7) (a : BitVec 7)
  /-- R150. Releases a register's proxy reference and zeroes it. -/
  | pdrop (a : BitVec 7)
  /-- R150. Writes a register's proxy descriptor word. -/
  | pqry (d : BitVec 7) (a : BitVec 7)
  /-- R150. Sets a predicate if the register is proxy-tagged. -/
  | pqryPred (p : BitVec 3) (a : BitVec 7)
  /-- R150. Moves a register's lanes to a new slot at a named home. -/
  | pmigr (d : BitVec 7) (a : BitVec 7) (b : BitVec 7)
  /-- R186. Loads memory into registers per active lane. -/
  | ld (w : BitVec 2) (f : BitVec 3) (d : BitVec 7) (a : BitVec 7) (o : BitVec 7)
  /-- R188. Stores registers to memory per active lane. -/
  | st (w : BitVec 2) (f : BitVec 3) (d : BitVec 7) (a : BitVec 7) (o : BitVec 7)
  /-- R187. Loads and reports residency in a predicate instead of faulting. -/
  | ldq (w : BitVec 2) (p : BitVec 3) (d : BitVec 7) (a : BitVec 7) (o : BitVec 7)
  /-- R189. Loads 32-bit words from scratchpad or column. -/
  | ldsB32 (w : BitVec 2) (d : BitVec 7) (a : BitVec 7) (o : BitVec 7)
  /-- R189. Stores 32-bit words to scratchpad or column. -/
  | stsB32 (w : BitVec 2) (d : BitVec 7) (a : BitVec 7) (o : BitVec 7)
  /-- R189. Loads a zero-extended halfword from scratchpad or column. -/
  | ldsUi16 (d : BitVec 7) (a : BitVec 7) (o : BitVec 7)
  /-- R189. Loads a sign-extended halfword from scratchpad or column. -/
  | ldsS16 (d : BitVec 7) (a : BitVec 7) (o : BitVec 7)
  /-- R189. Stores a halfword to scratchpad or column. -/
  | stsB16 (d : BitVec 7) (a : BitVec 7) (o : BitVec 7)
  /-- R189. Loads a zero-extended byte from scratchpad or column. -/
  | ldsUi8 (d : BitVec 7) (a : BitVec 7) (o : BitVec 7)
  /-- R189. Loads a sign-extended byte from scratchpad or column. -/
  | ldsS8 (d : BitVec 7) (a : BitVec 7) (o : BitVec 7)
  /-- R189. Stores a byte to scratchpad or column. -/
  | stsB8 (d : BitVec 7) (a : BitVec 7) (o : BitVec 7)
  /-- R190. Load followed by an acquire of the named scope. -/
  | lda (w : BitVec 2) (s : BitVec 3) (d : BitVec 7) (a : BitVec 7) (o : BitVec 7)
  /-- R190. Release of the named scope followed by a store. -/
  | stl (w : BitVec 2) (s : BitVec 3) (d : BitVec 7) (a : BitVec 7) (o : BitVec 7)
  /-- R192. Indivisible read-modify-write per lane returning the old value. -/
  | atom (w : BitVec 2) (f : BitVec 3) (d : BitVec 7) (a : BitVec 7) (s : BitVec 3) (o : BitVec 2)
  /-- R192. Indivisible read-modify-write per lane without a result. -/
  | atomn (w : BitVec 2) (f : BitVec 3) (d : BitVec 7) (a : BitVec 7) (s : BitVec 3) (o : BitVec 2)
  /-- R193. Atomic with same-address lanes performed in ascending lane order. -/
  | atoms (w : BitVec 2) (f : BitVec 3) (d : BitVec 7) (a : BitVec 7) (s : BitVec 3) (o : BitVec 2)
  /-- R195. Fence of a kind and scope, waiting for write-backs, proxy accesses and names. -/
  | fence (k : BitVec 2) (s : BitVec 3)
  /-- R196. Waits until the thread's .nt and .wc stores are performed at system scope. -/
  | wcdrain
  /-- R197. Hints lines into L2 and optionally L1. -/
  | pref (a : BitVec 7) (c : BitVec 1)
  /-- R198. Converts between generic addresses and space offsets. -/
  | cvta (d : BitVec 7) (a : BitVec 7) (m : BitVec 7)
  /-- R203. Hands consecutive copy requests to the request engine. -/
  | cpkick (a : BitVec 7) (b : BitVec 7)
  /-- R205. Initialises a barrier object's count and clears its flags. -/
  | boinit (a : BitVec 7) (b : BitVec 7)
  /-- R205. Decrements a barrier object's count as a block-scope release. -/
  | boarr (a : BitVec 7) (b : BitVec 7)
  /-- R205. Parks until a barrier object's count reaches zero or ERR, then reports status. -/
  | bowait (d : BitVec 7) (a : BitVec 7)
  /-- R206. Places a chunk in nameless storage and later returns its name. -/
  | stn (w : BitVec 2) (d : BitVec 7) (a : BitVec 7) (p : BitVec 3)
  /-- R207. Waits until every earlier STN has returned its name. -/
  | nfence
  /-- R208. Returns named chunks to the pool. -/
  | relq (a : BitVec 7) (b : BitVec 7)
  /-- R209. Asks system software for missing pages, counting them on a barrier object. -/
  | pgreq (d : BitVec 7) (a : BitVec 7) (b : BitVec 7)
  /-- R210. Has homes write zero to whole rows. -/
  | rzero (d : BitVec 7) (a : BitVec 7) (b : BitVec 7)
  /-- R210. Has homes copy whole rows. -/
  | rcopy (d : BitVec 7) (a : BitVec 7) (b : BitVec 7)
  /-- R113. Enqueues a weight-tile load into the shadow-to-be plane, returning a token. -/
  | wload (d : BitVec 7) (a : BitVec 7)
  /-- R114. Enqueues a transposed weight-tile load with re-based scales. -/
  | wloadT (d : BitVec 7) (a : BitVec 7)
  /-- R115. Enqueues an exchange of the active and shadow planes. -/
  | wswap
  /-- R122. Clears a range of accumulator rows to +0.0. -/
  | accz (a : BitVec 7)
  /-- R123. Reads accumulator columns into registers, register form. -/
  | accld (w : BitVec 2) (d : BitVec 7) (a : BitVec 7)
  /-- R124. Writes whole accumulator rows to scratchpad. -/
  | accldScr (a : BitVec 7) (b : BitVec 7)
  /-- R123. Writes registers into accumulator columns, register form. -/
  | accst (w : BitVec 2) (d : BitVec 7) (a : BitVec 7)
  /-- R124. Loads whole accumulator rows from scratchpad. -/
  | accstScr (a : BitVec 7) (b : BitVec 7)
  /-- R118. Writes the group's gang register after checking it. -/
  | gang (a : BitVec 7)
  /-- R111. Holds the group until its scratchpad writes are performed for the array. -/
  | opfence
  /-- R117. Streams C8 activation rows through the active plane into accumulators. -/
  | mmaC8 (d : BitVec 7) (a : BitVec 7)
  /-- R117. Streams BF16 activation rows through the active plane into accumulators. -/
  | mmaBf16 (d : BitVec 7) (a : BitVec 7)
  /-- R117. C8 streaming pass followed by an outlier list. -/
  | mmao (d : BitVec 7) (a : BitVec 7) (b : BitVec 7)
  /-- R108. Parks until the named matrix token's operation completes. -/
  | mwait (a : BitVec 7)
  /-- R249. Predicated relative branch ending the run for taken lanes. -/
  | bra (p : BitVec 3) (n : BitVec 1) (o : BitVec 22)
  /-- R250. Predicated call pushing the return run start on the meeting stack. -/
  | call (p : BitVec 3) (n : BitVec 1) (o : BitVec 22)
  /-- R251. Table branch through a target list after the run. -/
  | brt (a : BitVec 7) (n : BitVec 7)
  /-- R251. Table call through a target list after the run. -/
  | callt (a : BitVec 7) (n : BitVec 7)
  /-- R252. Returns each active lane to the top meeting-stack entry. -/
  | ret
  /-- R253. Sets the meeting register to a run start, without timeout. -/
  | meet (i : BitVec 14)
  /-- R253. Sets the meeting register with a timeout. -/
  | meetw (d : BitVec 7) (i : BitVec 14)
  /-- R233. Pushes MEET on the meeting stack. -/
  | mpush
  /-- R233. Pops MEET from the meeting stack. -/
  | mpop
  /-- R257. Ends every active lane's thread. -/
  | exit
  /-- R258. Parks the group for 16n core cycles. -/
  | nap (n : BitVec 14)
  /-- R258. Releases the slot and goes behind eligible groups of its class. -/
  | yield
  /-- R255. Arrives at a block barrier and waits. -/
  | bar (d : BitVec 7) (b : BitVec 4)
  /-- R255. Arrives at a block barrier without waiting. -/
  | bara (d : BitVec 7) (b : BitVec 4)
  /-- R256. Waits for the lane's open arrival at a block barrier to close. -/
  | barw (b : BitVec 4)
  /-- R255. Arrives at a cluster barrier and waits. -/
  | cbar (d : BitVec 7) (b : BitVec 3)
  /-- R239. Role-collective that requests a new grant and re-forms the role's groups. -/
  | width (w : BitVec 2)
  /-- R240. Role-collective opening a width-locked region. -/
  | wlock
  /-- R240. Role-collective closing a width-locked region. -/
  | wfree
  /-- R243. Role-collective that claims registers from the block's spare. -/
  | rclaim (n : BitVec 8)
  /-- R243. Role-collective that gives registers to the block's spare. -/
  | rgive (n : BitVec 8)
  /-- R260. Sets the group's register window base. -/
  | win (n : BitVec 3)
  /-- R261. Reads a special register. -/
  | srd (d : BitVec 7) (s : BitVec 12)
  /-- R261. Writes a special register. -/
  | swr (d : BitVec 7) (s : BitVec 12)
  /-- R264. Hands a launch record from scratchpad to the tile dispatcher. -/
  | launch (d : BitVec 7) (p : BitVec 3)
  /-- R332. Raises the trappable fault TRAP with a code. -/
  | trap (c : BitVec 14)
  /-- R333. Ends a trap, restoring run state from the frames. -/
  | tret
  /-- R320. Stops for a debugger or traps to the handler. -/
  | bkpt (c : BitVec 14)
  /-- R312. Claims and configures a counter or trace unit. -/
  | cntclm (d : BitVec 7) (t : BitVec 1) (u : BitVec 3) (p : BitVec 3)
  /-- R312. Reads a counter's low word or latched high word. -/
  | cntrd (d : BitVec 7) (h : BitVec 1) (t : BitVec 1) (u : BitVec 3) (c : BitVec 3)
  /-- R312. Releases an owned unit, acknowledging trace records. -/
  | cntrel (t : BitVec 1) (u : BitVec 3)
  /-- R312. Writes a mark record to the owned core trace unit. -/
  | trmark (d : BitVec 7) (t : BitVec 8)
  /-- R34. Run trailer applying gap, yield and await hints. -/
  | endRun (g : BitVec 3) (y : BitVec 1) (a : BitVec 7) (n : BitVec 3)
  /-- R35. Prefix supplying high immediate bits to the next instruction. -/
  | xi (x : BitVec 23)
  /-- R36. Prefix restricting the next instruction to lanes where a predicate holds. -/
  | guard (p : BitVec 3) (n : BitVec 1)
  -- Events: every move of the device that is not the issue of an instruction word.
  /-- R276. Each core cycle a partition continues its run or selects an Eligible group and charges the slot. -/
  | runSelect (core part : Nat)
  /-- R276. A group's skip count reaches 64 and its effective class rises. -/
  | skipCountBoost (g : GroupRef)
  /-- R34. An END's gap elapses and the group moves on. -/
  | gapExpire (g : GroupRef)
  /-- R40. A pending register write completes, freeing stalled or awaiting groups. -/
  | scoreboardWriteComplete (g : GroupRef) (n : Nat)
  /-- R258. A napping group's time elapses and it becomes eligible. -/
  | napExpire (g : GroupRef)
  /-- R235. A MEETW timer expires, releasing held threads and setting the timeout flag. -/
  | meetTimeout (g : GroupRef) (target : Word)
  /-- R16. A home accepts and performs one operation per base-die cycle, round-robin. -/
  | homeOperation (home : Nat)
  /-- R135. A handle, returned predicate or MAT words arrive at the core. -/
  | homeAnswerArrival (core : Nat)
  /-- R139. A home's acknowledgement of a freed slot returns a credit and may resume PXEXH parks. -/
  | creditAckArrival (core : Nat)
  /-- R107. A queued matrix operation starts streaming or loading in queue order. -/
  | matrixOpStart (core part ctx : Nat)
  /-- R115. A queued plane exchange takes effect after the operations ahead of it. -/
  | wswapTakeEffect (core part ctx : Nat)
  /-- R109. A matrix operation completes, freeing its queue entry and its token. -/
  | matrixOpComplete (core part ctx n : Nat)
  /-- R204. The copy engine begins an accepted request in acceptance order. -/
  | copyRequestStart (core : Nat)
  /-- R162. A destination line's last byte lands, setting presence and counting the barrier object. -/
  | copyLineLand (core req line : Nat)
  /-- R204. An outward request's bytes are performed at device scope and counted. -/
  | copyOutwardWrite (core req : Nat)
  /-- R188. A write-combining buffer is written to L2 4,096 cycles after its last byte. -/
  | wcBufferTimeout (core n : Nat)
  /-- R176. A placed chunk is performed at device scope and its name returns. -/
  | stnNameReturn (core n : Nat)
  /-- R179. Relinquished sectors' copies are invalidated and the sectors become free. -/
  | relqInvalidate (n : Nat)
  /-- R181. A home performs a two-row step of a row operation. -/
  | rowOpStep (n : Nat)
  /-- R210. A row operation completes and its completion register is written. -/
  | rowOpComplete (n : Nat)
  /-- R181. A bank's refresh interval falls due. -/
  | dramRefresh (tile bank : Nat)
  /-- R343. The scrubber reads and corrects a DRAM sector. -/
  | scrubRead (sector : Nat) (found : ScrubOutcome)
  /-- R268. The host writes a launch record to a VF launch window by Deferrable Memory Write. -/
  | launchWindowDmwr (vf offset : Nat) (record : List Byte)
  /-- R268. A posted write to a launch window is discarded and raises a launch-window error. -/
  | launchWindowPostedWrite (vf : Nat)
  /-- R270. A scale-out packet carrying a launch record is checked against the tenant table. -/
  | fabricLaunch (port vf tenant : Nat) (record : List Byte)
  /-- R390. A tenant-table token bucket gains a token. -/
  | tokenRefill (port vf : Nat)
  /-- R391. A scale-out memory packet is checked and performed. -/
  | fabricMemoryPacket (p : FabricPacket)
  /-- R272. The dispatcher rereads an unmet wait word at least every 2 µs. -/
  | waitWordPoll (launch : Nat)
  /-- R272. A ready launch's kernel header read completes, or fails and drops it. -/
  | launchHeaderRead (launch : Nat)
  /-- R275. A launch ready for 1 ms counts one priority higher. -/
  | launchPriorityBoost (launch : Nat)
  /-- R275. A block unplaced for 100 µs holds back later launches. -/
  | launchStarvationHold (launch : Nat)
  /-- R273. A dispatcher draws a block or cluster and places it on a qualifying core. -/
  | blockPlace (tile : Nat)
  /-- R228. Once all the grid's work is done the completion word is written with a release at .sys. -/
  | launchComplete (launch : Nat)
  /-- R281. A unit receives a packet of another partition and discards it. -/
  | meshForeignPacket (tile source : Nat)
  /-- R389. A link-window read completes, poisoned on UR or CA. -/
  | linkReadCompletion (n : Nat) (answer : LinkAnswer)
  /-- R389. A link-window read not completed in 50 ms delivers poisoned data. -/
  | linkReadTimeout (n : Nat)
  /-- R280. Write of a tile's partition and lock, ignored while contexts are resident or LOCK is set. -/
  | partidWrite (tile : Nat) (v : Word)
  /-- R283. Write of a context descriptor, refused for a foreign ROOT or VF. -/
  | ctxdescWrite (vf slot : Nat) (v : Addr)
  /-- R170. Write of a residency range control, refused with ERR when ways conflict. -/
  | resctlWrite (tile n : Nat) (v : Word)
  /-- R291. INVCTL KIND 0 enqueues invalidation of a page range. -/
  | invPages (part : Nat) (v : Addr)
  /-- R291. INVCTL KIND 1 enqueues invalidation of a whole context. -/
  | invContext (part : Nat) (v : Addr)
  /-- R291. INVCTL KIND 2 enqueues invalidation of a whole partition. -/
  | invPartition (part : Nat) (v : Addr)
  /-- R292. The head invalidation command sweeps every cached translation. -/
  | invCommandExecute (part : Nat)
  /-- R292. Accesses using removed translations are performed and DONE takes SEQ. -/
  | invCommandComplete (part : Nat)
  /-- R326. FQRESCTL OP 0 resolves matching records, resuming parked work. -/
  | fqResolve (part : Nat) (v : Addr)
  /-- R326. FQRESCTL OP 1 refuses matching records. -/
  | fqRefuse (part : Nat) (v : Addr)
  /-- R326. FQRESCTL OP 2 releases covered PXEXH records at a home. -/
  | fqResumePxexh (part : Nat) (v : Addr)
  /-- R324. Software advances HEAD and pending records are written. -/
  | fqheadWrite (vf : Nat) (v : Word)
  /-- R324. Write of fault-queue control, ignored when the ring is invalid. -/
  | fqctlWrite (vf : Nat) (v : Word)
  /-- R296. Asks the eviction engine for a victim frame for a VF. -/
  | victimWrite (part vf : Nat)
  /-- R294. Write of VFGUAR or VFBURST, ignored when limits would break. -/
  | vfFrameCountWrite (vf : Nat) (burst : Bool) (v : Word)
  /-- R295. Each aging period raises every frame's AGE. -/
  | frameAgingTick
  /-- R385. MAPCMD OP 0 reads a free-space entry. -/
  | mapReadSector (tile : Nat) (v : Addr)
  /-- R385. MAPCMD OP 1 donates a 64-row unit to a context's pool. -/
  | mapDonateUnit (tile : Nat) (v : Addr)
  /-- R385. MAPCMD OP 2 reclaims a 64-row unit. -/
  | mapReclaimUnit (tile : Nat) (v : Addr)
  /-- R385. MAPCMD OP 3 writes and reads back a frame-map entry. -/
  | mapWriteFrame (tile : Nat) (v : Addr)
  /-- R385. A running MAPCMD command completes and BUSY clears. -/
  | mapCommandDone (tile : Nat)
  /-- R388. FLUSHCTL starts writing back and invalidating a frame's copies. -/
  | flushFrame (part : Nat) (v : Addr)
  /-- R388. The frame flush completes. -/
  | flushFrameDone (part : Nat)
  /-- R309. PFCTL OP 1 claims or reconfigures a counter or trace unit. -/
  | pfClaimUnit (u : UnitRef) (v : Addr)
  /-- R309. PFCTL OP 2 releases a unit or withdraws a pending claim. -/
  | pfReleaseUnit (u : UnitRef)
  /-- R309. PFCTL OP 3 acknowledges trace records up to an offset. -/
  | pfAckTrace (u : UnitRef) (v : Addr)
  /-- R390. Write of a tenant-table entry; setting EN fills the bucket. -/
  | tenantEntryWrite (port vf offset : Nat) (data : List Byte)
  /-- R4. Write to a register that has no behaviour of its own. -/
  | registerWrite (window : Option Nat) (offset : Nat) (v : Addr)
  /-- R303. A BUCKETED window ends and the unit publishes a coarsened snapshot. -/
  | snapshotWindow (u : UnitRef)
  /-- R314. Every 2^SPER cycles the core trace unit samples an issuing group's PC. -/
  | tracePcSample (core : Nat)
  /-- R317. A reuse tag register reaches 2^20 and counts into bin 15. -/
  | reuseTagExpire (tile n : Nat)
  /-- R298. Each 10 µs window charges extra refresh bytes to VFs that issued on the core. -/
  | heatChargeWindow (core : Nat)
  /-- R395. Each cone is read every 10 µs. -/
  | coneSample (tile n : Nat) (valid : Bool) (temp : BitVec 16)
  /-- R396. Each 10 µs the damper level moves by the cone readings. -/
  | damperEvaluate (core : Nat)
  /-- R396. The emergency persists 10 ms; the record is written and power removed. -/
  | thermalPowerOff
  /-- R397. Each 1 ms window moves the package floor. -/
  | powerFloorUpdate (watts : Nat)
  /-- R398. Each 10 µs window moves a VF's power cap level. -/
  | vfCapUpdate (vf watts : Nat)
  /-- R394. Every 100 µs a tile picks its supply voltage. -/
  | voltageUpdate (tile : Nat)
  /-- R394. An idle unit gates itself off after its idle time. -/
  | unitGate (u : PowerUnit)
  /-- R394. A gated unit finishes waking for the operation that needs it. -/
  | unitWake (u : PowerUnit)
  /-- R399. Power-on boots, verifies firmware, trains, zeroes DRAM and sets READY. -/
  | powerOnReset (fw : FirmwareImage)
  /-- R387. PF FLR or hot reset resets the whole package. -/
  | packageReset
  /-- R387. Function Level Reset of a VF ends its contexts and clears its queues. -/
  | vfFlr (vf : Nat)
  /-- R399. A signed image written to the recovery window restarts boot. -/
  | recoveryImageWrite (fw : FirmwareImage)
  /-- R346. Every 10 powered minutes firmware writes the lifetime record. -/
  | lifetimeRecordWrite
  /-- R346. Orderly shutdown writes the lifetime record. -/
  | orderlyShutdown
  /-- R401. Writing the attestation command starts a signed report. -/
  | attestRequest (who : Option Nat)
  /-- R401. The attestation report stands and the command bit clears. -/
  | attestReportReady (who : Option Nat)
  /-- R400. A PF request binds a tenant's SM2 key to a VF. -/
  | bindTenantKey (vf tenant : Nat) (key : List Byte)
  /-- R301. Firmware verifies a disclosure policy and creates a context. -/
  | contextCreate (vf slot : Nat) (desc : Addr) (policy : List Byte)
  /-- R336. Pre-emption stops new runs and placements of a context. -/
  | preempt (ctx : Nat)
  /-- R336. Once every group has stopped and waits are met the context is saved. -/
  | contextSave (ctx : Nat)
  /-- R337. A restore command answers OK, WAIT or CTXCAP. -/
  | restore (ctx part : Nat)
  /-- R337. A waiting restore finds cores and completes with OK. -/
  | restoreComplete (ctx : Nat)
  /-- R155. Firmware materialises a saved context's proxies and releases its slots. -/
  | flattenContext (ctx : Nat)
  /-- R338. A saved context's PCs are mapped through the safe-point table and handed over. -/
  | liveMigrate (ctx : Nat) (target : List Byte) (rev : Nat)
  /-- R339. A context finishes running blocks on the source while new blocks go to the target. -/
  | drainMigrate (ctx : Nat)
  /-- R318. A debugger attaches to a context. -/
  | debugAttach (ctx : Nat) (byPf : Bool)
  /-- R318. The debugger stops the context at its next command boundary. -/
  | debugStop (ctx : Nat)
  /-- R319. The debugger resumes a stopped group or context. -/
  | debugResume (ctx : Nat) (g : Option GroupRef)
  /-- R318. The debugger sets or clears a group's step bit. -/
  | debugStepSet (g : GroupRef) (on : Bool)
  /-- R318. The debugger reads or writes stopped groups' state. -/
  | debugDump (g : GroupRef) (op : DumpOp)
  /-- R165. Firmware sets the column size of a partition's cores. -/
  | setColumnSize (part units : Nat)
  /-- R178. Firmware sets a pool's low-water count. -/
  | setLowWater (ctx sectors : Nat)
  /-- R295. Firmware sets the frame aging period. -/
  | setAgingPeriod (micros : Nat)
  /-- R365. The loader checks, places and relocates a code object into a context. -/
  | loadCodeObject (ctx : Nat) (o : CodeObject)
  /-- R368. The loader unmaps an object once no launch names it. -/
  | unloadCodeObject (ctx base : Nat)
  /-- R46. An issued word that is an illegal encoding (reserved major, unlisted function, nonzero reserved field, misaligned wide operand) raises ILLENC at its address. -/
  | illegalEncoding (w : Word)
  /-- R213. A store, write-through or dirty-sector write-back issued earlier is performed at its L2 slice or home, which releases fences and releases that wait for it. -/
  | writePerformed (n : Nat)
  /-- R346. Power fails abruptly; all device state is lost, together with the lifetime counts gathered since the last record write. -/
  | powerFailure
  /-- R345. A tile's supply droops and the event is counted in that tile's DROOP count. -/
  | voltageDroop (tile : Nat)
  /-- R303. System software destroys a context; TOTAL-granularity counters publish the context's accumulated values and held releases end with the context. -/
  | contextDestroy (ctx : Nat)
  deriving DecidableEq, Repr

end Sys2Proof
end

