-- ==== Sys2Proof/Machine/State.lean ====
section
/-! DEFINITION. The state of the machine, as plain data, and the state after power-on reset. -/

namespace Sys2Proof.Machine

/-- A sparse table: keys strictly rising, no entry equal to the value an unlisted key reads as. -/
abbrev Table (α : Type) := List (Nat × α)

/-- Bytes by address (R2); an unlisted byte reads 0 (R162, R399, log 1). -/
abbrev Memory := Table Byte

/-- The canonical form of a table with default `d`: rising keys at or above `lo`, no default values. -/
def tableOk {α : Type} [DecidableEq α] (d : α) : Nat → Table α → Bool
  | _, [] => true
  | lo, (k, v) :: m => decide (lo ≤ k) && decide (v ≠ d) && tableOk d (k + 1) m

/-- Memory in canonical form. -/
def Memory.wf (m : Memory) : Bool := tableOk (0 : Byte) 0 m

/-- Why a step stops. -/
inductive Fault where
  /-- Raised by step when the package has no power (R346, R396): nothing exists to move. Safe. -/
  | unpowered
  deriving DecidableEq, Repr

/-- Why an instruction has no meaning at a state. -/
inductive Refusal where
  /-- An instruction that the model does not give a meaning; raised by exec's own arms. Safe. -/
  | notModelled (mnemonic : String)
  /-- An instruction word was given while no group of the partition whose slot it is holds an issue set. Safe. -/
  | noIssuer
  deriving DecidableEq, Repr

/-- What a vector register holds: one element a lane, or a descriptor (R129, R130). -/
inductive VReg where
  | val (lanes : List Word)
  | px (home handle : Nat)
  deriving DecidableEq, Repr

/-- What a thread waits at (R242, R256, R333). -/
inductive Wait where
  | none
  | block (b : Nat)
  | cluster (b : Nat)
  | coll
  | tret
  deriving DecidableEq, Repr

/-- The state of a thread (R231, R233, R253, R262). -/
structure Thread where
  pc : Word
  meet : Word
  stack : List Word
  tmo : Option Nat
  live : Bool
  trapfp : Word
  x : List Word
  xmark : BitVec 8
  pos : Nat
  tail : Bool
  via : Bool
  wait : Wait
  deriving DecidableEq, Repr

/-- Prefixes seen before the next instruction word (R35 to R37). -/
structure Pfx where
  x : Option (BitVec 23)
  guard : Option (BitVec 3 × BitVec 1)
  start : Option Word
  dup : Bool
  via : Bool
  deriving DecidableEq, Repr

/-- Why a group is parked, with what clears the park (R247). -/
inductive Park where
  | presence (lines : List Nat)
  | copyQueue (n : Nat)
  | barrierObj (o : Nat)
  | matrixQueue
  | matrixWait (token : Word)
  | gang
  | barrier
  | claim
  | nap (till : Nat)
  | fault
  | pxexh (homes : List (Nat × Nat)) (handles : Bool)
  deriving DecidableEq, Repr

/-- The state of a group (R247). A group in its trap handler has `trap`; one stopped for a debugger has `stopped`. -/
inductive GStat where
  | eligible
  | issuing
  | gapped (till : Nat) (await : List Nat)
  | awaiting (await : List Nat)
  | held
  | parked (why : Park)
  | exited
  deriving DecidableEq, Repr

/-- What makes a register pending (R34, R135, R206, R210). -/
inductive Pend where
  | matWords
  | homePred
  | handle
  | name
  | rows
  deriving DecidableEq, Repr

/-- A trap that a group has taken, with the FPC, the RUNPOS and the TKIND of each lane; `code` is the number of a report (R330, R331). -/
structure Trap where
  entered : Mask
  fpc : List Word
  runpos : List Nat
  tkinds : List Nat
  code : Nat
  held : List (Nat × Nat)
  deriving DecidableEq, Repr

/-- A resident group (R230 to R260); `again` says that it executes a word again whose read of an unwritten temporary has been
counted (R41); `stall` is the leaf of R278 for a slot in which its next word has waited on the scoreboard, or 0; `through` says that its
word has waited for a read-duplicated page, whose write is visible at .dev when it is performed (R227). -/
structure Group where
  core : Nat
  part : Nat
  slot : Nat
  ctx : Nat
  block : Nat
  role : Nat
  gix : Nat
  grant : Nat
  threads : List Thread
  regs : List VReg
  sregs : List Word
  preds : List Mask
  win : BitVec 3
  gang : Word
  regrant : Bool
  mto : Bool
  stepBit : Bool
  ptr : Nat
  cychi : Word
  cntLatch : Word
  status : GStat
  iset : Mask
  cont : Bool
  again : Bool
  stall : Nat
  pos : Nat
  pfx : Pfx
  sb : List (Nat × Pend)
  cls : Nat
  skip : Nat
  yielded : Bool
  timers : List (Word × Nat)
  records : Nat
  refused : Option Addr
  resumed : Option Nat
  trap : Option Trap
  busy : Nat
  through : Bool
  stopped : Bool
  rpoison : List (Nat × Nat)
  deriving DecidableEq, Repr

/-- A barrier (R254): open arrivals name threads. -/
structure Barrier where
  phase : Bool
  arrived : Nat
  expect : Option Nat
  opens : List Nat
  deriving DecidableEq, Repr

/-- A role of a block (R230, R237 to R243). -/
structure Role where
  entry : Word
  threads : Nat
  allot : Nat
  minW : Nat
  prefW : Nat
  cls : Nat
  pmask : BitVec 4
  grant : Nat
  request : Option Nat
  locked : Bool
  coll : List (Nat × Instr)
  deriving DecidableEq, Repr

/-- A resident block (R161, R165, R245, R262, R267); `ppoison` lists the 128-byte sectors of its private memory that are poisoned (R158,
R342). -/
structure Block where
  id : Nat
  ctx : Nat
  launch : Nat
  core : Nat
  lin : Nat
  coord : Nat × Nat × Nat
  dim : Nat × Nat × Nat
  csize : Nat
  rank : Nat
  cluster : Nat
  cluIdx : Nat
  base : Addr
  irev : Nat
  mmrev : Nat
  depth : Nat
  scrBase : Nat
  scrSize : Nat
  colBase : Nat
  colSize : Nat
  privSize : Nat
  trapEnt : Option Word
  drain : Bool
  roles : List Role
  scratch : Memory
  absent : List Nat
  spoison : List Nat
  unfenced : List (Nat × Byte × Nat)
  priv : Memory
  ppoison : List Nat
  bars : List Barrier
  spare : List Nat
  deriving DecidableEq, Repr

/-- The barriers of a cluster (R254). -/
structure Cluster where
  id : Nat
  bars : List Barrier
  deriving DecidableEq, Repr

/-- A weight plane (R105): data bytes, scales, mode tag, poison, whether its contents are undefined, and the number of the WLOAD
that loaded it (R112). -/
structure Plane where
  bf16 : Bool
  data : Memory
  scales : Table Word
  poison : Bool
  undef : Bool
  load : Option Nat
  deriving DecidableEq, Repr

/-- The rows of one group in a pass (R116, R119). -/
structure Stream where
  block : Nat
  data : Nat
  scale : Nat
  rows : Nat
  row0 : Nat
  deriving DecidableEq, Repr

/-- What a matrix queue entry does (R107). -/
inductive MatKind where
  | wload (transposed bf16 : Bool) (block data scale : Nat)
  | wswap
  | stream (fn : Nat) (parts : List Stream) (outBase outCount : Nat)
  deriving DecidableEq, Repr

/-- A matrix queue entry, numbered in issue order, with the block of a group that issued it. `undef` and `undefRows` say what R112 leaves undefined of it, and `bad` that it has read poison (R117);
`row` counts the rows of its pass that it has streamed (R127), and `plane` is the WLOAD of the plane that a completed pass
streamed from; `mix` lists bytes of its source that were written and not fenced when it was issued, with what they held before
(R111); `stalled` the lines it has stalled on. -/
structure MatOp where
  id : Nat
  kind : MatKind
  block : Nat
  tokens : List Word
  started : Bool
  undef : Bool
  bad : Bool
  row : Nat
  plane : Option Nat
  undefRows : List Nat
  mix : List (Nat × Nat × Byte)
  stalled : List Nat
  deriving DecidableEq, Repr

/-- A group waiting at the rendezvous latch (R119). -/
structure Latch where
  slot : Nat
  gang : Word
  fn : Nat
  rows : Stream
  out : Nat × Nat
  dest : BitVec 7
  deriving DecidableEq, Repr

/-- The matrix state of a partition for one context (R105); `done` lists completed operations that no MWAIT has covered (R112);
`waiting` the gangs, in order, that have left the latch and wait for a queue entry (R107); `count` numbers the operations. -/
structure Mat where
  core : Nat
  part : Nat
  ctx : Nat
  active : Plane
  shadow : Plane
  acc : Table Word
  accPoison : List Nat
  queue : List MatOp
  done : List MatOp
  stalled : List (Nat × Nat)
  seq : BitVec 16
  count : Nat
  badTokens : List Word
  latch : List Latch
  waiting : List (List Latch)
  deriving DecidableEq, Repr

/-- A 128-byte sector of an L1 (R167): the context that allocated it; the bytes that the core has written since it was filled or
allocated, and those of them that have not reached the L2 slice: a sector is dirty while there are any. -/
structure Sector where
  pa : Nat
  alloc : Nat
  wide : Bool
  mask : BitVec 128
  owed : BitVec 128
  data : List Byte
  poison : Bool
  deriving DecidableEq, Repr

/-- A write-combining buffer (R188): bytes of a 128-byte line, of the threads that it lists; `alloc` says that its page lets the L2
allocate (R286). -/
structure WcBuf where
  addr : Nat
  link : Bool
  alloc : Bool
  vf : Nat
  ctx : Nat
  threads : List Nat
  mask : BitVec 128
  data : List Byte
  cyc : Nat
  deriving DecidableEq, Repr

/-- A leaf entry with the page it maps (R286). -/
structure Leaf where
  va : Nat
  size : Nat
  word : Addr
  entry : Nat
  deriving DecidableEq, Repr

/-- A cached translation (R290). -/
structure TlbEntry where
  ctx : Nat
  leaf : Leaf
  deriving DecidableEq, Repr

/-- A copy request (R199); `spoilt` lists source ranges that a group has written since an outward one was accepted (R204); `left` its lines
to come, and `part` of those in which it has paused, how many elements or segments are done, and how many bytes (R327). -/
structure CopyReq where
  block : Nat
  ctx : Nat
  gix : Nat
  gslot : Nat
  pc : Word
  recOff : Nat
  mem : Addr
  org : List Int
  bnd : List Nat
  str : List Nat
  ext : List Nat
  fill : Nat
  fmt : Nat
  out : Bool
  gat : Bool
  scr : Nat
  glist : List Int
  bobj : Nat
  started : Bool
  paused : Bool
  spoilt : List (Nat × Nat)
  objBad : Bool
  left : List Nat
  part : List (Nat × Nat × Nat)
  deriving DecidableEq, Repr

/-- Proxy accounts of a context on a core (R131, R141 to R144). -/
structure PxAcct where
  ctx : Nat
  handles : List Nat
  used : Table Nat
  pol : BitVec 1
  deriving DecidableEq, Repr

/-- An answer from a home on its way to a core (R135, R150). -/
structure Answer where
  part : Nat
  slot : Nat
  key : Nat
  wr : Mask
  pred : Option Mask
  words : List Word
  deriving DecidableEq, Repr

/-- An STN whose name has not yet returned (R176, R206). -/
structure StnPend where
  part : Nat
  slot : Nat
  block : Nat
  d : Nat
  p : Nat
  act : Mask
  name : Addr
  deriving DecidableEq, Repr

/-- A core; `sent` lists outward requests whose lines are all written and whose objects still count (R204); `colUse` says to which
context each range of its column was given last (R166), `colPoison` which 8-byte granules of its column buffers hold poison (R340); `issued` counts the slots that each VF has used since the last window of R298 (R14, R21, R165, R167, R188, R203, R290, R396). -/
structure Core where
  harv : Option Nat
  cyc : Nat
  last : List Nat
  l1 : List Sector
  wc : List WcBuf
  lpr : List ((Nat × Nat) × TlbEntry)
  tlb : List TlbEntry
  reqs : List CopyReq
  sent : List CopyReq
  px : List PxAcct
  answers : List Answer
  acks : List (Nat × Nat)
  stns : List StnPend
  damper : Nat
  issued : Table Nat
  colUse : List (Nat × Nat × Nat)
  colPoison : List Nat
  deriving DecidableEq, Repr

/-- A slot of a saggar (R14, R131, R138). -/
structure Slot where
  home : Nat
  ctx : Nat
  core : Nat
  handle : Nat
  refs : Nat
  lanes : List Word
  poison : Mask
  deriving DecidableEq, Repr

/-- An operand that a home uses: values sent to it, a slot, or an operand that another home has forwarded (R16, R134, R136). -/
inductive HomeSrc where
  | none
  | vals (v : List Word)
  | slot (home handle : Nat)
  | came (v : List Word) (poison : Mask)
  deriving DecidableEq, Repr

/-- The functions that a home performs (R78, R133). -/
inductive HomeFn where
  | iadd | isub | imul | iminS | imaxS | iminU | imaxU
  | and | or | xor | shl | shr | sar
  | fadd (r : BitVec 2) | fsub (r : BitVec 2) | fmul (r : BitVec 2) | ffma (r : BitVec 2) | fmin | fmax
  | sel (p : Mask)
  | cvt (src dst : Nat) (r : BitVec 2) (sat : Bool) (elem : Nat)
  | move
  deriving DecidableEq, Repr

/-- What a home is asked to do (R133, R136, R139, R148 to R150); `past` lists the addresses of a store whose pages keep them out of
the L2 (R286). -/
inductive HomeKind where
  | make (handle : Nat) (fn : HomeFn) (a b c prior : HomeSrc) (wr : Mask)
  | compare (cond kind : Nat) (a b : HomeSrc) (wr : Mask) (part slot pred : Nat)
  | load (handle : Nat) (words : List (Nat × Nat)) (prior : HomeSrc) (wr : Mask)
  | store (words : List (Nat × Nat)) (past : List Nat) (handle : Nat)
  | bring (handle : Nat) (wr : Mask) (part slot key : Nat)
  | ref (handle : Nat)
  | release (handle : Nat)
  deriving DecidableEq, Repr

/-- An operation sent to a home and not yet performed (R16, R152). -/
structure HomeOp where
  home : Nat
  core : Nat
  ctx : Nat
  gslot : Nat
  kind : HomeKind
  deriving DecidableEq, Repr

/-- Who owns a counter or trace unit (R304). -/
inductive Owner where
  | free
  | pf
  | ctx (c : Nat)
  deriving DecidableEq, Repr

/-- Which events a unit takes (R307, R309). -/
inductive Filter where
  | ctx (c : Nat)
  | vf (v : Nat)
  | all
  deriving DecidableEq, Repr

/-- A claim of the physical function: its filter and its record (R308, R309). -/
structure Claim where
  filter : Filter
  record : List Byte
  deriving DecidableEq, Repr

/-- A counter bank or trace unit; `froze` holds what the physical function reads of a unit that it has lost; `share` holds what each
context has added to each counter, at 8 times its CTXID plus the counter, `pub` the totals published when contexts ended, and `least`
and `minw` the least-disclosing codes and the longest window of the contexts that have ended (R303, R304, R306, R315). -/
structure CUnit where
  ref : UnitRef
  owner : Owner
  filter : Filter
  pend : Option Claim
  pfrec : List Byte
  pfctl : Addr
  lost : Bool
  froze : List Nat
  ovf : BitVec 8
  record : List Byte
  cnt : List Nat
  snap : List Nat
  pub : List Nat
  share : Table Nat
  least : List Nat
  minw : Nat
  from_ : Nat
  written : Nat
  dropped : Nat
  missed : Nat
  woff : Nat
  ack : Nat
  deriving DecidableEq, Repr

/-- A residency range of a partition's slices at one tile (R169, R170). -/
structure ResRange where
  base : Addr
  lim : Addr
  ctl : Word
  c : Nat
  deriving DecidableEq, Repr

/-- A line of an L2 slice (R18, R160, R170): its number in the stack, its way, the context that allocated it, whether the DRAM lacks
its bytes, and which of its eight sectors are poisoned (R340). -/
structure L2Line where
  line : Nat
  way : Nat
  ctx : Nat
  dirty : Bool
  bad : BitVec 8
  deriving DecidableEq, Repr

/-- A reuse-distance tag register (R317). -/
structure ReuseTag where
  n : Nat
  unit : Nat
  line : Nat
  d : Nat
  deriving DecidableEq, Repr

/-- A tile (R169, R174, R280, R293, R344, R385, R395, R398). `touched` holds the aging period of each frame's last access, from
which its AGE follows (R295); `used` the core cycle at which each unit that gates itself had work last (R394). -/
structure Tile where
  partid : Word
  errlog : Addr
  res : List ResRange
  l2 : List L2Line
  mapcmd : Addr
  mapdata : Addr
  mapBusy : Bool
  cones : List Word
  voltage : Nat
  gated : List PowerUnit
  used : List (PowerUnit × Nat)
  tlb : List TlbEntry
  tags : List ReuseTag
  sampled : Table Nat
  fsm : Table (BitVec 16)
  fmap : Table (BitVec 16)
  touched : Table Nat
  refreshDue : List Nat
  refresh : Nat
  errAt : Nat
  deriving DecidableEq, Repr

/-- An invalidation command (R291). -/
structure InvCmd where
  va : Addr
  ctl : Addr
  done : Bool
  deriving DecidableEq, Repr

/-- An isolated partition (R165, R291, R296, R326, R388). -/
structure IsoPart where
  invva : Addr
  invctl : Addr
  invstat : Word
  queue : List InvCmd
  fqresva : Addr
  fqresctl : Addr
  epoch : Nat
  victim : Addr
  flushpa : Addr
  flushing : Bool
  column : Nat
  deriving DecidableEq, Repr

/-- What a VF's launch window has answered last (R268). -/
inductive WindowAnswer where
  | none
  | success
  | retry
  | unsupported
  deriving DecidableEq, Repr

/-- What a scale-out port has answered a packet (R270, R391): performed, with the bytes of a read; its negative acknowledgement; or bytes
that were poisoned. -/
inductive PortAnswer where
  | done (data : List Byte)
  | refused
  | poisoned
  deriving DecidableEq, Repr

/-- A virtual function (R268, R274, R283, R294, R324, R386, R398, R400, R401). -/
structure Vf where
  part : Nat
  plbud : Addr
  guar : Word
  burst : Word
  frameErr : Bool
  ctxdesc : List Addr
  irq : Word
  fqbase : Addr
  fqctl : Word
  fqhead : Word
  fqtail : Word
  fqfull : Bool
  pend : List (List Byte)
  cap : Nat
  traffic : Nat
  measured : Nat
  power : Nat
  lwerr : Nat
  aer : Bool
  window : WindowAnswer
  refused : List Nat
  created : Option Bool
  tenant : Nat
  key : List Byte
  polseq : Table Nat
  nonce : List Byte
  nonceUsed : List Byte
  attBusy : Bool
  report : List Byte
  deriving DecidableEq, Repr

/-- A tenant-table entry; its bucket has been filled at core cycle `since` (R270, R390). -/
structure Tenant where
  port : Nat
  vf : Nat
  bytes : List Byte
  tokens : Nat
  refusals : Nat
  since : Nat
  deriving DecidableEq, Repr

/-- A loaded code object; `going` the core cycle in which its unloading was asked for (R365, R366, R368). -/
structure Loaded where
  base : Addr
  dataVa : Nat
  dataLen : Nat
  codeLen : Nat
  safept : List Byte
  digest : List Byte
  going : Option Nat
  deriving DecidableEq, Repr

/-- What a debugger has read of a stopped group: the record that names the tile task, the group, its block's scratchpad (R318). -/
structure Dump where
  task : List Byte
  group : Group
  scratch : Memory
  deriving DecidableEq, Repr

/-- Whether a context runs (R335, R336). -/
inductive CtxRun where
  | running
  | stopping
  | saved
  | restoring
  | ended
  deriving DecidableEq, Repr

/-- What the CTXEND record of a context names (R335): the fault that ends it. -/
structure Ending where
  code : Nat
  pc : Nat
  block : Nat
  group : Nat
  gslot : Nat
  core : Nat
  addr : Nat
  aux : Nat
  deriving DecidableEq, Repr

/-- A context; `frames` lists the frames that the loader uses for it (R366); `answer` is the status of its last restore command: 0 OK, 1 WAIT, 256 and the reason for CTXCAP; `loadAnswer`
that of its last load: 0, the reason it was refused, or none while it is not complete; `dump` what a debugger has read last; `ending` the fault of this core cycle that ends it; `reported` whether the target of its drain migration has been told that its work here has completed (R142, R178, R229, R271, R283, R299, R318). -/
structure Context where
  id : Nat
  vf : Nat
  part : Nat
  root : Nat
  run : CtxRun
  quota : Nat
  quotaWait : Nat
  mm0 : Bool
  mm0Wait : Bool
  objs : List Loaded
  frames : List Nat
  policy : List Byte
  seq : Nat
  low : Nat
  dbg : Option Bool
  debugStop : Bool
  drained : Bool
  reported : Bool
  answer : Nat
  loadAnswer : Option Nat
  dump : Option Dump
  ending : Option Ending
  deriving DecidableEq, Repr

/-- Where a launch stands (R271, R272). -/
inductive LaunchSt where
  | waiting
  | met
  | ready
  deriving DecidableEq, Repr

/-- A launch in a queue; where it came from (0 the host link, 1 and the core's number in its tile, 5 and the port) and the base-die
cycle in which it came; the core cycles of its tile at which it became ready and at which its last block was placed (R266, R271, R275). -/
structure Launch where
  id : Nat
  ctx : Nat
  tile : Nat
  prio : Nat
  seq : Nat
  record : List Byte
  digest : Option (List Byte)
  state : LaunchSt
  header : List Byte
  next : Nat
  total : Nat
  ended : Nat
  boosted : Nat
  hold : Bool
  readyAt : Nat
  movedAt : Nat
  src : Nat
  cyc : Nat
  deriving DecidableEq, Repr

/-- A fault record that holds something parked or counted (R324 to R328); a stale one belongs to a group that has run its
instruction again. -/
structure FRec where
  vf : Nat
  ctx : Nat
  kind : Nat
  va : Nat
  home : Nat
  need : Nat
  handles : Bool
  core : Nat
  part : Nat
  slot : Nat
  block : Nat
  bobj : Nat
  copy : Nat
  written : Bool
  epoch : Nat
  stale : Bool
  deriving DecidableEq, Repr

/-- A link-window read of a lane (R389), with its completion once it has returned. -/
structure LinkRead where
  vf : Nat
  addr : Nat
  len : Nat
  core : Nat
  part : Nat
  slot : Nat
  lane : Nat
  answer : Option LinkAnswer
  sentAt : Nat
  deriving DecidableEq, Repr

/-- A row operation (R180, R181, R210): destination rows with their sources, whether the first row of its present step is done, and
the rows whose result is undefined. -/
structure RowOp where
  core : Nat
  part : Nat
  slot : Nat
  block : Nat
  key : Nat
  rows : List (Nat × Option Nat)
  half : Bool
  undef : List Nat
  deriving DecidableEq, Repr

/-- Sectors that RELQ has put in state 3 (R179). -/
structure Relq where
  part : Nat
  ctx : Nat
  sectors : List Nat
  deriving DecidableEq, Repr

/-- A write that has been issued to an L2 slice or to the host and is not yet performed (R213, R215); weak for .nt and .wc stores
(R225); `alloc` says that its page lets the L2 allocate (R286). -/
structure InFlight where
  addr : Nat
  link : Bool
  vf : Nat
  ctx : Nat
  core : Nat
  thread : Nat
  weak : Bool
  alloc : Bool
  bytes : List Byte
  deriving DecidableEq, Repr

/-- Whether the package has power and has come up (R396, R399). -/
inductive Power where
  | off
  | booting
  | recovery
  | ready
  deriving DecidableEq, Repr

/-- An event that has fallen due, by the name of its row of the table. -/
inductive Due where
  | attestReportReady (who : Option Nat)
  | blockPlace (tile : Nat)
  | contextSave (ctx : Nat)
  | copyLineLand (core req line : Nat)
  | copyOutwardWrite (core req : Nat)
  | copyRequestStart (core : Nat)
  | creditAckArrival (core : Nat)
  | damperEvaluate (core : Nat)
  | dramRefresh (tile bank : Nat)
  | flushFrameDone (part : Nat)
  | frameAgingTick
  | gapExpire (g : GroupRef)
  | heatChargeWindow (core : Nat)
  | homeAnswerArrival (core : Nat)
  | homeOperation (home : Nat)
  | invCommandComplete (part : Nat)
  | invCommandExecute (part : Nat)
  | launchComplete (launch : Nat)
  | launchHeaderRead (launch : Nat)
  | launchPriorityBoost (launch : Nat)
  | launchStarvationHold (launch : Nat)
  | lifetimeRecordWrite
  | linkReadTimeout (n : Nat)
  | mapCommandDone (tile : Nat)
  | matrixOpComplete (core part ctx n : Nat)
  | matrixOpStart (core part ctx : Nat)
  | meetTimeout (g : GroupRef) (target : Word)
  | napExpire (g : GroupRef)
  | relqInvalidate (n : Nat)
  | restoreComplete (ctx : Nat)
  | reuseTagExpire (tile n : Nat)
  | rowOpComplete (n : Nat)
  | rowOpStep (n : Nat)
  | scrubRead (sector : Nat)
  | scoreboardWriteComplete (g : GroupRef) (n : Nat)
  | skipCountBoost (g : GroupRef)
  | snapshotWindow (u : UnitRef)
  | stnNameReturn (core n : Nat)
  | thermalPowerOff
  | tokenRefill (port vf : Nat)
  | tracePcSample (core : Nat)
  | unitGate (u : PowerUnit)
  | unitWake (u : PowerUnit)
  | unloadCodeObject (ctx base : Nat)
  | voltageUpdate (tile : Nat)
  | waitWordPoll (launch : Nat)
  | wcBufferTimeout (core n : Nat)
  | writePerformed (n : Nat)
  | wswapTakeEffect (core part ctx : Nat)
  deriving DecidableEq, Repr

/-- What a saved context's image says of the machine (R336). -/
structure Image where
  ctx : Nat
  groups : List Group
  blocks : List Block
  clusters : List Cluster
  mats : List Mat
  reqs : List (Nat × CopyReq)
  sent : List (Nat × CopyReq)
  px : List (Nat × PxAcct)
  units : List CUnit
  deriving DecidableEq, Repr

/-- The state of the machine. `port` counts the slots of a core cycle: 4 times the core, plus the partition (R308); `scrubs` lists the sectors whose scrub
reads wait at their homes and `scrubAt` the next sector (R343); `passed` holds what has passed to the target of a drain
migration, each launch with its next-block counter (R339); `devKey` is the device's private key and `cert` its certified public key in
the flash (R400); `uncounted` says that a power-on has not come up yet (R345). `flash` holds the two slots of the lifetime record, `life` the counts of the record by the byte
offsets of R345, with those of `heat` in units of 10 µs; `turns` says for each home which source it took last (R16); `host` holds the host's bytes by VF and bus
address (R282); `hot` is one more than the core cycle count at which the emergency of
R396 began, or 0. -/
structure State where
  power : Power
  agenda : List Due
  port : Nat
  free : Nat
  nextId : Nat
  cores : List Core
  tiles : List Tile
  parts : List IsoPart
  vfs : List Vf
  tenants : List Tenant
  ports : List (Option PortAnswer)
  contexts : List Context
  images : List Image
  launches : List Launch
  passed : List Launch
  blocks : List Block
  clusters : List Cluster
  groups : List Group
  mats : List Mat
  slots : List Slot
  homeq : List HomeOp
  turns : Table Nat
  units : List CUnit
  mem : Memory
  poison : List Nat
  host : Memory
  inflight : List InFlight
  reads : List LinkRead
  rowops : List RowOp
  scrubs : List Nat
  scrubAt : Nat
  relqs : List Relq
  recs : List FRec
  faultLog : List (List Byte)
  pfCauses : Word
  isolation : Nat
  floor : Nat
  pfReport : Vf
  fuseRoll : Nat
  devKey : List Byte
  cert : List Byte
  uncounted : Bool
  fw : List Byte
  image : Option FirmwareImage
  flash : List (List Byte)
  life : Table Nat
  heat : Table Nat
  period : Nat
  ticks : Nat
  hot : Nat
  deriving DecidableEq, Repr

/-- A core after power-on, before any harvesting fuse (log 1, log 2); the first selection of a partition begins at slot 0 (log 24). -/
def Core.init : Core :=
  { harv := none, cyc := 0, last := [15, 15, 15, 15], l1 := [], wc := [], lpr := [], tlb := [], reqs := [], sent := [],
    px := [], answers := [], acks := [], stns := [], damper := 0, issued := [], colUse := [], colPoison := [] }

/-- A residency range after reset (R169). -/
def ResRange.init : ResRange := { base := 0, lim := 0, ctl := 0, c := 0 }

/-- A tile after reset (R280, R344, R385, R395). -/
def Tile.init (t : Nat) : Tile :=
  { partid := BitVec.ofNat 32 t, errlog := 0, res := List.replicate 8 ResRange.init, l2 := [], mapcmd := 0, mapdata := 0,
    mapBusy := false, cones := List.replicate 32 0, voltage := 0, gated := [], used := [], tlb := [], tags := [],
    sampled := [], fsm := [], fmap := [], touched := [], refreshDue := [], refresh := 0, errAt := 0 }

/-- A partition's registers after reset (R291, R296, R326, R388). -/
def IsoPart.init : IsoPart :=
  { invva := 0, invctl := 0, invstat := 0, queue := [], fqresva := 0, fqresctl := 0, epoch := 0, victim := 0,
    flushpa := 0, flushing := false, column := 0 }

/-- A VF after reset (R274, R283, R294, R324, R386): FQCTL.LOGN is 7. -/
def Vf.init : Vf :=
  { part := 0, plbud := 0, guar := 0, burst := 0, frameErr := false, ctxdesc := List.replicate 16 0, irq := 0,
    fqbase := 0, fqctl := 0x00070000, fqhead := 0, fqtail := 0, fqfull := false, pend := [], cap := 0, traffic := 0, measured := 0,
    power := 0, lwerr := 0, aer := false, window := .none, refused := [0, 0, 0], created := none, tenant := 0, key := [], polseq := [], nonce := List.replicate 32 0, nonceUsed := [],
    attBusy := false, report := List.replicate 224 0 }

/-- The machine right after power-on reset (R399 before its first step). -/
def State.reset : State :=
  { power := .booting, agenda := [], port := 0, free := 0, nextId := 0,
    cores := List.replicate 80 Core.init, tiles := (List.range 20).map Tile.init, parts := List.replicate 20 IsoPart.init,
    vfs := List.replicate 64 Vf.init, tenants := [], ports := List.replicate 8 none, contexts := [], images := [], launches := [], passed := [], blocks := [],
    clusters := [], groups := [], mats := [], slots := [], homeq := [], turns := [], units := [], mem := [], poison := [], host := [],
    inflight := [], reads := [], rowops := [], scrubs := [], scrubAt := 0, relqs := [], recs := [], faultLog := [], pfCauses := 0, isolation := 0,
    floor := 0, pfReport := Vf.init, fuseRoll := 0, devKey := [], cert := [], uncounted := false, fw := [], image := none, flash := [], life := [], heat := [], period := 1000, ticks := 0, hot := 0 }

end Sys2Proof.Machine
end

