-- ==== Sys2Proof/Machine/Base.lean ====
section
/-! DEFINITION. Tables, bytes and bit fields; the parts of the state by index; counters; the layout of fault-queue records. -/

namespace Sys2Proof.Machine

/-- The value a table holds at a key. -/
def tget {α : Type} (d : α) : Table α → Nat → α
  | [], _ => d
  | (j, v) :: m, k => if j = k then v else tget d m k

/-- A table with the value at a key replaced, in canonical form. -/
def tset {α : Type} [DecidableEq α] (d : α) : Table α → Nat → α → Table α
  | [], k, v => if v = d then [] else [(k, v)]
  | (j, w) :: m, k, v =>
    if k < j then (if v = d then (j, w) :: m else (k, v) :: (j, w) :: m)
    else if k = j then (if v = d then m else (k, v) :: m)
    else (j, w) :: tset d m k v

/-- One byte of memory. -/
def rdByte (m : Memory) (a : Nat) : Byte := tget 0 m a
/-- Memory with one byte written. -/
def wrByte (m : Memory) (a : Nat) (v : Byte) : Memory := tset 0 m a v
/-- n bytes of memory from an address on. -/
def rdBytes (m : Memory) (a n : Nat) : List Byte := (List.range n).map fun k => rdByte m (a + k)
/-- Memory with bytes written from an address on. -/
def wrBytes (m : Memory) (a : Nat) : List Byte → Memory
  | [] => m
  | v :: vs => wrBytes (wrByte m a v) (a + 1) vs
/-- The little-endian number of bytes (R2). -/
def leNat : List Byte → Nat
  | [] => 0
  | b :: bs => b.toNat + 256 * leNat bs
/-- The n little-endian bytes of a number (R2). -/
def leBytes : Nat → Nat → List Byte
  | 0, _ => []
  | n + 1, v => BitVec.ofNat 8 v :: leBytes n (v / 256)
/-- Bits [hi:lo] of a word (R2, R7). -/
def bitsOf {n : Nat} (w : BitVec n) (hi lo : Nat) : Nat := w.toNat / 2 ^ lo % 2 ^ (hi + 1 - lo)
/-- The word in a list of bytes at an offset. -/
def fieldAt (bs : List Byte) (o n : Nat) : Nat := leNat ((bs.drop o).take n)
/-- The lanes below n in a mask, ascending. -/
def lanesOf (m : Mask) (n : Nat) : List Nat := (List.range n).filter fun l => m.getLsbD l
/-- The mask of the lanes below n that satisfy a test. -/
def maskOf (n : Nat) (p : Nat → Bool) : Mask :=
  BitVec.ofNat 64 ((List.range n).foldl (fun a l => if p l then a + 2 ^ l else a) 0)
/-- A list with its elements first seen kept once. -/
def dedup {α : Type} [DecidableEq α] (l : List α) : List α :=
  l.foldl (fun acc x => if x ∈ acc then acc else acc ++ [x]) []
/-- A list with one element changed. -/
def modAt {α : Type} (l : List α) (k : Nat) (f : α → α) : List α :=
  match l, k with
  | [], _ => []
  | x :: xs, 0 => f x :: xs
  | x :: xs, k + 1 => x :: modAt xs k f

/-- The home of a physical address (R15, R159). -/
def homeOf (pa : Nat) : Nat :=
  let l := pa % 2 ^ 36 / 1024
  pa / 2 ^ 36 * 256 + ((l % 64) ^^^ (l / 65536 % 64)) * 4 + l / 64 % 4
/-- The row of its bank that a physical address lies in (R159). -/
def rowOf (pa : Nat) : Nat := pa % 2 ^ 36 / 2 ^ 20
/-- The bank of its bank group that a physical address lies in (R159). -/
def bankOf (pa : Nat) : Nat := pa % 2 ^ 36 / 1024 / 256 % 4
/-- The physical address of a name's byte (R159, R175). -/
def namePa (n : Nat) : Nat :=
  let row := n / 2 ^ 25 % 65536
  let pch := (n / 2 ^ 45 % 64) ^^^ (row / 64 % 64)
  n / 2 ^ 51 % 32 * 2 ^ 36 + row * 2 ^ 20 + n / 2 ^ 41 % 4 * 2 ^ 18 + n / 2 ^ 43 % 4 * 2 ^ 16 + pch * 1024 + n % 1024
/-- The name of a physical address (R159, R175). -/
def paName (pa : Nat) : Addr :=
  let row := rowOf pa
  let pch := (pa / 1024 % 64) ^^^ (row / 64 % 64)
  BitVec.ofNat 64 (0xC5 * 2 ^ 56 + pa / 2 ^ 36 * 2 ^ 51 + pch * 2 ^ 45 + pa / 2 ^ 16 % 4 * 2 ^ 43 + pa / 2 ^ 18 % 4 * 2 ^ 41
    + row * 2 ^ 25 + pa % 1024)

/-- A core, by index. -/
def State.coreAt (s : State) (c : Nat) : Core := s.cores.getD c Core.init
/-- The state with one core changed. -/
def State.modCore (s : State) (c : Nat) (f : Core → Core) : State := { s with cores := modAt s.cores c f }
/-- A tile, by index. -/
def State.tileAt (s : State) (t : Nat) : Tile := s.tiles.getD t (Tile.init t)
/-- The state with one tile changed. -/
def State.modTile (s : State) (t : Nat) (f : Tile → Tile) : State := { s with tiles := modAt s.tiles t f }
/-- The partition of a tile (R280). -/
def State.partOf (s : State) (t : Nat) : Nat := bitsOf (s.tileAt t).partid 4 0
/-- A VF, by number. -/
def State.vfAt (s : State) (v : Nat) : Vf := s.vfs.getD v Vf.init
/-- The state with one VF changed. -/
def State.modVf (s : State) (v : Nat) (f : Vf → Vf) : State := { s with vfs := modAt s.vfs v f }
/-- An isolated partition's registers. -/
def State.isoAt (s : State) (p : Nat) : IsoPart := s.parts.getD p IsoPart.init
/-- The state with one partition's registers changed. -/
def State.modIso (s : State) (p : Nat) (f : IsoPart → IsoPart) : State := { s with parts := modAt s.parts p f }
/-- A context, by CTXID. -/
def State.ctxAt (s : State) (c : Nat) : Option Context := s.contexts.find? fun x => x.id == c
/-- The state with one context changed. -/
def State.modCtx (s : State) (c : Nat) (f : Context → Context) : State :=
  { s with contexts := s.contexts.map fun x => if x.id = c then f x else x }
/-- A resident block. -/
def State.blockAt (s : State) (b : Nat) : Option Block := s.blocks.find? fun x => x.id == b
/-- The state with one block changed. -/
def State.modBlock (s : State) (b : Nat) (f : Block → Block) : State :=
  { s with blocks := s.blocks.map fun x => if x.id = b then f x else x }
/-- Whether a group has a slot of a partition. -/
def Group.isAt (g : Group) (c p k : Nat) : Bool := g.core == c && g.part == p && g.slot == k
/-- The group in a slot. -/
def State.groupAt (s : State) (c p k : Nat) : Option Group := s.groups.find? fun g => g.isAt c p k
/-- The state with the group in a slot changed. -/
def State.modGroup (s : State) (c p k : Nat) (f : Group → Group) : State :=
  { s with groups := s.groups.map fun g => if g.isAt c p k then f g else g }
/-- The state with the matrix state of a partition and a context changed. -/
def State.modMat (s : State) (c p x : Nat) (f : Mat → Mat) : State :=
  { s with mats := s.mats.map fun m => if m.core = c ∧ m.part = p ∧ m.ctx = x then f m else m }
/-- The matrix state of a partition for a context. -/
def State.matAt (s : State) (c p x : Nat) : Option Mat := s.mats.find? fun m => m.core == c && m.part == p && m.ctx == x
/-- A launch, by its number. -/
def State.launchAt (s : State) (n : Nat) : Option Launch := s.launches.find? fun l => l.id == n
/-- The state with one launch changed. -/
def State.modLaunch (s : State) (n : Nat) (f : Launch → Launch) : State :=
  { s with launches := s.launches.map fun l => if l.id = n then f l else l }
/-- The tile of a core (R14). -/
def tileOf (core : Nat) : Nat := core / 4
/-- The key of a byte of the host's memory: the host translates the bus addresses of each VF by itself (R282). -/
def hostKey (vf a : Nat) : Nat := vf * 2 ^ 64 + a
/-- The next free value (R6), and the state with the counter advanced. -/
def State.fresh (s : State) : Word × State := (Config.freeValue s.free, { s with free := s.free + 1 })
/-- A free choice among n. -/
def State.choose (s : State) (n : Nat) : Nat × State := (s.fresh.1.toNat % n, s.fresh.2)
/-- n free values. -/
def State.freshes (s : State) (n : Nat) : List Word × State :=
  ((List.range n).map fun k => Config.freeValue (s.free + k), { s with free := s.free + n })

/-- The interrupt cause bit of a VF set (R386, R387). -/
def State.irq (s : State) (v bit : Nat) : State := s.modVf v fun x => { x with irq := x.irq ||| BitVec.ofNat 32 (2 ^ bit) }
/-- A cause bit of the physical function set (R387). -/
def State.pfIrq (s : State) (bit : Nat) : State := { s with pfCauses := s.pfCauses ||| BitVec.ofNat 32 (2 ^ bit) }

/-- What an event belongs to, and where it happens (R305, R307). -/
structure Where where
  tile : Bool
  idx : Nat
  part : Nat
  ctx : Nat
  vf : Nat
  seq : Nat

/-- Whether a filter takes an event (R307). -/
def Filter.takes (f : Filter) (w : Where) : Bool :=
  match f with
  | .ctx c => c == w.ctx
  | .vf v => w.ctx != 0 && v == w.vf
  | .all => true

/-- Selector i of a counter bank's record (R305, R306). -/
def selector (r : List Byte) (i : Nat) : BitVec 16 := BitVec.ofNat 16 (fieldAt r (2 * i) 2)

/-- Whether a selector counts an event (R305). -/
def selCounts (e : BitVec 16) (cls ev part : Nat) : Bool :=
  e.getLsbD 15 && bitsOf e 14 11 == cls && bitsOf e 6 0 == ev &&
    (decide (1 < cls) || bitsOf e 10 7 == 0 || e.getLsbD (7 + part))

/-- Whether a unit's owner counts now and the event passes its filter (R306, R307, R309). -/
def CUnit.takes (u : CUnit) (w : Where) : Bool :=
  u.owner != .free && u.ref.tile == w.tile && u.ref.idx == w.idx && u.filter.takes w &&
    (fieldAt u.record 24 8 == 0 || fieldAt u.record 24 8 == w.seq)

/-- Whether counter i of a unit counts an event (R305, R307). -/
def CUnit.hits (u : CUnit) (w : Where) (cls ev i : Nat) : Bool :=
  decide (u.ref.unit < 4) && u.takes w && selCounts (selector u.record i) cls ev w.part

/-- The counters of a unit that wrap when those that count an event advance by n (R311). -/
def CUnit.wraps (u : CUnit) (hit : Nat → Bool) (n : Nat) : BitVec 8 :=
  BitVec.ofNat 8 ((List.range 8).foldl (fun a i => if hit i && decide (2 ^ 48 ≤ u.cnt.getD i 0 + n) then a + 2 ^ i else a) 0)

/-- A unit with n more events counted of a context (R303, R304, R311). -/
def CUnit.add (u : CUnit) (hit : Nat → Bool) (ctx n : Nat) : CUnit :=
  if (List.range 8).any hit then
    { u with
      cnt := (List.range 8).map fun i => if hit i then (u.cnt.getD i 0 + n) % 2 ^ 48 else u.cnt.getD i 0
      share := (List.range 8).foldl (fun t i => if hit i then tset 0 t (8 * ctx + i) ((tget 0 t (8 * ctx + i) + n) % 2 ^ 48) else t) u.share
      ovf := u.ovf ||| u.wraps hit n }
  else u

/-- The counters that a test picks advanced, and an overflow interrupt raised for each unit with an enabled counter that wraps (R311). -/
def State.countBy (s : State) (hit : CUnit → Nat → Bool) (ctx n : Nat) : State :=
  let wraps := s.units.filter fun u => (u.wraps (hit u) n &&& BitVec.ofNat 8 (fieldAt u.record 16 1)) != 0
  let s := { s with units := s.units.map fun u => u.add (hit u) ctx n }
  wraps.foldl (fun s u =>
    match u.owner with
    | .free => s
    | .pf => s.pfIrq 3
    | .ctx c => match s.ctxAt c with | some x => s.irq x.vf 2 | none => s) s

/-- The counters that select an event advanced (R305, R311). -/
def State.count (s : State) (w : Where) (cls ev n : Nat) : State := s.countBy (fun u => u.hits w cls ev) w.ctx n

/-- Operator-side coarsening of an address (R300). -/
def coarseAddr (g v : Nat) : Nat := if g = 3 then v else if g = 2 then v / 2 ^ 21 * 2 ^ 21 else 0
/-- Operator-side coarsening of a PC (R300). -/
def coarsePc (g v : Nat) : Nat := if g = 3 then v else if g = 2 then v / 2 ^ 12 * 2 ^ 12 else 0
/-- Operator-side coarsening of any other field (R300). -/
def coarse (g v : Nat) : Nat := if g < 2 then 0 else v

/-- The granularity of fault-report field f in a policy (R299). -/
def fltg (pol : List Byte) (f : Nat) : Nat := fieldAt pol 28 4 / 4 ^ f % 4

/-- The fields of a fault-queue record (R325). -/
structure FqRec where
  addr : Nat
  pc : Nat
  ctx : Nat
  kind : Nat
  code : Nat
  block : Nat
  group : Nat
  gslot : Nat
  core : Nat
  flags : Nat
  aux : Nat

/-- The 32 bytes of a fault-queue record (R325). -/
def FqRec.bytes (r : FqRec) : List Byte :=
  leBytes 8 r.addr ++ leBytes 4 r.pc ++ leBytes 2 r.ctx ++ leBytes 1 r.kind ++ leBytes 1 r.code ++ leBytes 4 r.block ++
    leBytes 1 r.group ++ leBytes 1 r.gslot ++ leBytes 1 r.core ++ leBytes 1 r.flags ++ leBytes 8 r.aux

/-- The copy of a record for the physical function's fault log (R321, R325). -/
def FqRec.coarsened (r : FqRec) (pol : List Byte) : FqRec :=
  let loc := fun v => coarse (fltg pol 2) v
  { r with
    addr := coarseAddr (fltg pol 1) r.addr, pc := coarsePc (fltg pol 0) r.pc, block := loc r.block,
    group := loc r.group, gslot := loc r.gslot, core := loc r.core
    aux := if r.kind = 4 then coarse (fltg pol 3) (r.aux % 2 ^ 13) + r.aux / 2 ^ 13 * 2 ^ 13 else r.aux }

/-- The number of records a ring holds (R324). -/
def Vf.ring (v : Vf) : Nat := 2 ^ bitsOf v.fqctl 19 16
/-- Whether a VF's ring takes a record now (R324). -/
def Vf.canTake (v : Vf) : Bool := v.fqctl.getLsbD 31 && (v.fqtail.toNat + 1) % v.ring != v.fqhead.toNat

/-- An access reaches a frame at its slice or its home, and its AGE is 0 (R295). -/
def State.touch (s : State) (pa : Nat) : State :=
  s.modTile (pa / 2 ^ 36) fun x => { x with touched := tset 0 x.touched (pa % 2 ^ 36 / 65536) s.ticks }

/-- Bytes of DRAM written; a sector written whole loses its poison, one written in part keeps it (R341). -/
def State.dramWrite (s : State) (pa : Nat) (bs : List Byte) : State :=
  { s with
    mem := wrBytes s.mem pa bs,
    poison := s.poison.filter fun k => !(decide (pa ≤ 128 * k) && decide (128 * k + 128 ≤ pa + bs.length)) }

/-- Whether a DRAM address is poisoned (R341). -/
def State.dramPoison (s : State) (pa : Nat) : Bool := s.poison.contains (pa / 128)

/-- Whether two byte ranges meet. -/
def meets (a n b m : Nat) : Bool := decide (a < b + m) && decide (b < a + n)
/-- The mask of n bytes of a sector or buffer from an address on. -/
def byteMask (pa n : Nat) : BitVec 128 := BitVec.ofNat 128 ((2 ^ n - 1) * 2 ^ (pa % 128))
/-- The bytes that a mask names. -/
def maskBytes (m : BitVec 128) : List Nat := (List.range 128).filter fun k => m.getLsbD k
/-- 128 bytes with those of a mask replaced. -/
def mergeBytes (old new : List Byte) (m : BitVec 128) : List Byte :=
  old.mapIdx fun k b => if m.getLsbD k then new.getD k b else b
/-- 128 bytes with some written from an address on. -/
def patchBytes (old : List Byte) (a : Nat) (bs : List Byte) : List Byte :=
  old.mapIdx fun k b => if a % 128 ≤ k ∧ k < a % 128 + bs.length then bs.getD (k - a % 128) b else b

end Sys2Proof.Machine
end

