-- ==== Sys2Proof/Machine/Slice.lean ====
section
/-! DEFINITION. The mesh and its links to the outside, the L2 slices, and where a core's column lies
(R10 to R12, R160, R165, R169, R170, R281, R295, R305, R307, R317). -/

namespace Sys2Proof.Machine

/-- The column of a tile in the mesh (R10). -/
def meshCol (t : Nat) : Nat := t % 5
/-- The row of a tile in the mesh (R10). -/
def meshRow (t : Nat) : Nat := t / 5
/-- Whether a link joins two tiles (R10). -/
def meshLink (t u : Nat) : Bool :=
  (meshRow t == meshRow u && (meshCol t + 1 == meshCol u || meshCol u + 1 == meshCol t)) ||
    (meshCol t == meshCol u && (meshRow t + 1 == meshRow u || meshRow u + 1 == meshRow t))
/-- The numbers from one to another, the first left out, in order. -/
def walkNats (a b : Nat) : List Nat :=
  if a < b then (List.range (b - a)).map fun k => a + 1 + k else (List.range (a - b)).map fun k => a - 1 - k
/-- The tiles that a packet passes, its source and its destination among them: first along the row, then along the column (R11). -/
def meshRoute (t u : Nat) : List Nat :=
  t :: ((walkNats (meshCol t) (meshCol u)).map fun c => 5 * meshRow t + c) ++
    (walkNats (meshRow t) (meshRow u)).map fun r => 5 * r + meshCol u

/-- The tile at which the host link enters the mesh (R12). -/
def hostTile : Nat := 2
/-- The tile at which a scale-out port enters the mesh (R12). -/
def portTile (port : Nat) : Nat := [0, 4, 5, 9, 10, 14, 15, 19].getD port 0

/-- The tile of a counter or trace unit. -/
def unitTile (u : UnitRef) : Nat := if u.tile then u.idx else tileOf u.idx

/-- Whether bytes lie in the package's memory (R159). -/
def pfRange (a n : Nat) : Bool := decide (a + n ≤ 20 * 2 ^ 36)

/-- Events of the fabric that no context owns, at a tile (R305, R307). -/
def State.fabric (s : State) (tile ev n : Nat) : State := s.count ⟨true, tile, 0, 0, 0, 0⟩ 15 ev n

/-- A packet of n bytes crosses the mesh: the router of each tile on its way handles its flits, and its bytes leave the tile that
sends it (R11, R305; log 60). -/
def State.mesh (s : State) (w : Where) (src dst n : Nat) : State :=
  if s.units.isEmpty ∨ src = dst then s
  else ((meshRoute src dst).foldl (fun s t => s.fabric t 0 (Config.flits n)) s).count { w with tile := true, idx := src } 2 6 n

/-- Bytes that cross the host link, to or from a tile (R12, R305). -/
def State.hostBytes (s : State) (w : Where) (tile n : Nat) (out : Bool) : State :=
  (if out then s.mesh w tile hostTile n else s.mesh w hostTile tile n).fabric hostTile 1 n

/-- Bytes that cross a scale-out port, to or from a tile (R12, R305). -/
def State.portBytes (s : State) (w : Where) (port tile n : Nat) (out : Bool) : State :=
  (if out then s.mesh w tile (portTile port) n else s.mesh w (portTile port) tile n).fabric (portTile port) 2 n

/-- A tile discards a packet of another partition (R281). -/
def State.discard (s : State) (tile : Nat) : State := (({ s with isolation := s.isolation + 1 }).fabric tile 3 1).pfIrq 0

/-- Bytes that a context's accesses move at DRAM or at L2 (R274). -/
def State.addTraffic (s : State) (w : Where) (n : Nat) : State :=
  if w.ctx = 0 then s else s.modVf w.vf fun v => { v with traffic := v.traffic + n }

/-- Where the events of a core's agents that act for a context are counted. -/
def State.whereOf (s : State) (core ctx seq : Nat) : Where :=
  ⟨false, core, 0, ctx, (match s.ctxAt ctx with | some c => c.vf | none => 0), seq⟩

/-- The residency range that an address lies in at a tile: the lowest that is enabled (R170). -/
def Tile.range (t : Tile) (pa : Nat) : Option Nat :=
  t.res.findIdx? fun r => r.ctl.getLsbD 31 && decide (r.base.toNat ≤ pa) && decide (pa < r.lim.toNat)

/-- The residency range that retains an access at its slice, and the counter of its range advanced (R170). -/
def State.sample (s : State) (w : Where) (t pa : Nat) : Option Nat × State :=
  match (s.tileAt t).range pa with
  | none => (none, s)
  | some n =>
    let r := (s.tileAt t).res.getD n ResRange.init
    let s := s.modTile t fun x => { x with res := modAt x.res n fun r => { r with c := (r.c + 1) % 256 } }
    if r.c < bitsOf r.ctl 7 0 then (some n, s.count { w with tile := true, idx := t } 2 5 1) else (none, s)

/-- The ways that an access may allocate into (R170). -/
def Tile.ways (t : Tile) (keep : Option Nat) : List Nat :=
  match keep with
  | some n => (List.range 16).filter fun k => (t.res.getD n ResRange.init).ctl.getLsbD (8 + k)
  | none => (List.range 16).filter fun k => !(t.res.any fun r => r.ctl.getLsbD 31 && r.ctl.getLsbD (8 + k))

/-- The set of a line in its slice: 65,536 lines in 16 ways (R18; log 17). -/
def l2Set (line : Nat) : Nat := line % 4096

/-- The poison of the sectors of a line in the DRAM of its stack (R341). -/
def State.linePoison (s : State) (t line : Nat) : BitVec 8 :=
  if s.poison.isEmpty then 0
  else BitVec.ofNat 8 ((List.range 8).foldl (fun a j => if s.poison.contains (t * 2 ^ 29 + 8 * line + j) then a + 2 ^ j else a) 0)

/-- A line written whole from its slice to the DRAM: its poisoned sectors poison the DRAM's, and the others store fresh check bytes
(R305, R341, R342). -/
def State.backL2 (s : State) (t : Nat) (e : L2Line) : State :=
  let first := t * 2 ^ 29 + 8 * e.line
  let s := s.count { s.whereOf 0 e.ctx 0 with tile := true, idx := t } 3 1 1024
  { s with poison := (s.poison.filter fun k => !(decide (first ≤ k) && decide (k < first + 8))) ++
      (List.range 8).filterMap fun j => if e.bad.getLsbD j then some (first + j) else none }

/-- A line allocated in a slice: in a way that is free, else in place of a line of the slice's choice, which is written to DRAM
when it is dirty (R170, R307; log 17). -/
def State.fillL2 (s : State) (w : Where) (t line : Nat) (keep : Option Nat) (wr : Bool) : State :=
  let x := s.tileAt t
  let ways := x.ways keep
  let has := fun (k : Nat) (e : L2Line) => e.way == k && l2Set e.line == l2Set line
  let put := fun (k : Nat) (s : State) => s.modTile t fun x => { x with
    l2 := x.l2.filter (fun e => !has k e) ++ [⟨line, k, w.ctx, wr, s.linePoison t line⟩] }
  match ways.find? fun k => !x.l2.any (has k) with
  | some k => put k s
  | none =>
    if ways.isEmpty then s
    else
      let (n, s) := s.choose ways.length
      let k := ways.getD n 0
      match x.l2.find? (has k) with
      | some e => put k (if e.dirty then s.backL2 t e else s)
      | none => put k s

/-- A bin of one unit's histogram of reuse distances advanced (R317). -/
def State.binReuse (s : State) (r : UnitRef) (ctx bin : Nat) : State :=
  s.countBy (fun u i => u.ref == r && selCounts (selector u.record i) 10 bin 0) ctx 1

/-- A reuse-distance unit's view of an access at its slice (R317): one sample in 4,096, distances advanced, hits binned. -/
def State.reuse (s : State) (w : Where) (t pa : Nat) : State :=
  let wt := { w with tile := true, idx := t }
  let us := s.units.filter fun u => u.ref.unit < 4 && u.takes wt &&
    (List.range 8).any fun i => (selector u.record i).getLsbD 15 && bitsOf (selector u.record i) 14 11 == 10
  us.foldl (fun s u =>
    let x := s.tileAt t
    let line := pa / 1024
    let hit := x.tags.filter fun g => g.unit == u.ref.unit && g.line == line
    let s := hit.foldl (fun s g => s.binReuse u.ref w.ctx (min (Nat.log2 g.d) 14)) s
    let tags := (x.tags.filter fun g => !(g.unit == u.ref.unit && g.line == line)).map fun g =>
      if g.unit = u.ref.unit then { g with d := g.d + 1 } else g
    let free := (List.range 256).find? fun n => !(tags.any fun g => g.n == n)
    let seen := tget 0 x.sampled u.ref.unit
    let tags := match free with
      | some n => if seen = 0 then tags ++ [⟨n, u.ref.unit, line, 0⟩] else tags
      | none => tags
    s.modTile t fun x => { x with tags := tags, sampled := tset 0 x.sampled u.ref.unit ((seen + 1) % 4096) }) s

/-- An access of n bytes reaches the L2 slice of a physical address (R160, R170, R295, R305): it hits a line that stands there;
else the line comes from DRAM, unless it is written whole, and is allocated where its page allows that. -/
def State.l2 (s : State) (w : Where) (pa n : Nat) (wr : Bool) (alloc : Bool := true) : State :=
  let t := pa / 2 ^ 36
  let line := pa % 2 ^ 36 / 1024
  let wt := { w with tile := true, idx := t }
  let src := if w.tile then w.idx else tileOf w.idx
  let (keep, s) := (s.touch pa).sample w t pa
  let s := (s.addTraffic w n).mesh w (if wr then src else t) (if wr then t else src) n
  let s := s.reuse w t pa
  if (s.tileAt t).l2.any fun e => e.line == line then
    (s.modTile t fun x => { x with l2 := x.l2.map fun (e : L2Line) => if e.line = line then { e with dirty := e.dirty || wr } else e }).count wt 2 3 1
  else
    let s := s.count wt 2 4 1
    if alloc then (if wr && decide (1024 ≤ n) then s else s.count wt 3 0 1024).fillL2 w t line keep wr
    else s.count wt 3 (if wr then 1 else 0) n

/-- Whether the sector of an address is poisoned as its stack gives it: in the slice's copy of its line, else in the DRAM (R340 to
R342). -/
def State.poisoned (s : State) (pa : Nat) : Bool :=
  match (s.tileAt (pa / 2 ^ 36)).l2.find? fun e => e.line == pa % 2 ^ 36 / 1024 with
  | some e => e.bad.getLsbD (pa % 1024 / 128)
  | none => s.dramPoison pa

/-- A sector that has been written through its slice marked poisoned or good: the slice's copy of it, else the DRAM (R341, R342). -/
def State.markSector (s : State) (k : Nat) (bad : Bool) : State :=
  let t := k / 2 ^ 29
  let line := k % 2 ^ 29 / 8
  let bit : BitVec 8 := BitVec.ofNat 8 (2 ^ (k % 8))
  if (s.tileAt t).l2.any fun e => e.line == line then
    s.modTile t fun x => { x with l2 := x.l2.map fun (e : L2Line) =>
      if e.line = line then { e with bad := if bad then e.bad ||| bit else e.bad &&& ~~~bit } else e }
  else { s with poison := if bad then dedup (s.poison ++ [k]) else s.poison.filter (· != k) }

/-- Bytes written through the L2 slice of their line; a sector written whole loses its poison, one written in part keeps it (R341). -/
def State.sliceWrite (s : State) (w : Where) (pa : Nat) (bs : List Byte) (alloc : Bool := true) : State :=
  let s := State.l2 { s with mem := wrBytes s.mem pa bs } w pa bs.length true alloc
  ((List.range (bs.length / 128 + 1)).filter fun j =>
    decide ((pa + 127) / 128 * 128 + 128 * j + 128 ≤ pa + bs.length)).foldl (fun s j => s.markSector ((pa + 127) / 128 + j) false) s

/-- The copies of lines of a stack that satisfy a test dropped from its L2 slice. -/
def State.dropL2 (s : State) (t : Nat) (p : Nat → Bool) : State :=
  s.modTile t fun x => { x with l2 := x.l2.filter fun e => !p e.line }

/-- The dirty data of a line written from its L2 slice to DRAM (R180). -/
def State.cleanL2 (s : State) (pa : Nat) : State :=
  let t := pa / 2 ^ 36
  let line := pa % 2 ^ 36 / 1024
  match (s.tileAt t).l2.find? fun e => e.line == line && e.dirty with
  | none => s
  | some e =>
    (s.backL2 t e).modTile t fun x => { x with
      l2 := x.l2.map fun (e : L2Line) => if e.line = line then { e with dirty := false } else e }

/-- The physical address of an offset in a core's column: the top 16 GiB of its stack, 4 GiB for each core (R165; log 29). -/
def colPa (core off : Nat) : Nat := tileOf core * 2 ^ 36 + (15 - core % 4) * 2 ^ 32 + off
/-- Whether bytes of a core's column are poisoned: in a granule of its column buffers, or in their DRAM sector (R340, R342). -/
def State.colBad (s : State) (core off n : Nat) : Bool :=
  s.dramPoison (colPa core off) || (s.coreAt core).colPoison.any fun k => meets (8 * k) 8 off n

/-- Bytes written in a core's column; the granules that they cover whole are good again (R340). -/
def State.colWrite (s : State) (core off : Nat) (bs : List Byte) : State :=
  let s := s.dramWrite (colPa core off) bs
  if (s.coreAt core).colPoison.isEmpty then s
  else s.modCore core fun k => { k with
    colPoison := k.colPoison.filter fun g => !(decide (off ≤ 8 * g) && decide (8 * g + 8 ≤ off + bs.length)) }

/-- Whether a frame of a stack lies in a column range of its tile while the columns have a size of n bytes (R165). -/
def inColumn (n off : Nat) : Bool := decide (12 * 2 ^ 32 ≤ off) && decide (off % 2 ^ 32 < n)

end Sys2Proof.Machine
end

