-- ==== Sys2Proof/Machine/Walk.lean ====
section
/-! DEFINITION. Page tables: walks, leaf checks, ownership and the accessed bit (R284 to R289); the accesses of agents to memory and to
the host, writes in flight, and fault-queue records (R11, R213, R324, R389). -/

namespace Sys2Proof.Machine

/-- The kind of an access (R287). -/
inductive Acc where
  | read
  | write
  | atomic
  | fetch
  deriving DecidableEq, Repr

/-- What the walker finds: a leaf, or a fault number, a cause, the size of the range of the entry at which the walk ended, and the
size of the page: that of its leaf's level, or 64 KiB when the walk ended at no leaf (R285, R287, R378). -/
inductive WalkRes where
  | leaf (l : Leaf)
  | bad (code cause size page : Nat)

/-- The levels of a walk: the lowest index bit, the index width, the alignment of the table (R284). -/
def walkLevels : List (Nat × Nat × Nat) := [(49, 8, 11), (35, 14, 17), (28, 7, 10), (21, 7, 10), (16, 5, 8)]

/-- Whether an address lies in a stack of a partition (R281, R287). -/
def State.inPart (s : State) (part pa : Nat) : Bool := decide (pa / 2 ^ 36 < 20) && s.partOf (pa / 2 ^ 36) == part

/-- A walk from a table of a partition's context (R284 to R286). An entry in a stack of another partition is not read: its slice
discards the packet, and the walk ends as at an invalid entry (R281; log 61). -/
def walkGo (s : State) (part va : Nat) : List (Nat × Nat × Nat) → Nat → WalkRes
  | [], _ => .bad 0x26 1 0 65536
  | (sh, wd, _) :: rest, base =>
    let e := base + 8 * (va / 2 ^ sh % 2 ^ wd)
    let w := BitVec.ofNat 64 (leNat (rdBytes s.mem e 8))
    if !s.inPart part e then .bad 0x26 0 (2 ^ sh) 65536
    else if s.poisoned e then .bad 0x26 7 (2 ^ sh) 65536
    else
      match w.toNat % 4 with
      | 0 => if w.getLsbD 2 then .bad 0x27 0 (2 ^ sh) 65536 else .bad 0x26 0 (2 ^ sh) 65536
      | 1 =>
        match rest with
        | [] => .bad 0x26 1 (2 ^ sh) 65536
        | (_, _, al) :: _ =>
          let next := bitsOf w 40 8 * 256
          if bitsOf w 63 41 ≠ 0 ∨ bitsOf w 7 2 ≠ 0 ∨ next % 2 ^ al ≠ 0 then .bad 0x26 1 (2 ^ sh) 65536
          else walkGo s part va rest next
      | 2 =>
        if sh = 49 ∨ bitsOf w 11 8 ≠ 0 ∨ w.getLsbD 6 ∨ w.getLsbD 2 ∨ (!w.getLsbD 58 ∧ bitsOf w 55 41 ≠ 0) then
          .bad 0x26 1 (2 ^ sh) (2 ^ sh)
        else .leaf ⟨va / 2 ^ sh * 2 ^ sh, 2 ^ sh, w, e⟩
      | _ => .bad 0x26 1 (2 ^ sh) 65536

/-- The entries that a walk asks for. -/
def walkSeen (s : State) (part va : Nat) : List (Nat × Nat × Nat) → Nat → List Nat
  | [], _ => []
  | (sh, wd, _) :: rest, base =>
    let e := base + 8 * (va / 2 ^ sh % 2 ^ wd)
    let w := BitVec.ofNat 64 (leNat (rdBytes s.mem e 8))
    let next := bitsOf w 40 8 * 256
    match rest with
    | [] => [e]
    | (_, _, al) :: _ =>
      if !s.inPart part e ∨ s.poisoned e ∨ w.toNat % 4 ≠ 1 ∨ bitsOf w 63 41 ≠ 0 ∨ bitsOf w 7 2 ≠ 0 ∨ next % 2 ^ al ≠ 0 then [e]
      else e :: walkSeen s part va rest next

/-- A walker's read of an entry at the entry's slice (R289), or the discarding of its packet by a tile of another partition
(R281). -/
def State.walkRead (s : State) (w : Where) (part e : Nat) : State :=
  if s.inPart part e then s.l2 w e 8 false else if e / 2 ^ 36 < 20 then s.discard (e / 2 ^ 36) else s

/-- A walk of a context's tables by a walker, with the entries it reads (R284, R289). -/
def State.walk (s : State) (w : Where) (part va root : Nat) : WalkRes × State :=
  (walkGo s part va walkLevels root, (walkSeen s part va walkLevels root).foldl (fun s e => s.walkRead w part e) s)

/-- The checks of a leaf: none fails, or the first cause in the order 2, 3, 6, 5, 4 (R287). -/
def leafCause (s : State) (part : Nat) (l : Leaf) (acc : Acc) : Option Nat :=
  let w := l.word
  let frame := bitsOf w 55 16 * 65536
  let link := w.getLsbD 58
  let own := w.getLsbD 57
  let dup := w.getLsbD 59
  if frame % l.size ≠ 0 then some 2
  else if !link ∧ (20 ≤ frame / 2 ^ 36 ∨ s.partOf (frame / 2 ^ 36) ≠ part) then some 3
  else if bitsOf w 63 62 = 3 ∨ bitsOf w 61 60 = 3 ∨ (link ∧ (!own ∨ dup)) then some 6
  else if w.getLsbD 56 then some 5
  else
    let r := w.getLsbD 3
    let wr := w.getLsbD 4
    let ok := match acc with | .read => r | .write => wr | .atomic => r && wr | .fetch => w.getLsbD 5
    if ok then none else some 4

/-- The fault of an access that passes the checks, by ownership (R287). -/
def ownFault (w : Addr) (acc : Acc) : Option Nat :=
  let wr := match acc with | .write | .atomic => true | _ => false
  if w.getLsbD 58 then none
  else if w.getLsbD 59 then (if wr then some 0x29 else none)
  else if w.getLsbD 57 then some 0x28 else none

/-- The accessed bit set at a leaf's entry, at its slice (R289). -/
def State.setA (s : State) (w : Where) (l : Leaf) : State :=
  if l.word.getLsbD 7 then s else ({ s with mem := wrByte s.mem l.entry (rdByte s.mem l.entry ||| 0x80) }).l2 w l.entry 8 true

/-- What a translation gives: a leaf and the byte's address in its frame, or a fault number, a cause and the size of the page. -/
inductive Tr where
  | ok (pa : Nat) (leaf : Addr)
  | bad (code cause size : Nat)
  deriving DecidableEq, Repr

/-- A leaf applied to an access: checks, accessed bit, ownership (R287, R289). -/
def State.useLeaf (s : State) (w : Where) (part : Nat) (l : Leaf) (va : Nat) (acc : Acc) : Tr × State :=
  match leafCause s part l acc with
  | some c => (.bad 0x26 c l.size, s)
  | none =>
    let s := s.setA w l
    match ownFault l.word acc with
    | some c => (.bad c 0 l.size, s)
    | none => (.ok (bitsOf l.word 55 16 * 65536 + va % l.size) l.word, s)

/-- Where the walks for an agent of a tile that acts for a context are counted. -/
def State.walkWhere (s : State) (tile ctx : Nat) : Where := { s.whereOf 0 ctx 0 with tile := true, idx := tile }

/-- A walk without any cache, as the fetch unit, the copy engine and the dispatcher of a tile use it. -/
def State.walkTo (s : State) (tile ctx va : Nat) (acc : Acc) : Tr × State :=
  match s.ctxAt ctx with
  | none => (.bad 0x26 0 65536, s)
  | some c =>
    let w := s.walkWhere tile ctx
    match s.walk w c.part va c.root with
    | (.bad a b _ n, s) => (.bad a b n, s)
    | (.leaf l, s) => s.useLeaf w c.part l va acc

/-- The fault number of an address that is no global address, or is null (R156, R157). -/
def globalFault (a : Addr) : Option Nat :=
  let top := bitsOf a 63 56
  if (top = 0 ∧ !a.getLsbD 56) ∨ (top = 0xFF ∧ a.getLsbD 56) then (if a.toNat < 65536 then some 0x21 else none)
  else if top = 0xC3 ∨ top = 0xC4 ∨ top = 0xC5 then some 0x22 else some 0x20

/-- A global address of a context reached by an agent of a tile: the checks of R156 and R157, then a walk. -/
def State.reach (s : State) (tile ctx : Nat) (a : Addr) (acc : Acc) : Tr × State :=
  match globalFault a with
  | some c => (.bad c 0 65536, s)
  | none => s.walkTo tile ctx (a.toNat % 2 ^ 57) acc

/-- Whether the host takes a request across its link, which the host decides (R389; log 77). -/
def State.hostTakes (s : State) : Bool × State := (s.fresh.1.getLsbD 0, s.fresh.2)

/-- Bytes read of the host, and whether they are poisoned: the host has rejected the read or not completed it within 50 ms (R389). -/
def State.hostRead (s : State) (vf a n : Nat) : (List Byte × Bool) × State :=
  ((rdBytes s.host (hostKey vf a) n, !s.hostTakes.1), s.hostTakes.2)

/-- A posted write that comes to the host: performed, or dropped and reported in the VF's AER status (R389). -/
def State.hostPost (s : State) (vf : Nat) (put : Memory → Memory) : State :=
  let (ok, s) := s.hostTakes
  if ok then { s with host := put s.host } else s.modVf vf fun v => { v with aer := true }

/-- Bytes that an agent of a tile reads for a context from where a translation leads, at the host or at an L2 slice, and whether they
are poisoned. -/
def State.agentRead (s : State) (tile ctx pa n : Nat) (leaf : Addr) : (List Byte × Bool) × State :=
  let w := s.walkWhere tile ctx
  if leaf.getLsbD 58 then
    let (r, s) := s.hostRead w.vf pa n
    (r, s.hostBytes w tile n false)
  else ((rdBytes s.mem pa n, s.poisoned pa), s.l2 w pa n false (bitsOf leaf 61 60 != 2))

/-- Bytes that an agent of a tile writes for a context where a translation leads. -/
def State.agentWrite (s : State) (tile ctx pa : Nat) (leaf : Addr) (bs : List Byte) : State :=
  let w := s.walkWhere tile ctx
  if leaf.getLsbD 58 then (s.hostPost w.vf fun m => wrBytes m (hostKey w.vf pa) bs).hostBytes w tile bs.length true
  else s.sliceWrite w pa bs (bitsOf leaf 61 60 != 2)

/-- Bytes of a core's sector that a newer write of its own has taken to their L2 slice: the sector owes them no more (R167, R214). -/
def State.paid (s : State) (core base : Nat) (m : BitVec 128) : State :=
  s.modCore core fun k => { k with l1 := k.l1.map fun (x : Sector) => if x.pa = base then { x with owed := x.owed &&& ~~~m } else x }

/-- A write in flight performed: at the host, or at its L2 slice (R213, R226). -/
def State.land (s : State) (w : InFlight) : State :=
  let at_ := s.whereOf w.core w.ctx 0
  if w.link then
    (s.hostPost w.vf fun m => wrBytes m (hostKey w.vf w.addr) w.bytes).hostBytes at_ (tileOf w.core) w.bytes.length true
  else (s.sliceWrite at_ w.addr w.bytes w.alloc).paid w.core (w.addr / 128 * 128) (byteMask w.addr w.bytes.length)

/-- Whether two writes in flight go from one tile to one tile, and so arrive in the order sent. Which packets share a traffic class is
the model's choice (R11; log 3): the writes in flight of one way are one class; atomics, reads, STN chunks, rows and the writes of
other agents are in no class with them. -/
def sameRoute (v w : InFlight) : Bool :=
  tileOf v.core == tileOf w.core && v.link == w.link && (v.link || v.addr / 2 ^ 36 == w.addr / 2 ^ 36)

/-- The writes in flight that satisfy a test, with those sent before them on the same way (R11). -/
def flightsFor (p : InFlight → Bool) : List InFlight → List InFlight
  | [] => []
  | w :: ws => if p w || ws.any (fun v => p v && sameRoute w v) then w :: flightsFor p ws else flightsFor p ws

/-- The writes in flight that stay when those that satisfy a test are performed. -/
def flightsLeft (p : InFlight → Bool) : List InFlight → List InFlight
  | [] => []
  | w :: ws => if p w || ws.any (fun v => p v && sameRoute w v) then flightsLeft p ws else w :: flightsLeft p ws

/-- The writes in flight that satisfy a test performed, and before each those sent earlier on its way, oldest first (R11, R213). -/
def State.drainFlight (s : State) (p : InFlight → Bool) : State :=
  (flightsFor p s.inflight).foldl State.land { s with inflight := flightsLeft p s.inflight }

/-- A record sent from the tile of its core to the ring at TAIL, which advances (R11, R324): a tile of another partition discards it
(R281). -/
def State.writeRec (s : State) (v : Nat) (bs : List Byte) : State :=
  let f := s.vfAt v
  let a := bitsOf f.fqbase 40 12 * 4096 + 32 * f.fqtail.toNat
  let s := if s.inPart f.part a then s.sliceWrite ⟨true, tileOf (fieldAt bs 22 1), 0, 0, 0, 0⟩ a bs
    else if a / 2 ^ 36 < 20 then s.discard (a / 2 ^ 36) else s
  let s := s.modVf v fun x => { x with fqtail := BitVec.ofNat 32 ((x.fqtail.toNat + 1) % x.ring) }
  if f.fqctl.getLsbD 0 && f.fqhead == f.fqtail then s.irq v 0 else s

/-- A fault-queue record formed: written, or pending with FULL set (R324), and copied to the fault log (R321). -/
def State.faultRecord (s : State) (v : Nat) (r : FqRec) : Bool × State :=
  let pol := match s.ctxAt r.ctx with | some c => c.policy | none => []
  let s := { s with faultLog := s.faultLog ++ [(r.coarsened pol).bytes] }
  let f := s.vfAt v
  if f.pend.isEmpty && f.canTake then (true, s.writeRec v r.bytes)
  else
    let s := s.modVf v fun x => { x with pend := x.pend ++ [r.bytes], fqfull := true }
    (false, if f.fqctl.getLsbD 0 && !f.fqfull then s.irq v 0 else s)

end Sys2Proof.Machine
end

