-- ==== Sys2Proof/Machine/Sectors.lean ====
section
/-! DEFINITION. The sectors of a core's L1 and its write-combining buffers written out, and the rows of row operations (R11, R159, R167,
R168, R180, R181, R188, R341, R342). -/

namespace Sys2Proof.Machine

/-- Whether a sector is dirty (R167): bytes that the core has written have not reached the L2 slice. -/
def Sector.dirty (x : Sector) : Bool := x.owed != 0

/-- The sector of a core's L1 that holds an address. -/
def State.sector (s : State) (c pa : Nat) : Option Sector := (s.coreAt c).l1.find? fun x => x.pa == pa / 128 * 128

/-- A core's L1 with one sector changed. -/
def State.modSector (s : State) (c pa : Nat) (f : Sector → Sector) : State :=
  s.modCore c fun k => { k with l1 := k.l1.map fun (x : Sector) => if x.pa = pa / 128 * 128 then f x else x }

/-- A write of a core to the host or to an L2 slice performed now, those that it has sent before on the same way first (R11). -/
def State.performNow (s : State) (w : InFlight) : State := (s.drainFlight fun v => sameRoute v w).land w

/-- The bytes that a mask names of 128 written by a core at their L2 slice, after the writes sent before on the same way (R11,
R167); a sector written whole with good data is poisoned no more (R341, R342). -/
def State.writeMasked (s : State) (w : Where) (core base : Nat) (mask : BitVec 128) (data : List Byte) (poison alloc : Bool) : State :=
  let s := s.drainFlight fun v => sameRoute v ⟨base, false, 0, 0, core, 0, false, false, []⟩
  let s := State.l2 { s with mem := (maskBytes mask).foldl (fun m k => wrByte m (base + k) (data.getD k 0)) s.mem }
    w base (maskBytes mask).length true alloc
  if poison || mask == BitVec.allOnes 128 then s.markSector (base / 128) poison else s

/-- A dirty sector written back to its L2 slice: the bytes that the slice has not yet seen; the write-back belongs to the context
that allocated the sector (R167, R305, R307, R342; log 63). -/
def State.writeBack (s : State) (core : Nat) (x : Sector) : State :=
  let w := s.whereOf core x.alloc 0
  (s.count w 2 2 1).writeMasked w core x.pa x.owed x.data x.poison true

/-- The dirty sectors of a core that satisfy a test written back; they stay valid and clean (R168). -/
def State.cleanL1 (s : State) (c : Nat) (p : Sector → Bool) : State :=
  let s := ((s.coreAt c).l1.filter fun x => x.dirty && p x).foldl (fun s x => s.writeBack c x) s
  s.modCore c fun k => { k with l1 := k.l1.map fun (x : Sector) => if p x then { x with owed := 0 } else x }

/-- Sectors of a core that satisfy a test dropped. -/
def State.dropL1 (s : State) (c : Nat) (p : Sector → Bool) : State :=
  s.modCore c fun k => { k with l1 := k.l1.filter fun x => !p x }

/-- A write-combining buffer written out: to the host, or to its L2 slice with the core's valid sector updated in place (R167,
R188). -/
def State.flushWc (s : State) (c : Nat) (w : WcBuf) : State :=
  let at_ := s.whereOf c w.ctx 0
  if w.link then
    let s := s.drainFlight fun v => v.link && tileOf v.core == tileOf c
    let put := fun m => (maskBytes w.mask).foldl (fun m k => wrByte m (hostKey w.vf (w.addr + k)) (w.data.getD k 0)) m
    (s.hostPost w.vf put).hostBytes at_ (tileOf c) (maskBytes w.mask).length true
  else
    ((s.writeMasked at_ c w.addr w.mask w.data false w.alloc).modSector c w.addr fun x =>
      { x with data := mergeBytes x.data w.data w.mask }).paid c w.addr w.mask

/-- The write-combining buffers of a core that satisfy a test written out (R188). -/
def State.drainWc (s : State) (c : Nat) (p : WcBuf → Bool) : State :=
  let ws := (s.coreAt c).wc.filter p
  ws.foldl (fun s w => s.flushWc c w) (s.modCore c fun k => { k with wc := k.wc.filter fun w => !p w })

/-- The bank of a tile that a physical address lies in: 16 times its pseudo-channel, 4 times its bank group, and its bank (R159). -/
def tileBank (pa : Nat) : Nat := ((pa / 1024 % 64) ^^^ (rowOf pa / 64 % 64)) * 16 + pa / 65536 % 4 * 4 + bankOf pa

/-- The banks that the present step of a row operation works on, with their tiles (R181). -/
def RowOp.stepBanks (o : RowOp) : List (Nat × Nat) :=
  dedup (((o.rows.take 2).map fun r => r.1 :: r.2.toList).flatten.map fun pa => (pa / 2 ^ 36, tileBank pa))

/-- The row that a row operation does next: of each step of two the first, then the second (R181). -/
def RowOp.next (o : RowOp) : Option (Nat × Option Nat) := o.rows[if o.half then 1 else 0]?

/-- The refreshes of a bank that have waited for a step are performed at its end (R181). -/
def State.lateRefresh (s : State) (b : Nat × Nat) : State :=
  s.modTile b.1 fun t =>
    { t with refreshDue := t.refreshDue.filter fun x => x != b.2, refresh := t.refresh + (t.refreshDue.filter fun x => x == b.2).length }

/-- Where the events of a row operation are counted, at a tile. -/
def RowOp.loc (o : RowOp) (s : State) (tile : Nat) : Where :=
  { s.whereOf o.core (match s.blockAt o.block with | some b => b.ctx | none => 0) 0 with tile := true, idx := tile }

/-- One row of a row operation done at the home of its destination (R180): dirty data of the source written back first, a row of another
stack brought over the mesh (R11), copies of the destination dropped everywhere. -/
def State.doRow (s : State) (o : RowOp) (dst : Nat) (src : Option Nat) : State :=
  let s := match src with
    | some a => (((s.cleanL1 o.core fun x => x.pa / 1024 == a / 1024).cleanL2 a).touch a).mesh (o.loc s (a / 2 ^ 36)) (a / 2 ^ 36) (dst / 2 ^ 36) 1024
    | none => s
  let (vs, s) := if o.undef.contains dst then s.freshes 256 else ([], s)
  let bs := if o.undef.contains dst then (vs.map fun w => leBytes 4 w.toNat).flatten
    else match src with | some a => rdBytes s.mem a 1024 | none => List.replicate 1024 0
  let bad := match src with
    | some a => (List.range 8).filterMap fun k => if s.poison.contains (a / 128 + k) then some (dst / 128 + k) else none
    | none => []
  let s := (s.dramWrite dst bs).touch dst
  let s := { s with poison := dedup (s.poison ++ bad) }
  let s := s.dropL2 (dst / 2 ^ 36) fun l => l == dst % 2 ^ 36 / 1024
  { s with cores := s.cores.map fun (k : Core) => { k with l1 := k.l1.filter fun x => x.pa / 1024 != dst / 1024 } }

/-- The next row of a row operation done; a step ends with its second row or with the last one, and the refreshes that have waited for
it follow (R181, R305). -/
def State.rowStep (s : State) (n : Nat) : State :=
  match s.rowops[n]? with
  | none => s
  | some o =>
    match o.next with
    | none => s
    | some r =>
      let s := if o.half then s else s.count (o.loc s (r.1 / 2 ^ 36)) 3 2 1
      let s := s.doRow o r.1 r.2
      if !o.half && decide (1 < o.rows.length) then { s with rowops := modAt s.rowops n fun o => { o with half := true } }
      else o.stepBanks.foldl State.lateRefresh { s with rowops := modAt s.rowops n fun o => { o with half := false, rows := o.rows.drop 2 } }

end Sys2Proof.Machine
end

