-- ==== Sys2Proof/Machine/Trace.lean ====
section
/-! DEFINITION. Trace records (R314 to R316). -/

namespace Sys2Proof.Machine

/-- The fields of a trace record (R314). -/
structure TraceRec where
  tstamp : Nat := 0
  cmdseq : Nat
  taskq : Nat
  engine : Nat
  kind : Nat
  tag : Nat := 0
  pc : Nat := 0
  val : Nat := 0
  ctx : Nat
  core : Nat := 0
  slot : Nat := 0

/-- The 32 bytes of a trace record (R314). -/
def TraceRec.bytes (r : TraceRec) : List Byte :=
  leBytes 8 r.tstamp ++ leBytes 8 r.cmdseq ++ leBytes 1 r.taskq ++ leBytes 1 r.engine ++ leBytes 1 r.kind ++ leBytes 1 r.tag ++
    leBytes 4 r.pc ++ leBytes 4 r.val ++ leBytes 2 r.ctx ++ leBytes 1 r.core ++ leBytes 1 r.slot

/-- The granularity of trace field f in a policy (R299). -/
def trg (pol : List Byte) (f : Nat) : Nat := fieldAt pol 24 4 / 4 ^ f % 4

/-- A record as an operator-side buffer receives it (R300, R315). -/
def TraceRec.coarsened (r : TraceRec) (pol : List Byte) : TraceRec :=
  { r with
    tstamp := coarse (trg pol 0) r.tstamp, cmdseq := coarse (trg pol 1) r.cmdseq, taskq := coarse (trg pol 1) r.taskq,
    engine := coarse (trg pol 2) r.engine, tag := coarse (trg pol 4) r.tag, pc := coarsePc (trg pol 3) r.pc,
    val := if r.kind = 6 then coarseAddr (trg pol 4) r.val else coarse (trg pol 4) r.val,
    core := coarse (trg pol 2) r.core, slot := coarse (trg pol 2) r.slot }

/-- The bytes of a trace unit's buffer (R306). -/
def CUnit.size (u : CUnit) : Nat := fieldAt u.record 8 4

/-- Writes 32 bytes at the write offset of a trace unit's buffer: translated for a context, physical for the physical
function (R306). -/
def State.bufferWrite (s : State) (u : CUnit) (bs : List Byte) : State :=
  let a := fieldAt u.record 0 8 + u.woff
  match u.owner with
  | .ctx c =>
    match s.reach (unitTile u.ref) c (BitVec.ofNat 64 a) .write with
    | (.ok pa w, s) => s.agentWrite (unitTile u.ref) c pa w bs
    | (.bad _ _ _, s) => s
  | _ => if pfRange a bs.length then s.sliceWrite ⟨true, unitTile u.ref, 0, 0, 0, 0⟩ a bs else s

/-- A trace unit of the state changed. -/
def State.modUnit (s : State) (r : UnitRef) (f : CUnit → CUnit) : State :=
  { s with units := s.units.map fun u => if u.ref = r then f u else u }

/-- A unit with one more record in its ring. -/
def CUnit.step (u : CUnit) : CUnit :=
  { u with written := u.written + 1, woff := if u.woff + 32 < u.size then u.woff + 32 else 0, ack := u.ack + 1 }

/-- One record given to a trace unit: dropped and counted when the ring is full, preceded by a kind-8 record after a loss
(R315). `ack` counts the records not yet acknowledged. -/
def State.traceTo (s : State) (u : CUnit) (r : TraceRec) : State :=
  let pol := match s.ctxAt r.ctx with | some c => c.policy | none => List.replicate 128 0xFF
  let see := fun (r : TraceRec) => match u.owner with | .ctx _ => r.bytes | _ => (r.coarsened pol).bytes
  let need := if u.missed = 0 then 1 else 2
  if u.size / 32 < u.ack + need then
    s.modUnit u.ref fun u => { u with dropped := u.dropped + 1, missed := u.missed + 1 }
  else if u.missed = 0 then (s.bufferWrite u (see r)).modUnit u.ref CUnit.step
  else
    let lost : TraceRec := { r with kind := 8, tag := 0, pc := 0, val := u.missed }
    let s := (s.bufferWrite u (see lost)).modUnit u.ref fun u => { u.step with missed := 0 }
    match s.units.find? fun v => v.ref == u.ref with
    | some u => (s.bufferWrite u (see r)).modUnit u.ref CUnit.step
    | none => s

/-- A trace record of an event given to every trace unit that takes it (R307, R314). -/
def State.trace (s : State) (w : Where) (r : TraceRec) : State :=
  let now := if w.tile then (s.coreAt (4 * w.idx)).cyc / 2 else (s.coreAt w.idx).cyc
  let us := s.units.filter fun u => u.ref.unit == 4 && u.takes w && decide (fieldAt u.record 12 2 / 2 ^ r.kind % 2 = 1)
  us.foldl (fun s u => s.traceTo u { r with tstamp := now }) s

/-- The launch queue of a launch (R271). -/
def Launch.taskq (l : Launch) : Nat := 4 * l.tile + l.prio

/-- The launch queue of a block's launch (R271). -/
def State.taskqOf (s : State) (block : Nat) : Nat :=
  match s.blockAt block with
  | some b => (match s.launchAt b.launch with | some l => l.taskq | none => 0)
  | none => 0

/-- A trace record of a partition's group (R314). -/
def State.traceGroup (s : State) (g : Group) (w : Where) (kind tag pc val : Nat) : State :=
  if s.units.isEmpty then s
  else
    s.trace w { cmdseq := w.seq, taskq := s.taskqOf g.block, engine := 4 * (g.core % 4) + g.part, kind := kind, tag := tag % 256, pc := pc,
                val := val % 2 ^ 32, ctx := g.ctx, core := g.core, slot := g.part * 16 + g.slot }

end Sys2Proof.Machine
end

