-- ==== Sys2Proof/Machine/Saggar.lean ====
section
/-! DEFINITION. Saggar slots and the operations that homes perform on them (R70, R131 to R139, R148 to R150). -/

namespace Sys2Proof.Machine

/-- SHL (R84). -/
def shlW (a n : Word) : Word := if n.toNat < 32 then a <<< n.toNat else 0
/-- SHR (R84). -/
def shrW (a n : Word) : Word := if n.toNat < 32 then a >>> n.toNat else 0
/-- SAR (R84). -/
def sarW (a n : Word) : Word := a.sshiftRight (min n.toNat 32)
/-- IMIN.s32 (R80). -/
def iminS (a b : Word) : Word := if a.slt b then a else b
/-- IMAX.s32 (R80). -/
def imaxS (a b : Word) : Word := if a.slt b then b else a
/-- IMIN.ui32 (R80). -/
def iminU (a b : Word) : Word := if a.ult b then a else b
/-- IMAX.ui32 (R80). -/
def imaxU (a b : Word) : Word := if a.ult b then b else a

/-- The condition of ICMP, signed or unsigned (R89). -/
def icond (signed : Bool) (f : Nat) (a b : Word) : Bool :=
  let lt := fun x y : Word => if signed then x.slt y else x.ult y
  match f with
  | 0 => a == b
  | 1 => a != b
  | 2 => lt a b
  | 3 => !lt b a
  | 4 => lt b a
  | _ => !lt a b

/-- A condition by kind: 0 ICMP.s32, 1 ICMP.ui32, 2 FCMP (R89). -/
def condOf (kind f : Nat) (a b : Word) : Bool :=
  match kind with
  | 0 => icond true f a b
  | 1 => icond false f a b
  | _ => fcond f a b

/-- What a function of R78 gives in a lane: the same bits in the core and at a home (R70, R133). -/
def HomeFn.eval (f : HomeFn) (l : Nat) (a b c : Word) : Word :=
  match f with
  | .iadd => a + b
  | .isub => a - b
  | .imul => a * b
  | .iminS => Machine.iminS a b
  | .imaxS => Machine.imaxS a b
  | .iminU => Machine.iminU a b
  | .imaxU => Machine.imaxU a b
  | .and => a &&& b
  | .or => a ||| b
  | .xor => a ^^^ b
  | .shl => shlW a b
  | .shr => shrW a b
  | .sar => sarW a b
  | .fadd r => f32op (Fmt.f32.addW r) a b
  | .fsub r => f32op (Fmt.f32.subW r) a b
  | .fmul r => f32op (Fmt.f32.mulW r) a b
  | .ffma r => BitVec.ofNat 32 (Fmt.f32.fmaW r a.toNat b.toNat c.toNat)
  | .fmin => f32op (Fmt.f32.minMax false) a b
  | .fmax => f32op (Fmt.f32.minMax true) a b
  | .sel p => if p.getLsbD l then a else b
  | .cvt s t r sat e =>
    if t = 10 then cvtElem s 2 r sat a ||| (cvtElem s 2 r sat b <<< 16)
    else if s = 10 then cvtElem 2 t r sat ((a >>> (16 * e)) &&& 0xFFFF)
    else cvtElem s t r sat a
  | .move => a

/-- The slot that a handle names at a home (R131). -/
def State.slotAt (s : State) (home core ctx handle : Nat) : Option Slot :=
  s.slots.find? fun k => k.home == home && k.core == core && k.ctx == ctx && k.handle == handle

/-- Whether an operand of a home operation stands ready. -/
def State.srcReady (s : State) (core ctx : Nat) (x : HomeSrc) : Bool :=
  match x with
  | .slot h k => (s.slotAt h core ctx k).isSome
  | _ => true

/-- A lane of an operand of a home operation, and whether it is poisoned. -/
def State.srcLane (s : State) (core ctx : Nat) (x : HomeSrc) (l : Nat) : Word × Bool :=
  match x with
  | .none => (0, false)
  | .vals v => (v.getD l 0, false)
  | .came v p => (v.getD l 0, p.getLsbD l)
  | .slot h k =>
    match s.slotAt h core ctx k with
    | some t => (t.lanes.getD l 0, t.poison.getLsbD l)
    | none => (0, false)

/-- The state with the slot of a handle changed. -/
def State.modSlot (s : State) (home core ctx handle : Nat) (f : Slot → Slot) : State :=
  { s with slots := s.slots.map fun k =>
      if k.home = home ∧ k.core = core ∧ k.ctx = ctx ∧ k.handle = handle then f k else k }

/-- The words that an operation reads or writes at its home, or at another line's slice (R149, R286, R295, R305). -/
def State.homeAccess (s : State) (o : HomeOp) (pa : Nat) (wr : Bool) (alloc : Bool := true) : State :=
  let w := s.whereOf o.core o.ctx 0
  if homeOf pa = o.home then
    ((s.touch pa).addTraffic w 4).count { w with tile := true, idx := pa / 2 ^ 36 } 3 (if wr then 1 else 0) 4
  else s.l2 w pa 4 wr alloc

/-- A home performs one operation (R16, R133, R136, R139, R148 to R150). -/
def State.perform (s : State) (o : HomeOp) : State :=
  match o.kind with
  | .make h fn a b c prior wr =>
    let at_ := fun x l => s.srcLane o.core o.ctx x l
    let lane := fun l => if wr.getLsbD l then fn.eval l (at_ a l).1 (at_ b l).1 (at_ c l).1 else (at_ prior l).1
    let bad := fun l => if wr.getLsbD l then (at_ a l).2 || (at_ b l).2 || (at_ c l).2 else (at_ prior l).2
    { s with slots := s.slots ++ [⟨o.home, o.ctx, o.core, h, 1, (List.range 64).map lane, maskOf 64 bad⟩] }
  | .load h words prior wr =>
    let pa := fun l => (words.find? fun w => w.1 == l).map Prod.snd
    let lane := fun l =>
      match pa l with
      | some a => BitVec.ofNat 32 (leNat (rdBytes s.mem a 4))
      | none => if wr.getLsbD l then Config.freeValue (s.free + l) else (s.srcLane o.core o.ctx prior l).1
    let bad := fun l =>
      match pa l with
      | some a => s.poisoned a
      | none => if wr.getLsbD l then false else (s.srcLane o.core o.ctx prior l).2
    words.foldl (fun s w => s.homeAccess o w.2 false) { s with
      slots := s.slots ++ [⟨o.home, o.ctx, o.core, h, 1, (List.range 64).map lane, maskOf 64 bad⟩],
      free := s.free + 64 }
  | .store words past h =>
    words.foldl (fun s w => (s.dramWrite w.2 (leBytes 4 (s.srcLane o.core o.ctx (.slot o.home h) w.1).1.toNat)).homeAccess o w.2 true (!past.contains w.2)) s
  | .compare cond kind a b wr part slot p =>
    let at_ := fun x l => s.srcLane o.core o.ctx x l
    let bit := fun l => if (at_ a l).2 || (at_ b l).2 then (Config.freeValue (s.free + l)).getLsbD 0 else condOf kind cond (at_ a l).1 (at_ b l).1
    State.modCore { s with free := s.free + 64 } o.core fun (k : Core) => { k with
      answers := k.answers ++ [Answer.mk part slot p wr (some (maskOf 64 bit)) []] }
  | .bring h wr part slot key =>
    let word := fun l =>
      let (v, bad) := s.srcLane o.core o.ctx (.slot o.home h) l
      if bad then Config.freeValue (s.free + l) else v
    State.modCore { s with free := s.free + 64 } o.core fun (k : Core) => { k with
      answers := k.answers ++ [Answer.mk part slot key wr none ((List.range 64).map word)] }
  | .ref h => s.modSlot o.home o.core o.ctx h fun k => { k with refs := k.refs + 1 }
  | .release h =>
    match s.slotAt o.home o.core o.ctx h with
    | none => s
    | some k =>
      if k.refs ≤ 1 then
        let s := { s with slots := s.slots.filter fun k =>
          !(k.home == o.home && k.core == o.core && k.ctx == o.ctx && k.handle == h) }
        s.modCore o.core fun c => { c with acks := c.acks ++ [(o.home, o.ctx)] }
      else s.modSlot o.home o.core o.ctx h fun k => { k with refs := k.refs - 1 }

/-- The slots an operation needs before a home can perform it. -/
def HomeKind.needs (k : HomeKind) (home : Nat) : List HomeSrc :=
  match k with
  | .make _ _ a b c p _ => [a, b, c, p]
  | .load _ _ p _ => [p]
  | .compare _ _ a b _ _ _ _ => [a, b]
  | .store _ _ h | .bring h _ _ _ _ | .ref h | .release h => [.slot home h]

/-- Whether a home can perform an operation now: its operands stand at the home, or have come to it (R16). -/
def State.canPerform (s : State) (o : HomeOp) : Bool :=
  (o.kind.needs o.home).all fun x => (match x with | .slot h _ => h == o.home | _ => true) && s.srcReady o.core o.ctx x

/-- An operand of an operation as a home forwards it, when it stands there (R16, R134). -/
def State.cameFrom (s : State) (o : HomeOp) (home : Nat) (x : HomeSrc) : HomeSrc :=
  match x with
  | .slot h k => if h = home then (match s.slotAt h o.core o.ctx k with | some t => .came t.lanes t.poison | none => x) else x
  | _ => x

/-- An operation to which a home has forwarded the operands that stand there (R16, R134, R136). -/
def State.forwarded (s : State) (home : Nat) (o : HomeOp) : HomeOp :=
  let f := s.cameFrom o home
  { o with kind := match o.kind with
      | .make h fn a b c p wr => .make h fn (f a) (f b) (f c) (f p) wr
      | .load h ws p wr => .load h ws (f p) wr
      | .compare k kd a b wr pt sl p => .compare k kd (f a) (f b) wr pt sl p
      | k => k }

/-- Whether an operation is the first that its core has sent and that no home has performed: one core's operations keep their
order at every home (R16, R139). -/
def firstOfCore (q : List HomeOp) (n : Nat) : Bool :=
  match q[n]? with
  | some o => !((q.take n).any fun p => p.core == o.core)
  | none => false

/-- The source that a home takes from after another (R16): cores 0 to 3 of its tile, the row-transfer logic, forwarded operands. -/
def State.tookFrom (s : State) (home src : Nat) : State := { s with turns := tset 0 s.turns home ((src + 1) % 6) }

/-- The next row of a row operation, in the turn of its destination's home (R16, R181). -/
def State.rowTurn (s : State) (n : Nat) : State :=
  match (s.rowops[n]?).bind RowOp.next with
  | none => s
  | some r => (s.rowStep n).tookFrom (homeOf r.1) 4

/-- A scrub read of a sector performed by its home in the turn of the row-transfer logic, by its place among those that wait (R16, R343). -/
def State.scrubTurn (s : State) (n : Nat) : State :=
  match s.scrubs[n]? with
  | none => s
  | some k =>
    let s := { s with scrubs := s.scrubs.eraseIdx n }
    (s.count { s.whereOf 0 0 0 with tile := true, idx := k / 2 ^ 29 } 3 0 128).tookFrom (homeOf (128 * k)) 4

/-- Another home of which an operation still needs an operand, and where that stands ready to be forwarded (R16, R134). -/
def State.fwdHome (s : State) (o : HomeOp) : Option Nat :=
  (o.kind.needs o.home).findSome? fun x => match x with
    | .slot h _ => if h ≠ o.home ∧ s.srcReady o.core o.ctx x then some h else none
    | _ => none

/-- What each source of a home has for it now (R16): the first operation of each core of its tile that can be performed; a row of a row
operation, or after those a scrub read, numbered behind them (R343; log 13); an operand that another home forwards to it. -/
def State.homeWork (s : State) (home : Nat) : List (Nat × Nat) :=
  let ops := (List.range s.homeq.length).filterMap fun n => if firstOfCore s.homeq n then (s.homeq[n]?).map fun o => (n, o) else none
  let core := fun (c : Nat) => (ops.find? fun q => q.2.home == home && q.2.core % 4 == c && s.canPerform q.2).map fun q => (c, q.1)
  let row := ((s.rowops.findIdx? fun o => o.next.any fun r => homeOf r.1 == home).orElse fun _ =>
    (s.scrubs.findIdx? fun k => homeOf (128 * k) == home).map fun n => s.rowops.length + n).map fun n => (4, n)
  let fwd := (ops.find? fun q => q.2.home == home && (s.fwdHome q.2).isSome).map fun q => (5, q.1)
  [core 0, core 1, core 2, core 3, row, fwd].filterMap id

/-- What a home takes next, round-robin from the source after the one that it took last (R16). -/
def State.nextWork (s : State) (home : Nat) : Option (Nat × Nat) :=
  let ws := s.homeWork home
  let t := tget 0 s.turns home
  (ws.find? fun w => decide (t ≤ w.1)).orElse fun _ => ws.head?

/-- A home takes what is next: an operation of a core, a row, or an operand forwarded to it (R16). -/
def State.homeTurn (s : State) (home : Nat) : State :=
  match s.nextWork home with
  | none => s
  | some (4, n) => if n < s.rowops.length then s.rowTurn n else s.scrubTurn (n - s.rowops.length)
  | some (5, n) =>
    (State.tookFrom { s with homeq := modAt s.homeq n fun o => match s.fwdHome o with | some h => s.forwarded h o | none => o } home 5)
  | some (c, n) =>
    match s.homeq[n]? with
    | some o => (({ s with homeq := s.homeq.eraseIdx n }).perform o).tookFrom home c
    | none => s

/-- The homes that have something to do: their operations, rows and scrub reads. -/
def State.busyHomes (s : State) : List Nat :=
  dedup (s.homeq.map HomeOp.home ++ (s.rowops.filterMap fun o => o.next.map fun r => homeOf r.1) ++ s.scrubs.map fun k => homeOf (128 * k))

/-- Turns of the homes that the operations of a core wait at, until none is left (R16). -/
def State.turnsFor (core : Nat) : Nat → State → State
  | 0, s => s
  | n + 1, s =>
    match s.homeq.find? fun o => o.core == core with
    | none => s
    | some o => State.turnsFor core n (s.homeTurn o.home)

/-- Every operation that a core has sent performed, each in its turn at its home, before the core goes on (R16, R152). -/
def State.drainHomes (s : State) (core : Nat) : State :=
  let s := State.turnsFor core (6 * s.homeq.length + (s.rowops.map fun o => o.rows.length).sum + s.scrubs.length) s
  (s.homeq.filter fun o => o.core == core).foldl State.perform { s with homeq := s.homeq.filter fun o => o.core != core }

end Sys2Proof.Machine
end

