-- ==== Sys2Proof/Machine/Ops.lean ====
section
/-! DEFINITION. The named operations over groups and registers; taking a fault or a trap, and issuing an instruction. -/

namespace Sys2Proof.Machine

/-- A fault raised by an instruction (R322, R323); `homes` lists the homes that an exhaustion is short at, with the slots needed (R145). -/
structure Flt where
  code : Nat
  addr : Addr := 0
  at_ : Option Word := none
  cause : Nat := 0
  aux : Nat := 0
  homes : List (Nat × Nat) := []
  deriving DecidableEq, Repr

/-- The issuing group and its lanes while an instruction executes (R7, R36, R77). -/
structure Iss where
  g : Group
  b : Block
  r : Role
  vf : Nat
  seq : Nat
  set : Mask
  act : Mask
  wr : Mask
  pc : Word
  x : Option (BitVec 23)
  undef : Mask
  seed : Nat

/-- The tile of the issuing core. -/
def Iss.tile (i : Iss) : Nat := tileOf i.g.core
/-- Where the events of the issuing group are counted. -/
def Iss.loc (i : Iss) : Where := ⟨false, i.g.core, i.g.part, i.g.ctx, i.vf, i.seq⟩
/-- Where the events of the issuing group at its tile are counted. -/
def Iss.tloc (i : Iss) : Where := ⟨true, i.tile, 0, i.g.ctx, i.vf, i.seq⟩
/-- The first thread of a role in its block (R230). -/
def Block.base0 (b : Block) (role : Nat) : Nat := ((b.roles.take role).map Role.threads).sum
/-- The threads of a block (R230). -/
def Block.threads (b : Block) : Nat := (b.roles.map Role.threads).sum
/-- The thread index in the block of a lane (R230). -/
def Iss.thread (i : Iss) (l : Nat) : Nat := i.b.base0 i.g.role + i.g.gix * i.g.grant + l
/-- The thread index in the block of a lane of a group. -/
def Group.thread (g : Group) (b : Block) (l : Nat) : Nat := b.base0 g.role + g.gix * g.grant + l
/-- The group index in the block (R230). -/
def Group.index (g : Group) (b : Block) : Nat := b.base0 g.role / 16 + g.gix
/-- A thread number unique among resident blocks. -/
def Iss.tid (i : Iss) (l : Nat) : Nat := i.b.id * 2048 + i.thread l
/-- GSLOT (R262). -/
def Group.gslot (g : Group) : Nat := g.part * 16 + g.slot
/-- The active lanes, ascending. -/
def Iss.lanes (i : Iss) : List Nat := lanesOf i.act i.g.grant
/-- The lowest active lane. -/
def Iss.low (i : Iss) : Nat := i.lanes.headD 0
/-- Whether every lane of the grant is written (R136). -/
def Iss.full (i : Iss) : Bool := i.wr == maskOf i.g.grant fun _ => true
/-- The live lanes of a group. -/
def Group.liveMask (g : Group) : Mask := maskOf g.grant fun l => (g.threads.getD l default0).live
where
  /-- The thread of a lane that does not exist. -/
  default0 : Thread :=
    { pc := 0, meet := 0xFFFFFFFF, stack := [], tmo := none, live := false, trapfp := 0, x := [], xmark := 0, pos := 0,
      tail := false, via := false, wait := .none }
/-- The thread of a lane. -/
def Group.threadAt (g : Group) (l : Nat) : Thread := g.threads.getD l Group.liveMask.default0
/-- The group with the threads of a mask changed. -/
def Group.modThreads (g : Group) (m : Mask) (f : Thread → Thread) : Group :=
  { g with threads := g.threads.mapIdx fun l t => if m.getLsbD l then f t else t }
/-- The lanes of a set together with the helper lanes of their quads (R77, R232). -/
def Group.withHelpers (g : Group) (m : Mask) : Mask :=
  maskOf g.grant fun l => m.getLsbD l || (!(g.threadAt l).live && (List.range 4).any fun k => m.getLsbD (l / 4 * 4 + k))
/-- The empty prefix state. -/
def Pfx.none : Pfx := { x := Option.none, guard := Option.none, start := Option.none, dup := false, via := false }
/-- A predicate of a group: p7 reads true (R31). -/
def Group.pred (g : Group) (p : Nat) : Mask := if p = 7 then ~~~0 else g.preds.getD p 0

/-- The mask of one lane. -/
def laneBit (l : Nat) : Mask := BitVec.ofNat 64 (2 ^ l)

/-- The state with the issuing group changed. -/
def State.modIss (s : State) (i : Iss) (f : Group → Group) : State := s.modGroup i.g.core i.g.part i.g.slot f

/-- The number of an operand field's register among all a group has: vectors from 0, s from 256, temporaries from 272; none for a
constant, and none for a vector that no window reaches. -/
def regKey (win : BitVec 3) (f : BitVec 7) (j : Nat) : Option Nat :=
  let n := f.toNat
  if n < 96 then (if win.toNat * 32 + n + j < 256 then some (win.toNat * 32 + n + j) else none)
  else if n < 112 then some (256 + (n - 96) + j)
  else if n < 120 then some (272 + (n - 112) + j)
  else none

/-- The predicate's number among what the scoreboard watches. -/
def predKey (p : Nat) : Nat := 288 + p

/-- What a read of an operand field gives in a lane (R25, R28, R30, R41). -/
def Iss.rd (i : Iss) (f : BitVec 7) (j l : Nat) : Word :=
  let n := f.toNat
  if n < 96 then
    match i.g.regs.getD (i.g.win.toNat * 32 + n + j) (.val []) with
    | .val v => v.getD l 0
    | .px _ _ => 0
  else if n < 112 then i.g.sregs.getD (n - 96 + j) 0
  else if n < 120 then
    let t := i.g.threadAt l
    if t.xmark.getLsbD (n - 112 + j) then t.x.getD (n - 112 + j) 0 else 0
  else
    match n with
    | 121 => BitVec.ofNat 32 l
    | 122 => BitVec.ofNat 32 i.g.grant
    | 123 => BitVec.ofNat 32 (l / 4)
    | 124 => BitVec.ofNat 32 (i.g.index i.b)
    | 125 => BitVec.ofNat 32 i.b.lin
    | 126 => 0xFFFFFFFF
    | _ => 0

/-- A pair read as 64 bits, the low word in the even register (R25). -/
def Iss.rd2 (i : Iss) (f : BitVec 7) (l : Nat) : Addr := i.rd f 1 l ++ i.rd f 0 l

/-- The proxy that an operand field names, if it names one (R129). -/
def Iss.proxy (i : Iss) (f : BitVec 7) (j : Nat) : Option (Nat × Nat) :=
  if f.toNat < 96 then
    match i.g.regs.getD (i.g.win.toNat * 32 + f.toNat + j) (.val []) with
    | .px h k => some (h, k)
    | .val _ => none
  else none

/-- Whether a write to register j of an operand stores into the element that a poison mark is on: in its own lane, or in the one word of
an s register, where the lowest active lane writes (R30, R76, R340). -/
def Group.clears (g : Group) (act wr : Mask) (f : BitVec 7) (j : Nat) (e : Nat × Nat) : Bool :=
  regKey g.win f j == some e.1 &&
    if 96 ≤ f.toNat ∧ f.toNat < 112 then (lanesOf act g.grant).head?.any fun l => wr.getLsbD l else wr.getLsbD e.2

/-- The lanes a value write reaches: an s register takes the lowest active lane's value (R30, R76). -/
def Group.put (g : Group) (act wr : Mask) (f : BitVec 7) (j : Nat) (v : Nat → Word) : Group :=
  let n := f.toNat
  let g := { g with rpoison := g.rpoison.filter fun e => !g.clears act wr f j e }
  if n < 96 then
    let k := g.win.toNat * 32 + n + j
    { g with
      regs := modAt g.regs k fun r =>
        match r with
        | .val old => .val ((List.range g.grant).map fun l => if wr.getLsbD l then v l else old.getD l 0)
        | .px _ _ => .val ((List.range g.grant).map fun l => if wr.getLsbD l then v l else 0) }
  else if n < 112 then
    match (lanesOf act g.grant).head? with
    | some l => if wr.getLsbD l then { g with sregs := modAt g.sregs (n - 96 + j) fun _ => v l } else g
    | none => g
  else if n < 120 then
    { g with threads := g.threads.mapIdx fun l t =>
        if wr.getLsbD l then
          { t with x := modAt t.x (n - 112 + j) fun _ => v l, xmark := t.xmark ||| BitVec.ofNat 8 (2 ^ (n - 112 + j)) }
        else t }
  else g

/-- The predicate bits of a mask's lanes replaced; a write to p7 is discarded (R31, R76, R340). -/
def Group.putPred (g : Group) (wr : Mask) (p : Nat) (v : Mask) : Group :=
  { g with
    preds := modAt g.preds p fun old => (old &&& ~~~wr) ||| (v &&& wr)
    rpoison := g.rpoison.filter fun e => !(e.1 == predKey p && wr.getLsbD e.2) }

/-- What came of executing an instruction: done, with the lanes going to the next word; done, with the run and the PCs
settled by the instruction; parked, to execute again; or a fault (R40). -/
inductive Act where
  | done (s : State)
  | settled (s : State)
  | park (s : State) (why : Park)
  | fault (f : Flt)

/-- The lanes of the issue set moved past the word just executed (R40). -/
def Group.advance (g : Group) : Group :=
  { g.modThreads g.iset fun t => { t with pc := t.pc + 4, via := false } with pos := g.pos + 1, pfx := Pfx.none, again := false, through := false }

/-- The code offset of the issue set (R40). -/
def Group.here (g : Group) : Word := (g.threadAt ((lanesOf g.iset g.grant).headD 0)).pc

/-- How many words of the run have been issued before a code offset, at or before the word that is executing (R40, R331). -/
def Group.posAt (g : Group) (o : Word) : Nat := g.pos - (g.here.toNat - o.toNat) / 4

/-- The issue set left as the tail of its run at its present PCs, and the group out of its run, to execute its word again (R40). -/
def Group.suspend (g : Group) (st : GStat) : Group :=
  let back := match g.pfx.start with | some p => p | none => g.here
  { g.modThreads g.iset fun t => { t with pc := back, tail := true, pos := g.posAt back, via := g.pfx.via || t.via } with
    status := st, pos := g.posAt back, cont := true, again := true, pfx := Pfx.none }

/-- The issue set left as the tail of its run after a word that is complete, and the group out of its run (R40, R258, R319). -/
def Group.pause (g : Group) (st : GStat) : Group := { g.suspend st with again := false }

/-- The class of a fault code (R322, R323): 0 recoverable, 1 trappable, 2 report, 3 fatal. -/
def faultClass (code : Nat) (handler : Bool) : Nat :=
  if code = 0x27 ∨ code = 0x28 ∨ code = 0x29 then 0
  else if code = 0x30 then (if handler then 1 else 0)
  else if code = 0x10 ∨ code = 0x11 then 2
  else if code = 0x4A then 3
  else 1

/-- Every write in flight performed (R335 step 2). -/
def State.drainWrites (s : State) : State := s.inflight.foldl State.land { s with inflight := [] }

/-- A core without the work of an ended context; what its column holds is no context's any more (R166, R335). -/
def Core.without (k : Core) (gs : List Group) (bs : List Nat) (c : Nat) : Core :=
  { k with
    reqs := k.reqs.filter (fun r => r.ctx != c),
    sent := k.sent.filter (fun r => r.ctx != c),
    px := k.px.filter (fun a => a.ctx != c),
    acks := k.acks.filter (fun a => a.2 != c),
    answers := k.answers.filter (fun n => !(gs.any fun g => g.ctx == c && g.part == n.part && g.slot == n.slot)),
    stns := k.stns.filter fun n => !bs.contains n.block,
    colUse := k.colUse.filter (fun u => u.1 != c) }

/-- What the cores of a partition hold of a context's stores, in write-combining buffers and as dirty sectors, written to memory (R188,
R213, R335). -/
def State.publishStores (s : State) (part c : Nat) : State :=
  ((List.range s.cores.length).filter fun k => s.partOf (tileOf k) == part).foldl (fun s k =>
    let s := if (s.coreAt k).wc.any fun w => w.ctx == c then s.drainWc k fun w => w.ctx == c else s
    if (s.coreAt k).l1.any Sector.dirty then s.cleanL1 k fun _ => true else s) s

/-- A context's queued and running work dropped, its slots released, its launches dropped, its scratchpads, accumulators and
private memory discarded; what it has stored stands in memory (R335 steps 1 to 5). -/
def State.stopContext (s : State) (c : Nat) : State :=
  let cores := dedup ((s.homeq.filter fun o => o.ctx == c).map HomeOp.core)
  let s := (cores.foldl State.drainHomes s.drainWrites).publishStores (match s.ctxAt c with | some x => x.part | none => 0) c
  let s := { s with
    launches := s.launches.filter (fun l => l.ctx != c),
    mats := s.mats.filter (fun m => m.ctx != c),
    slots := s.slots.filter (fun k => k.ctx != c),
    homeq := s.homeq.filter (fun o => o.ctx != c),
    recs := s.recs.filter (fun r => r.ctx != c),
    reads := s.reads.filter (fun r => !(s.groups.any fun g => g.ctx == c && g.isAt r.core r.part r.slot)),
    clusters := s.clusters.filter (fun k => !(s.blocks.any fun b => b.ctx == c && b.cluster == k.id)),
    cores := s.cores.mapIdx (fun n (k : Core) => k.without (s.groups.filter fun g => g.core == n) ((s.blocks.filter fun (b : Block) => b.ctx == c).map Block.id) c) }
  let s := { s with blocks := s.blocks.filter (fun b => b.ctx != c), groups := s.groups.filter fun g => g.ctx != c }
  s.modCtx c fun x => { x with run := .ended, ending := none }

/-- Ends a context with one record of kind CTXEND and an interrupt (R335). -/
def State.closeContext (s : State) (c : Nat) (e : Ending) : State :=
  match s.ctxAt c with
  | none => s
  | some x =>
    if x.run = .ended then s
    else
      let s := s.stopContext c
      let s := (s.faultRecord x.vf ⟨e.addr, e.pc, c, 8, e.code, e.block, e.group, e.gslot, e.core, 0, e.aux⟩).2
      s.irq x.vf 0

/-- A fault that ends its context, when the present core cycle is over: of several the one in the lowest partition and then in the
lowest slot stays (R335). -/
def State.endContext (s : State) (c code pc block group gslot core addr aux : Nat) : State :=
  s.modCtx c fun x =>
    if x.ending.any fun e => decide (e.gslot ≤ gslot) then x
    else { x with ending := some ⟨code, pc, block, group, gslot, core, addr, aux⟩ }

/-- The contexts that faults of the last core cycle end are ended (R335). -/
def State.settleEnds (s : State) : State :=
  s.contexts.foldl (fun s x => match x.ending with | some e => s.closeContext x.id e | none => s) s

/-- The written marks and values of a thread's temporaries in a trap frame (R331). -/
def tempBytes (t : Thread) : List Byte :=
  ((List.range 8).map fun k => leBytes 4 (if t.xmark.getLsbD k then (t.x.getD k 0).toNat else 0)).flatten

/-- The 76 bytes that the core writes to a trap frame (R331). -/
def frameBytes (g : Group) (l : Nat) (f : Flt) (fpc rpc : Word) (tkind runpos : Nat) (actv : Bool) (opdesc : List Nat) :
    List Byte :=
  let t := g.threadAt l
  let pred := (List.range 7).foldl (fun a p => if (g.pred p).getLsbD l then a + 2 ^ p else a) (if actv then 128 else 0)
  leBytes 8 f.addr.toNat ++ leBytes 4 fpc.toNat ++ leBytes 4 rpc.toNat ++ leBytes 1 f.code ++ leBytes 1 tkind ++
    leBytes 1 runpos ++ leBytes 1 t.xmark.toNat ++ leBytes 2 f.aux ++ leBytes 1 g.win.toNat ++ leBytes 1 pred ++
    leBytes 4 f.cause ++ leBytes 4 0 ++ tempBytes t ++ ((List.range 3).map fun k => leBytes 4 (opdesc.getD k 0)).flatten

/-- Where a thread's private byte lies in its block's private memory (R158). -/
def privAddr (thread off : Nat) : Nat := thread * 2 ^ 17 + off

/-- Takes a trap into the handler (R330): frames written, window 0, temporaries unwritten, a run at TRAPENT. What its lanes have arrived
at keeps their arrivals. -/
def State.enterTrap (s : State) (g : Group) (b : Block) (ent : Word) (lanes actv : Mask) (f : Flt) (fpc rpc : Nat → Word)
    (tkind : Nat) (runpos : Nat → Nat) (desc : List Nat) (held : List (Nat × Nat)) : State :=
  let s := s.modBlock b.id fun b' =>
    { b' with
      priv := (lanesOf lanes g.grant).foldl
        (fun m l => wrBytes m (privAddr (g.thread b l) b.privSize)
          (frameBytes g l f (fpc l) (rpc l) tkind (runpos l) (actv.getLsbD l) desc)) b'.priv }
  s.modGroup g.core g.part g.slot fun g' =>
    { g'.modThreads lanes fun t =>
        { t with trapfp := BitVec.ofNat 32 b.privSize, pc := ent, xmark := 0, pos := 0, tail := false, via := true,
                 wait := .none } with
      win := 0, status := .eligible, cont := false, again := false, pos := 0, pfx := Pfx.none, busy := 0, refused := none,
      trap := some ⟨lanes, (List.range g.grant).map fpc, (List.range g.grant).map runpos, List.replicate g.grant tkind, f.code, held⟩ }

/-- The trap kind of a fault code (R331). -/
def trapKind (code : Nat) : Nat :=
  if code = 0x48 then 1 else if code = 0x49 then 2 else if code = 0x30 then 3
  else if code = 0x10 ∨ code = 0x11 then 4 else 0

/-- Takes a trappable fault of a set of lanes of a group (R322, R330, R334, R335). -/
def State.takeFault (s : State) (g : Group) (b : Block) (w : Where) (lanes actv : Mask) (f : Flt) (pc : Nat → Word)
    (runpos : Nat → Nat) (desc : List Nat) (held : List (Nat × Nat)) : State :=
  let first := pc ((lanesOf actv g.grant).headD 0)
  let s := s.traceGroup g w 6 f.code first.toNat f.addr.toNat
  let end_ := fun (s : State) (code aux : Nat) =>
    s.endContext g.ctx code first.toNat b.lin (g.index b) g.gslot g.core f.addr.toNat aux
  let tk := trapKind f.code
  if g.trap.isSome then end_ s 0x4A f.code
  else
    match b.trapEnt with
    | none => end_ s f.code (if f.code = 0x26 then f.cause else 0)
    | some ent =>
      s.enterTrap g b ent lanes actv f pc (fun l => if tk = 1 ∨ tk = 2 then pc l + 4 else pc l) tk runpos desc held

/-- Takes a fault of the issuing instruction. -/
def State.raise (s : State) (i : Iss) (f : Flt) (desc : List Nat) (held : List (Nat × Nat)) : State :=
  let pc := f.at_.getD i.pc
  s.takeFault i.g i.b i.loc i.set i.act f (fun _ => pc) (fun _ => i.g.posAt pc) desc held

/-- Parks the issuing group for a recoverable fault, one record for each distinct page (R184, R322, R326, R328). -/
def State.parkFault (s : State) (i : Iss) (fs : List (Nat × Addr × Nat × Nat × Mask)) : State :=
  let ep := (s.isoAt (s.partOf i.tile)).epoch
  let s := fs.foldl (fun s (code, va, kind, flags, lanes) =>
    let (w, s) := s.faultRecord i.vf
      ⟨va.toNat, i.pc.toNat, i.g.ctx, kind, code, i.b.lin, i.g.index i.b, i.g.gslot, i.g.core, flags, lanes.toNat⟩
    { s with recs := s.recs ++
        [(⟨i.vf, i.g.ctx, kind, va.toNat, 0, 0, false, i.g.core, i.g.part, i.g.slot, i.b.id, 0, 0, w, ep, false⟩ : FRec)] }) s
  let code := match fs.head? with | some (c, _) => c | none => 0
  let va := match fs.head? with | some (_, a, _) => a.toNat | none => 0
  let s := (s.count i.loc 8 4 1).traceGroup i.g i.loc 6 code i.pc.toNat va
  s.modIss i fun g => { g.suspend (.parked .fault) with
    records := g.records + fs.length, through := g.through || fs.any fun f => f.1 == 0x29 }

/-- Parks the issuing group for a proxy exhaustion that no handler takes, with one record for each home (R145, R322). -/
def State.parkPx (s : State) (i : Iss) (f : Flt) : State :=
  let ep := (s.isoAt (s.partOf i.tile)).epoch
  let s := f.homes.foldl (fun s q =>
    let (w, s) := s.faultRecord i.vf
      ⟨0, i.pc.toNat, i.g.ctx, 4, 0x30, i.b.lin, i.g.index i.b, i.g.gslot, i.g.core, 0, q.1 + f.cause * 2 ^ 13⟩
    { s with recs := s.recs ++
      [(⟨i.vf, i.g.ctx, 4, 0, q.1, q.2, f.cause == 1, i.g.core, i.g.part, i.g.slot, i.b.id, 0, 0, w, ep, false⟩ : FRec)] }) s
  let s := (s.count i.loc 8 4 1).traceGroup i.g i.loc 6 0x30 i.pc.toNat 0
  s.modIss i fun g => { g.suspend (.parked (.pxexh f.homes (f.cause == 1))) with records := g.records + f.homes.length }

/-- A code word of a block's code object, fetched by a core at its L2 slice or across the host link, or the fault of its fetch (R156,
R157, R160, R287, R289, R342, R389). -/
def State.codeWord (s : State) (core ctx : Nat) (base : Addr) (off : Word) : (Except Flt Word) × State :=
  let a := base + off.setWidth 64
  match s.reach (tileOf core) ctx a .fetch with
  | (.bad c cause _, s) => (.error { code := c, addr := a, cause := cause }, s)
  | (.ok pa w, s) =>
    match s.agentRead (tileOf core) ctx pa 4 w with
    | ((_, true), s) => (.error { code := 0x2F, addr := a }, s)
    | ((bs, false), s) => (.ok (BitVec.ofNat 32 (leNat bs)), s)

/-- The state after words have been fetched ahead: their pages are accessed (R289). -/
def State.look (s : State) (i : Iss) (offs : List Word) : State :=
  offs.foldl (fun s o => (s.codeWord i.g.core i.g.ctx i.b.base o).2) s

/-- The registers and predicates an instruction names, and what it accepts (R26, R29, R30, R37, R47, R78); those in `also` may be
proxies, those in `plain` are destinations that may not, and those in `tags` are looked at for their descriptors only; `toPx` says
that its result may be a proxy; `psrc` lists the predicates that it reads; `dsrc` says that the last of its sources is its field d; `from_` tells of each operand of `reads` the lanes
whose elements of a register a lane reads, its own unless it says otherwise; `ahead` lists the words that the core fetches ahead to
check it. -/
structure Uses where
  reads : List (BitVec 7 × Nat) := []
  also : List (BitVec 7 × Nat) := []
  tags : List (BitVec 7 × Nat) := []
  plain : List (BitVec 7 × Nat) := []
  dsrc : Bool := false
  toPx : Bool := false
  writes : List (BitVec 7 × Nat) := []
  preds : List (BitVec 3) := []
  psrc : List (BitVec 3) := []
  px : Bool := false
  xi : Bool := false
  guard : Bool := true
  p6 : Bool := true
  from_ : Nat → Iss → Nat → Nat → Mask := fun _ _ l _ => laneBit l
  ahead : Iss → List Word := fun _ => []

/-- Every lane reads the element of the lowest active lane (R106). -/
def fromLow (_ : Nat) (i : Iss) (_ _ : Nat) : Mask := laneBit i.low
/-- Of the operand at a position, every lane reads the element of the lowest active lane, of the others its own. -/
def lowAt (p : Nat) (n : Nat) (i : Iss) (l _ : Nat) : Mask := laneBit (if n = p then i.low else l)
/-- An active lane reads its own element, no other lane reads any. -/
def fromActive (_ : Nat) (i : Iss) (l _ : Nat) : Mask := if i.act.getLsbD l then laneBit l else 0

/-- Whether a register operand lies at or above the meeting-stack reservation (R29). -/
def Iss.outOfRange (i : Iss) (u : BitVec 7 × Nat) : Bool :=
  decide (u.1.toNat < 96) && decide (i.r.allot - i.b.depth < i.g.win.toNat * 32 + u.1.toNat + u.2)

/-- Whether an operand names a proxy in any of its registers. -/
def Iss.anyProxy (i : Iss) (u : BitVec 7 × Nat) : Bool := (List.range u.2).any fun j => (i.proxy u.1 j).isSome

/-- The operands whose elements an instruction reads, with their positions. -/
def Uses.sources (u : Uses) : List ((BitVec 7 × Nat) × Nat) := (u.reads ++ u.also).zipIdx

/-- The lanes whose elements of register j of the operand at position n the lanes of a mask read. -/
def Iss.elems (i : Iss) (u : Uses) (m : Mask) (n j : Nat) : Mask :=
  (lanesOf m i.g.grant).foldl (fun a l => a ||| u.from_ n i l j) 0

/-- Whether some element of a mask's lanes is poisoned in a register or predicate: an s register has one word for all lanes; a temporary that
nothing has written in this run reads as 0 (R30, R41, R340). -/
def Iss.marked (i : Iss) (k : Nat) (m : Mask) : Bool :=
  i.g.rpoison.any fun e => e.1 == k && (if 256 ≤ k ∧ k < 272 then m != 0 else m.getLsbD e.2) &&
    (!(decide (272 ≤ k) && decide (k < 280)) || (i.g.threadAt e.2).xmark.getLsbD (k - 272))

/-- Whether the lanes of a mask read a poisoned element (R340). -/
def Iss.tainted (i : Iss) (u : Uses) (m : Mask) : Bool :=
  (u.sources.any fun f => (List.range f.1.2).any fun j => (regKey i.g.win f.1.1 j).any fun k => i.marked k (i.elems u m f.2 j)) ||
    u.psrc.any fun p => i.marked (predKey p.toNat) m

/-- Whether the guard of the lanes of a mask is poisoned (R36, R340). -/
def Iss.guardTaint (i : Iss) (m : Mask) : Bool := i.g.pfx.guard.any fun p => i.marked (predKey p.1.toNat) m

/-- The helper lanes that read a poisoned element: what they compute is undefined (R77, R342). -/
def Iss.blind (i : Iss) (u : Uses) : Mask := maskOf i.g.grant fun l => i.wr.getLsbD l && !i.act.getLsbD l &&
  (i.tainted u (laneBit l) || i.guardTaint (laneBit l))

/-- Whether the instruction reads a temporary element that nothing has written in this run, for the first time that the word executes
(R41). -/
def Iss.unwritten (i : Iss) (u : Uses) : Bool :=
  !i.g.again && u.sources.any fun f => decide (112 ≤ f.1.1.toNat) && decide (f.1.1.toNat < 120) &&
    (List.range f.1.2).any fun j => (lanesOf (i.elems u i.wr f.2 j) i.g.grant).any fun l => !(i.g.threadAt l).xmark.getLsbD (f.1.1.toNat - 112 + j)

/-- The decode checks after ILLENC: ILLREV and ILLPFX (R47, R37, R48). -/
def Iss.prefixFault (i : Iss) (u : Uses) : Option Flt :=
  if !u.p6 && i.b.irev == 0 then some { code := 0x02, at_ := some i.g.here }
  else if i.g.pfx.dup || i.g.pfx.via || (i.g.pfx.x.isSome && !u.xi) || (i.g.pfx.guard.isSome && !u.guard) then
    some { code := 0x03 }
  else none

/-- Whether an instruction of R78 would put a proxy into an s register or a temporary (R30). -/
def Iss.pxDest (i : Iss) (u : Uses) : Bool :=
  u.toPx && u.reads.any i.anyProxy && u.writes.any fun w => decide (96 ≤ w.1.toNat) && decide (w.1.toNat < 120)

/-- The operand checks: REGRANGE, PXOP, then poisoned sources (R29, R30, R48, R78, R340). -/
def Iss.operandFault (i : Iss) (u : Uses) : Option Flt :=
  if (u.reads ++ u.also ++ u.tags ++ u.writes).any i.outOfRange then some { code := 0x06 }
  else if (!u.px && u.reads.any i.anyProxy) || i.pxDest u || u.plain.any i.anyProxy then some { code := 0x07 }
  else if i.tainted u i.act || i.guardTaint (i.set &&& i.g.liveMask) then some { code := 0x2F }
  else none

/-- The group whose slot it is and that issues (R276). -/
def State.issuer (s : State) : Option Group :=
  s.groups.find? fun g => 4 * g.core + g.part == s.port && g.status == .issuing

/-- The issue context of a group (R7, R36, R77). -/
def State.issOf (s : State) (g : Group) : Option Iss :=
  match s.blockAt g.block with
  | none => none
  | some b =>
    match b.roles[g.role]? with
    | none => none
    | some r =>
      let gm := match g.pfx.guard with
        | some (p, n) => if n = 1 then ~~~g.pred p.toNat else g.pred p.toNat
        | none => ~~~0
      let vf := match s.ctxAt g.ctx with | some c => c.vf | none => 0
      let seq := match s.launchAt b.launch with | some l => l.seq | none => 0
      some { undef := 0, seed := 0, g := g, b := b, r := r, vf := vf, seq := seq, set := g.iset, act := g.iset &&& g.liveMask &&& gm,
             wr := g.iset &&& gm, pc := g.pfx.start.getD g.here, x := g.pfx.x }

/-- OPDESC: the descriptors that the fields a, b and d name, and the references they hold (R331). -/
def Iss.opdesc (i : Iss) (u : Uses) : List Nat × List (Nat × Nat) :=
  let srcs := (u.tags ++ u.reads ++ u.also).map Prod.fst
  let ab := if u.dsrc then srcs.dropLast else srcs
  let d := if u.dsrc then srcs.getLast? else u.writes.head?.map Prod.fst
  let pr := [ab[0]?, ab[1]?, d].map fun (f : Option (BitVec 7)) => f.bind fun f => i.proxy f 0
  (pr.map fun p => match p with | some (h, k) => 2 ^ 31 + h * 4096 + k | none => 0, pr.filterMap id)

/-- The state after an instruction, by what came of it (R40, R322); a recoverable fault that comes this way is of a fetch. -/
def State.settle (s : State) (i : Iss) (u : Uses) (a : Act) : State :=
  match a with
  | .done t => t.modIss i Group.advance
  | .settled t => t
  | .park t why => t.modIss i fun g => g.suspend (.parked why)
  | .fault f =>
    let s := if f.code = 0x30 then s.count i.loc 4 7 1 else s
    if f.code = 0x30 ∧ (i.b.trapEnt.isNone ∨ i.g.trap.isSome) then s.parkPx i f
    else if 0x27 ≤ f.code ∧ f.code ≤ 0x29 then s.parkFault i [(f.code, f.addr, f.code - 0x26, 2, i.act)]
    else
      let (desc, held) := i.opdesc u
      s.raise i f desc held

/-- The scoreboard numbers of the registers and predicates that an instruction names (R34, R40). -/
def Iss.names (i : Iss) (u : Uses) : List Nat :=
  ((u.reads ++ u.also ++ u.tags ++ u.writes).map fun f => (List.range f.2).filterMap (regKey i.g.win f.1)).flatten ++
    (u.preds.map fun p => predKey p.toNat) ++ (i.g.pfx.guard.toList.map fun p => predKey p.1.toNat)

/-- Whether the next word waits on the scoreboard (R40, R135). -/
def Iss.stalls (i : Iss) (u : Uses) : Bool := i.g.sb.any fun e => (i.names u).contains e.1

/-- The leaf of a slot in which the next word waits on the scoreboard: 4 when it waits for a name or a row operation, else 5 for what
comes from a home (R278). -/
def Iss.stallLeaf (i : Iss) (u : Uses) : Nat :=
  if i.g.sb.any fun e => (i.names u).contains e.1 && (e.2 == .name || e.2 == .rows) then 4 else 5

/-- Whether a fault of the words that a branch names comes before ILLREV: RUNLEN and ILLENC (R48). -/
def Flt.early (f : Flt) : Bool := f.code == 0x04 || f.code == 0x01

/-- The first of the checks of R48 that a word fails before its body: RUNLEN and ILLENC of the words it names, ILLREV, ILLPFX; with an
active lane, a refusal by system software (R326), RUNTGT, REGRANGE, PXOP and poisoned sources. -/
def Iss.firstFault (i : Iss) (u : Uses) (tgt : Option Flt) : Option Flt :=
  if i.act ≠ 0 ∧ tgt.any Flt.early then tgt
  else
    match i.prefixFault u with
    | some f => some f
    | none =>
      if i.act = 0 then none
      else if i.g.refused.isSome then some { code := 0x26, addr := i.g.refused.getD 0 }
      else
        match tgt with
        | some f => some f
        | none => i.operandFault u

/-- The issue context with the helper lanes marked that read poisoned elements, whose results are free values (R77). -/
def Iss.withBlind (i : Iss) (s : State) (u : Uses) : Iss :=
  { i with undef := i.blind u, seed := s.free }

/-- Executes an instruction of the issuing group: nothing yet while it waits on the scoreboard; then the checks in the order
of R48, then the body. With no active lane a
word that passes the decode checks has no effect (R29). An instruction that system software has refused raises PGPERM with cause 0
(R326). -/
def issue (s : State) (u : Uses) (tgt : Iss → Option Flt) (body : State → Iss → Act) : Host.Outcome State Fault Refusal :=
  match s.issuer with
  | none => .refused .noIssuer
  | some g =>
    match s.issOf g with
    | none => .refused .noIssuer
    | some i =>
      .next <| if i.stalls u then s.modIss i fun g => { g with stall := i.stallLeaf u } else
        let s := s.look i (u.ahead i)
        match i.firstFault u (tgt i) with
        | some f => s.settle i u (.fault f)
        | none =>
          if i.act = 0 then s.settle i u (.done s)
          else
            let s := if i.unwritten u then s.count i.loc 1 2 1 else s
            s.settle i u (if i.blind u = 0 then body s i else body { s with free := s.free + 1024 } (i.withBlind s u))

/-- No target check. -/
def noTarget (_ : Iss) : Option Flt := none

end Sys2Proof.Machine
end

