-- ==== Sys2Proof/Machine/Homes.lean ====
section
/-! DEFINITION. Proxies: handles, credits, references, the operations of homes, and writing results to registers
(R129 to R155). -/

namespace Sys2Proof.Machine

/-- A register named by its number among all a group has, written in some lanes: no element written is poisoned any more (R340). -/
def Group.putKey (g : Group) (act wr : Mask) (key : Nat) (v : Nat → Word) : Group :=
  let g := { g with rpoison := g.rpoison.filter fun e =>
    !(e.1 == key && if 256 ≤ key ∧ key < 272 then (lanesOf act g.grant).head?.isSome else wr.getLsbD e.2) }
  if key < 256 then
    { g with regs := modAt g.regs key fun r =>
        match r with
        | .val old => .val ((List.range g.grant).map fun l => if wr.getLsbD l then v l else old.getD l 0)
        | r => r }
  else if key < 272 then
    match (lanesOf act g.grant).head? with
    | some l => { g with sregs := modAt g.sregs (key - 256) fun _ => v l }
    | none => g
  else
    { g with threads := g.threads.mapIdx fun l t =>
        if wr.getLsbD l then
          { t with x := modAt t.x (key - 272) fun _ => v l, xmark := t.xmark ||| BitVec.ofNat 8 (2 ^ (key - 272)) }
        else t }

/-- Answers of homes that have come to a core written to its registers; one that no lane waits for any more is dropped (R41, R135, R150). -/
def State.takeAnswer (s : State) (core : Nat) (a : Answer) : State :=
  if a.wr = 0 then s else s.modGroup core a.part a.slot fun g =>
    let g := { g with sb := g.sb.filter fun e => e.1 != (match a.pred with | some _ => predKey a.key | none => a.key) }
    match a.pred with
    | some m => g.putPred a.wr a.key m
    | none => g.putKey a.wr a.wr a.key fun l => a.words.getD l 0

/-- The proxy accounts of a context on a core (R131, R141, R143). -/
def State.acct (s : State) (core ctx : Nat) : PxAcct :=
  ((s.coreAt core).px.find? fun a => a.ctx == ctx).getD ⟨ctx, [], [], 0⟩

/-- The state with the proxy accounts of a context on a core changed. -/
def State.modAcct (s : State) (core ctx : Nat) (f : PxAcct → PxAcct) : State :=
  s.modCore core fun k =>
    if k.px.any fun a => a.ctx == ctx then
      { k with px := k.px.map fun (a : PxAcct) => if a.ctx = ctx then f a else a }
    else { k with px := k.px ++ [f ⟨ctx, [], [], 0⟩] }

/-- The credits of a context on a core at a home (R143). -/
def State.credits (s : State) (core ctx home : Nat) : Nat :=
  (match s.ctxAt ctx with | some c => c.quota | none => 0) - tget 0 (s.acct core ctx).used home

/-- The free handles of a context on a core (R131, R144). -/
def State.freeHandles (s : State) (core ctx : Nat) : List Nat :=
  let used := (s.acct core ctx).handles
  (List.range 4096).filter fun h => !used.contains h

/-- What an instruction that needs n new slots at a home is short of: nothing, credits, or handles (R143, R144). -/
def State.shortOf (s : State) (i : Iss) (home n : Nat) : Option Flt :=
  if s.credits i.g.core i.g.ctx home < n then some { code := 0x30, aux := home, cause := 0, homes := [(home, n)] }
  else if 4096 - (s.acct i.g.core i.g.ctx).handles.length < n then
    some { code := 0x30, aux := home, cause := 1, homes := [(home, n)] }
  else none

/-- Whether the exhaustion policy is FALLBACK (R141). -/
def State.fallback (s : State) (i : Iss) : Bool := (s.acct i.g.core i.g.ctx).pol == 1

/-- A new handle and one credit taken at a home (R131, R143). -/
def State.takeHandle (s : State) (i : Iss) (home : Nat) : Nat × State :=
  let fr := s.freeHandles i.g.core i.g.ctx
  let (k, s) := s.choose fr.length
  let h := fr.getD k 0
  (h, s.modAcct i.g.core i.g.ctx fun a =>
    { a with handles := h :: a.handles, used := tset 0 a.used home (tget 0 a.used home + 1) })

/-- An operation sent to a home (R16, R134). -/
def State.send (s : State) (i : Iss) (home : Nat) (k : HomeKind) : State :=
  { s with homeq := s.homeq ++ [⟨home, i.g.core, i.g.ctx, i.g.gslot, k⟩] }

/-- The bytes that cross to, from and between homes counted (R134, R305). -/
def State.pxBytes (s : State) (i : Iss) (inw out fwd : Nat) : State :=
  ((s.count i.loc 4 1 inw).count i.loc 4 2 out).count i.loc 4 3 fwd

/-- How many registers of a context's groups on a core name a handle. -/
def State.named (s : State) (core ctx home handle : Nat) : Nat :=
  ((s.groups.filter fun g => g.core == core && g.ctx == ctx).map fun g =>
    (g.regs.filter fun r => r == .px home handle).length).sum

/-- The reference of a register that has just been overwritten is released, unless a trap frame holds it (R139). -/
def State.release (s : State) (core ctx gslot home handle : Nat) : State :=
  let held := s.groups.any fun g => g.core == core && g.ctx == ctx &&
    (match g.trap with | some t => t.held.contains (home, handle) | none => false)
  if held then s
  else
    let s := { s with homeq := s.homeq ++ [⟨home, core, ctx, gslot, .release handle⟩] }
    if s.named core ctx home handle = 0 then s.modAcct core ctx fun a => { a with handles := a.handles.filter (· != handle) }
    else s

/-- A release that travels on its own: one 16-byte command when it is sent (R134). -/
def State.releaseAlone (s : State) (w : Where) (core ctx gslot home handle : Nat) : State :=
  let t := s.release core ctx gslot home handle
  if t.homeq.length = s.homeq.length then t else t.count w 4 1 16

/-- Acknowledgements of freed slots reach a core: each returns one credit (R139, R143). -/
def State.takeAcks (s : State) (core : Nat) (p : Nat × Nat → Bool) : State :=
  let as := (s.coreAt core).acks.filter p
  let s := s.modCore core fun c => { c with acks := c.acks.filter fun a => !p a }
  as.foldl (fun s a => s.modAcct core a.2 fun x => { x with used := tset 0 x.used a.1 (tget 0 x.used a.1 - 1) }) s

/-- The references that a trap frame has kept from being released are released (R139, R333). -/
def State.releaseHeld (s : State) (w : Where) (core ctx gslot : Nat) (held : List (Nat × Nat)) : State :=
  (dedup held).foldl (fun s q =>
    let s := s.drainHomes core
    let n := match s.slotAt q.1 core ctx q.2 with
      | some k => k.refs - s.named core ctx q.1 q.2
      | none => 0
    (List.range n).foldl (fun s _ => s.releaseAlone w core ctx gslot q.1 q.2) s) s

/-- A vector register of a group, by number, replaced: nothing of it is poisoned (R340). -/
def Group.setReg (g : Group) (key : Nat) (r : VReg) : Group :=
  { g with regs := modAt g.regs key fun _ => r, rpoison := g.rpoison.filter fun e => e.1 != key }

/-- A register write of an instruction: the operand field, its element, the written lanes and their values. -/
structure WReq where
  f : BitVec 7
  j : Nat
  wr : Mask
  v : Nat → Word

/-- The lanes of a slot brought to the core, all of the core's operations performed first (R146). -/
def State.slotLanes (s : State) (i : Iss) (home handle : Nat) : List Word × Mask :=
  match s.slotAt home i.g.core i.g.ctx handle with
  | some t => (t.lanes, t.poison)
  | none => ([], 0)

/-- Whether a mask holds every lane of the grant (R136). -/
def Iss.all (i : Iss) (wr : Mask) : Bool := wr == maskOf i.g.grant fun _ => true

/-- A register becomes a value register: some lanes given, the others brought out of its slot with their poison (R146, R150, R342). -/
def Group.setFrom (g : Group) (key : Nat) (wr : Mask) (v : Nat → Word) (old : List Word) (bad : Mask) : Group :=
  { g.setReg key (.val ((List.range g.grant).map fun l => if wr.getLsbD l then v l else old.getD l 0)) with
    rpoison := (g.rpoison.filter fun e => e.1 != key) ++
      (((List.range g.grant).filter fun l => !wr.getLsbD l && bad.getLsbD l).map fun l => (key, l)) }

/-- One register write into a register that holds a proxy (R137): a value when all lanes are written; else a merge at the proxy's
home or, with `out`, a value with the old lanes brought out (R146). -/
def State.writeOverProxy (s : State) (i : Iss) (out : Bool) (w : WReq) (home handle : Nat) : State :=
  let key := i.g.win.toNat * 32 + w.f.toNat + w.j
  if i.all w.wr then
    let s := s.modIss i fun g => g.put i.act w.wr w.f w.j w.v
    s.releaseAlone i.loc i.g.core i.g.ctx i.g.gslot home handle
  else if out then
    let s := s.drainHomes i.g.core
    let (old, bad) := s.slotLanes i home handle
    let s := s.modIss i fun g => g.setFrom key w.wr w.v old bad
    let s := s.pxBytes i 16 (4 * (i.g.grant - (lanesOf w.wr i.g.grant).length)) 0
    s.releaseAlone i.loc i.g.core i.g.ctx i.g.gslot home handle
  else
    let (h, s) := s.takeHandle i home
    let s := s.send i home (.make h .move (.vals ((List.range 64).map w.v)) .none .none (.slot home handle) w.wr)
    let s := s.modIss i fun g => { g.setReg key (.px home h) with sb := g.sb ++ [(key, .handle)] }
    let s := (s.count i.loc 4 5 1).pxBytes i (16 + 4 * (lanesOf w.wr i.g.grant).length) 0 0
    s.release i.g.core i.g.ctx i.g.gslot home handle

/-- The homes at which the writes of an instruction need a merge, one for each (R137). -/
def Iss.merges (i : Iss) (ws : List WReq) : List Nat :=
  ws.filterMap fun w => if i.all w.wr then none else (i.proxy w.f w.j).map Prod.fst

/-- What an instruction that needs new slots at some homes, one for each entry, is short of, all needs taken together: credits at
homes that lack them, in register order, else handles (R143 to R145, R322; log 62). -/
def State.shortAll (s : State) (i : Iss) (homes : List Nat) : Option Flt :=
  let need := fun (h : Nat) => (homes.filter (· == h)).length
  match (dedup homes).filter fun h => decide (s.credits i.g.core i.g.ctx h < need h) with
  | h :: hs => some { code := 0x30, aux := h, cause := 0, homes := (h :: hs).map fun h => (h, need h) }
  | [] =>
    if 4096 - (s.acct i.g.core i.g.ctx).handles.length < homes.length then
      some { code := 0x30, aux := homes.headD 0, cause := 1, homes := [(homes.headD 0, homes.length)] }
    else none

/-- A result in the lanes whose operands were undefined (R77). -/
def Iss.blur (i : Iss) (k : Nat) (v : Nat → Word) (l : Nat) : Word :=
  if i.undef.getLsbD l then Config.freeValue (i.seed + 64 * k + l) else v l

/-- The bits of a predicate result, undefined in the lanes whose operands were (R77). -/
def Iss.bits (i : Iss) (bit : Nat → Bool) : Mask :=
  maskOf i.g.grant (if i.undef = 0 then bit else fun l => if i.undef.getLsbD l then (i.blur 0 (fun _ => 0) l).getLsbD 0 else bit l)

/-- A predicate operand, undefined in the lanes whose operands were (R77). -/
def Iss.predOf (i : Iss) (p : Nat) : Mask := if i.undef = 0 then i.g.pred p else i.bits fun l => (i.g.pred p).getLsbD l

/-- The results of an instruction, undefined in the lanes whose operands were (R77). -/
def Iss.blurAll (i : Iss) (ws : List WReq) : List WReq :=
  if i.undef = 0 then ws else ws.mapIdx fun k w => { w with v := i.blur (k + w.j) w.v }

/-- The results of an instruction written to its destinations; with `out`, no merge is made. -/
def State.putRegs (s : State) (i : Iss) (out : Bool) (ws : List WReq) : State :=
  (i.blurAll ws).foldl (fun s w =>
    match i.proxy w.f w.j with
    | some (h, k) => s.writeOverProxy i out w h k
    | none => s.modIss i fun g => g.put i.act w.wr w.f w.j w.v) s

/-- The results of an instruction written to its destinations (R30, R76, R137): merges where every credit and handle is there, and
under FALLBACK none else (R143, R146). -/
def State.writeRegs (s : State) (i : Iss) (ws : List WReq) : Act :=
  match s.shortAll i (i.merges ws) with
  | some f => if s.fallback i then .done ((s.count i.loc 4 7 1).putRegs i true ws) else .fault f
  | none => .done (s.putRegs i false ws)

/-- One result for each written lane in a single destination. -/
def State.writeOne (s : State) (i : Iss) (d : BitVec 7) (v : Nat → Word) : Act := s.writeRegs i [⟨d, 0, i.wr, v⟩]

/-- A 64-bit result for each lane of a mask in a pair. -/
def State.writePair (s : State) (i : Iss) (d : BitVec 7) (wr : Mask) (v : Nat → Addr) : Act :=
  s.writeRegs i [⟨d, 0, wr, fun l => (v l).setWidth 32⟩, ⟨d, 1, wr, fun l => ((v l) >>> 32).setWidth 32⟩]

/-- A source operand: a register field, an immediate, or none. -/
inductive Opd where
  | reg (f : BitVec 7)
  | imm (w : Word)
  | nil

/-- The value of a source operand in a lane. -/
def Opd.val (o : Opd) (i : Iss) (l : Nat) : Word := match o with | .reg f => i.rd f 0 l | .imm w => w | .nil => 0
/-- The proxy that a source operand names. -/
def Opd.px (o : Opd) (i : Iss) : Option (Nat × Nat) := match o with | .reg f => i.proxy f 0 | _ => none
/-- The register operands of a source. -/
def Opd.uses (o : Opd) : List (BitVec 7 × Nat) := match o with | .reg f => [(f, 1)] | _ => []

/-- A source operand as a home receives it (R134). -/
def Opd.src (o : Opd) (i : Iss) : HomeSrc :=
  match o.px i with
  | some (h, k) => .slot h k
  | none => match o with | .nil => .none | _ => .vals ((List.range 64).map (o.val i))

/-- The bytes a source operand sends inward and forwards (R134). -/
def Opd.cost (o : Opd) (i : Iss) (home lanes : Nat) : Nat × Nat :=
  match o.px i with
  | some (h, _) => (0, if h = home then 0 else 4 * lanes)
  | none =>
    match o with
    | .reg f => (if f.toNat < 96 ∨ (112 ≤ f.toNat ∧ f.toNat < 120) then 4 * (lanesOf i.set i.g.grant).length else 4, 0)
    | .imm _ => (4, 0)
    | .nil => (0, 0)

/-- A destination that takes a new proxy: the register renamed, its old reference released (R136, R139). -/
def State.bindProxy (s : State) (i : Iss) (d : BitVec 7) (j home h : Nat) : State :=
  let key := i.g.win.toNat * 32 + d.toNat + j
  let s := s.modIss i fun g => { g.setReg key (.px home h) with sb := g.sb ++ [(key, .handle)] }
  match i.proxy d j with
  | some (h0, k0) => s.release i.g.core i.g.ctx i.g.gslot h0 k0
  | none => s

/-- Performs in the core an instruction whose proxy sources are brought out (R146): its destination becomes a value; a poisoned
element of an active lane faults (R148), one of a helper lane is undefined (R342). -/
def State.fallbackAlu (s : State) (i : Iss) (d : BitVec 7) (outs : List Nat) (a b c : Opd)
    (pick : Nat → HomeFn) : Act :=
  let s := s.drainHomes i.g.core
  let val := fun (o : Opd) (l : Nat) =>
    match o.px i with
    | some (h, k) => (s.slotLanes i h k).1.getD l 0
    | none => o.val i l
  let ps := [a, b, c].filterMap fun o => o.px i
  let bad := ps.foldl (fun m p => m ||| (s.slotLanes i p.1 p.2).2) 0
  if bad &&& i.act ≠ 0 then .fault { code := 0x2F }
  else
    let j : Iss := { i with undef := i.undef ||| (bad &&& i.wr), seed := s.free }
    let n := (lanesOf i.wr i.g.grant).length
    let s := ((s.count i.loc 4 6 ps.length).pxBytes i (16 * ps.length) (4 * n * ps.length) 0)
    .done <| State.putRegs { s with free := s.free + 1024 } j true
      (outs.map fun e => ⟨d, e, i.wr, fun l => (pick e).eval l (val a l) (val b l) (val c l)⟩)

/-- What the unwritten lanes of a destination element cost a new proxy at a home: bytes inward and forwarded (R134, R136). -/
def Iss.restCost (i : Iss) (home : Nat) (d : BitVec 7) (j : Nat) : Nat × Nat :=
  let rest := i.g.grant - (lanesOf i.wr i.g.grant).length
  if i.full then (0, 0)
  else match i.proxy d j with
    | some (h, _) => (0, if h = home then 0 else 4 * rest)
    | none => (4 * rest, 0)

/-- A value operand with the lanes undefined whose elements are poisoned (R77). -/
def Opd.sent (o : Opd) (i : Iss) : HomeSrc :=
  match o.src i with
  | .vals v => if i.undef = 0 then .vals v else .vals (v.mapIdx fun l w => i.blur 0 (fun _ => w) l)
  | x => x

/-- The lanes of a value register that are poisoned (R340). -/
def Iss.poisonOf (i : Iss) (f : BitVec 7) (j : Nat) : Mask :=
  match regKey i.g.win f j with
  | some k => maskOf i.g.grant fun l => i.g.rpoison.contains (k, l)
  | none => 0

/-- A value register as a home receives it, its poison with it (R151, R342). -/
def Iss.valsOf (i : Iss) (f : BitVec 7) (j : Nat) : HomeSrc :=
  let v := (List.range 64).map (i.rd f j)
  if i.poisonOf f j = 0 then .vals v else .came v (i.poisonOf f j)

/-- The prior destination element as the unwritten lanes of a new proxy take it (R136). -/
def Iss.priorAt (i : Iss) (d : BitVec 7) (j : Nat) : HomeSrc :=
  if i.full then .none
  else match i.proxy d j with
    | some (h0, k0) => .slot h0 k0
    | none => i.valsOf d j

/-- New proxies at a home for the elements of a destination (R133, R134, R136): every operation is sent before a reference of the
destination is released. -/
def State.makeAt (s : State) (i : Iss) (home : Nat) (d : BitVec 7) (outs : List Nat) (a b c : Opd) (pick : Nat → HomeFn) :
    State :=
  let n := (lanesOf i.wr i.g.grant).length
  let cost := ([a, b, c].map fun o => o.cost i home n) ++ outs.map (i.restCost home d)
  let sel := match pick 0 with | .sel _ => 8 | _ => 0
  let s := (s.count i.loc 4 0 1).pxBytes i (16 + sel + (cost.map Prod.fst).sum) 0 (cost.map Prod.snd).sum
  let (hs, s) := outs.foldl (fun (acc : List (Nat × Nat) × State) j =>
    let (h, s) := acc.2.takeHandle i home
    (acc.1 ++ [(j, h)], s.send i home (.make h (pick j) (a.sent i) (b.sent i) (c.sent i) (i.priorAt d j) i.wr))) ([], s)
  hs.foldl (fun s q => s.bindProxy i d q.1 home q.2) s

/-- MOV of a proxy with all lanes written: the destination shares its slot, and a reference that it held is released on its own
(R134, R137, R138). -/
def State.shareSlot (s : State) (i : Iss) (d : BitVec 7) (j home h : Nat) : State :=
  let s := s.send i home (.ref h)
  let s := s.modIss i fun g => g.setReg (g.win.toNat * 32 + d.toNat + j) (.px home h)
  match i.proxy d j with
  | some (h0, k0) => s.releaseAlone i.loc i.g.core i.g.ctx i.g.gslot h0 k0
  | none => s

/-- An instruction that accepts proxies (R78, R133): performed in the core on values, at the result home otherwise. `outs`
are the destination's elements and `pick` the function of each. -/
def State.alu (s : State) (i : Iss) (d : BitVec 7) (outs : List Nat) (a b c : Opd) (pick : Nat → HomeFn) : Act :=
  match [a, b, c].findSome? fun o => (o.px i).map Prod.fst with
  | none => s.writeRegs i (outs.map fun j => ⟨d, j, i.wr, fun l => (pick j).eval l (a.val i l) (b.val i l) (c.val i l)⟩)
  | some home =>
    if 96 ≤ d.toNat ∧ d.toNat < 120 then .fault { code := 0x07 }
    else if d.toNat = 120 then .done s
    else
      match s.shortOf i home outs.length with
      | some f =>
        if s.fallback i then (s.count i.loc 4 7 1).fallbackAlu i d outs a b c pick else .fault f
      | none => .done (s.makeAt i home d outs a b c pick)

/-- Whether an active lane of some proxy is poisoned (R148); the core's operations are performed first where any poison exists. -/
def State.probe (s : State) (i : Iss) (ps : List (Nat × Nat)) : Bool × State :=
  let clean := fun (o : HomeOp) => (o.kind.needs o.home).all fun x => match x with | .came _ p => p == 0 | _ => true
  if s.poison.isEmpty && s.slots.all (fun k => k.poison == 0) && s.homeq.all clean then (false, s)
  else
    let s := s.drainHomes i.g.core
    (ps.any fun q => ((s.slotLanes i q.1 q.2).2 &&& i.act) != 0, s)

/-- A compare (R89, R133, R135): in the core on values; at the home of the first proxy source otherwise. -/
def State.compare (s : State) (i : Iss) (kind f p : Nat) (a b : Opd) : Act :=
  match [a, b].findSome? fun o => (o.px i).map Prod.fst with
  | none =>
    .done (s.modIss i fun g => g.putPred i.wr p (i.bits fun l => condOf kind f (a.val i l) (b.val i l)))
  | some home =>
    let (bad, s) := s.probe i ([a, b].filterMap fun o => o.px i)
    if bad then .fault { code := 0x2F }
    else
      let n := (lanesOf i.wr i.g.grant).length
      let cost := [a, b].map fun o => o.cost i home n
      let s := (s.count i.loc 4 0 1).pxBytes i (16 + (cost.map Prod.fst).sum) 8 (cost.map Prod.snd).sum
      let s := s.send i home (.compare f kind (a.sent i) (b.sent i) i.wr i.g.part i.g.slot p)
      .done (s.modIss i fun g => { g with sb := g.sb ++ [(predKey p, .homePred)] })

end Sys2Proof.Machine
end

