-- ==== Sys2Proof/Machine/Operands.lean ====
section
/-! DEFINITION. Operand forms: immediates with and without XI (R33), and the shapes of lane-wise instructions. -/

namespace Sys2Proof.Machine

/-- The integer immediate of a form-I word (R33). -/
def immI (x : Option (BitVec 23)) (i : BitVec 7) : Word :=
  match x with
  | none => i.signExtend 32
  | some x => (x ++ i).signExtend 32

/-- The FP32 immediate of a form-Ir word (R33). -/
def immF (x : Option (BitVec 23)) (i : BitVec 7) : Word :=
  match x with
  | none => BitVec.ofNat 32 (Fmt.f32.ofNum 0 false (Num.ofInt i.toInt))
  | some x => x ++ i ++ (0 : BitVec 2)

/-- The offset of a form-M word, in units of the access size (R33). -/
def immM (x : Option (BitVec 23)) (o : BitVec 7) : Int :=
  match x with
  | none => o.toInt
  | some x => (x ++ o).toInt

/-- The immediate of MOVI as a 64-bit value (R33). -/
def immL (x : Option (BitVec 23)) (i : BitVec 14) : Addr :=
  match x with
  | none => i.signExtend 64
  | some x => (x ++ i).signExtend 64

/-- Register j of a wide operand as a field: the constants 120 and 126 repeat (R25). -/
def fieldAdd (f : BitVec 7) (j : Nat) : BitVec 7 := if f.toNat < 120 then f + BitVec.ofNat 7 j else f

/-- A second source: a register, or the immediate of form I. -/
inductive Src2 where
  | reg (f : BitVec 7)
  | int (i : BitVec 7)
  | fp (i : BitVec 7)

/-- The operand a second source gives. -/
def Src2.opd (b : Src2) (i : Iss) : Opd :=
  match b with
  | .reg f => .reg f
  | .int k => .imm (immI i.x k)
  | .fp k => .imm (immF i.x k)

/-- The register fields of a second source. -/
def Src2.uses (b : Src2) (n : Nat) : List (BitVec 7 × Nat) := match b with | .reg f => [(f, n)] | _ => []
/-- Whether a second source is an immediate, which accepts XI (R44). -/
def Src2.xi (b : Src2) : Bool := match b with | .reg _ => false | _ => true

/-- The 64 bits that a second source gives: a pair, or the immediate extended in sign (R33, R81). -/
def Src2.pair (b : Src2) (i : Iss) (l : Nat) : Addr :=
  match b with
  | .reg f => i.rd2 f l
  | .int k => (immI i.x k).signExtend 64
  | .fp k => (immF i.x k).signExtend 64

/-- One result a lane from a and b (R76). -/
def lane2 (s : State) (d a : BitVec 7) (b : Src2) (f : Word → Word → Word) : Host.Outcome State Fault Refusal :=
  issue s { reads := (a, 1) :: b.uses 1, writes := [(d, 1)], xi := b.xi } noTarget fun s i =>
    s.writeOne i d fun l => f (i.rd a 0 l) ((b.opd i).val i l)

/-- One result a lane from a, b and the prior destination (R76). -/
def lane3 (s : State) (d a : BitVec 7) (b : Src2) (f : Word → Word → Word → Word) : Host.Outcome State Fault Refusal :=
  issue s { reads := (a, 1) :: b.uses 1 ++ [(d, 1)], dsrc := true, writes := [(d, 1)], xi := b.xi } noTarget fun s i =>
    s.writeOne i d fun l => f (i.rd a 0 l) ((b.opd i).val i l) (i.rd d 0 l)

/-- One result a lane from a (R76). -/
def lane1 (s : State) (d a : BitVec 7) (f : Word → Word) : Host.Outcome State Fault Refusal :=
  issue s { reads := [(a, 1)], writes := [(d, 1)] } noTarget fun s i => s.writeOne i d fun l => f (i.rd a 0 l)

/-- An instruction that accepts proxies, from a and b (R78). -/
def alu2 (s : State) (d a : BitVec 7) (b : Src2) (fn : HomeFn) : Host.Outcome State Fault Refusal :=
  issue s { reads := (a, 1) :: b.uses 1, writes := [(d, 1)], px := true, toPx := true, xi := b.xi } noTarget fun s i =>
    s.alu i d [0] (.reg a) (b.opd i) .nil fun _ => fn

/-- An instruction that accepts proxies, from a, b and the prior destination (R78). -/
def alu3 (s : State) (d a : BitVec 7) (b : Src2) (fn : HomeFn) : Host.Outcome State Fault Refusal :=
  issue s { reads := (a, 1) :: b.uses 1 ++ [(d, 1)], dsrc := true, writes := [(d, 1)], px := true, toPx := true, xi := b.xi } noTarget fun s i =>
    s.alu i d [0] (.reg a) (b.opd i) (.reg d) fun _ => fn

/-- A 64-bit result a lane on pairs (R81). -/
def pair2 (s : State) (d a : BitVec 7) (b : Src2) (f : Addr → Addr → Addr) : Host.Outcome State Fault Refusal :=
  issue s { reads := (a, 2) :: b.uses 2, writes := [(d, 2)], xi := b.xi } noTarget fun s i =>
    s.writePair i d i.wr fun l => f (i.rd2 a l) (b.pair i l)

/-- What comes of doing one thing after another: the first park or fault ends it. -/
def Act.andThen (a : Act) (k : State → Act) : Act := match a with | .done s => k s | x => x

end Sys2Proof.Machine
end

