-- ==== Sys2Proof/Machine/Cache.lean ====
section
/-! DEFINITION. Translation caches, the L1 data cache, write-combining buffers and the L2 traffic of a core
(R156 to R168, R188, R213 to R219, R225, R289, R290). -/

namespace Sys2Proof.Machine

/-- Whether a cached translation serves an address of a context. -/
def TlbEntry.hits (t : TlbEntry) (ctx va : Nat) : Bool :=
  t.ctx == ctx && decide (t.leaf.va ≤ va) && decide (va < t.leaf.va + t.leaf.size)

/-- An entry put first in a cache of a size; a full cache loses an entry of the core's choice. -/
def fillTlb (n : Nat) (l : List TlbEntry) (t : TlbEntry) (victim : Nat) : List TlbEntry :=
  if l.length < n then t :: l else t :: l.eraseIdx (victim % n)

/-- A leaf put in a lane page register, and in the entries of the core's TLB and of its tile's that serve the same page: their copy
of the accessed bit is that of the table (R289, R290). -/
def State.keepLeaf (s : State) (core part lane ctx : Nat) (l : Leaf) : State :=
  let new := fun (t : TlbEntry) => if t.hits ctx l.va then { t with leaf := l } else t
  let s := s.modTile (tileOf core) fun t => { t with tlb := t.tlb.map new }
  s.modCore core fun k => { k with
    tlb := k.tlb.map new
    lpr := ((part, lane), ⟨ctx, l⟩) :: k.lpr.filter fun (e : (Nat × Nat) × TlbEntry) => e.1 != (part, lane) }

/-- A translation through the lane page register, the core TLB, the tile TLB and a walk (R289, R290). -/
def State.translate (s : State) (i : Iss) (lane va : Nat) (acc : Acc) : Tr × State :=
  let c := i.g.core
  let ctx := i.g.ctx
  let part := s.partOf i.tile
  let k := s.coreAt c
  let done := fun (l : Leaf) (s : State) =>
    let (r, s) := s.useLeaf i.loc part l va acc
    let l' : Leaf := match r with | .bad 0x26 _ _ => l | _ => { l with word := l.word ||| 0x80 }
    (r, s.keepLeaf c i.g.part lane ctx l')
  match (k.lpr.find? fun e => e.1 == (i.g.part, lane) && e.2.hits ctx va) with
  | some e => done e.2.leaf (s.count i.loc 8 0 1)
  | none =>
    match k.tlb.find? fun t => t.hits ctx va with
    | some t => done t.leaf s
    | none =>
      let s := s.count i.loc 8 1 1
      match (s.tileAt i.tile).tlb.find? fun t => t.hits ctx va with
      | some t => done t.leaf (s.modCore c fun k => { k with tlb := fillTlb 1024 k.tlb t (Config.freeValue s.free).toNat })
      | none =>
        let s := s.count i.loc 8 2 1
        match s.ctxAt ctx with
        | none => (.bad 0x26 0 65536, s)
        | some x =>
          match s.walk i.tloc part va x.root with
          | (.bad a b _ n, s) => (.bad a b n, s)
          | (.leaf l, s) =>
            let v := (Config.freeValue s.free).toNat
            let s := s.modCore c fun k => { k with tlb := fillTlb 1024 k.tlb ⟨ctx, l⟩ v }
            done l (s.modTile i.tile fun t => { t with tlb := fillTlb 8192 t.tlb ⟨ctx, l⟩ v })

/-- The L1 set of an address: 512 lines of 1,024 bytes in 8 ways (R18; log 64). -/
def l1Set (pa : Nat) : Nat := pa / 1024 % 64

/-- The lines that the L1 of a core holds in the set of an address. -/
def Core.setLines (k : Core) (pa : Nat) : List Nat :=
  dedup ((k.l1.filter fun x => l1Set x.pa == l1Set pa).map fun x => x.pa / 1024)

/-- Room for the line of an address in its set: when 8 other lines stand there one, of the core's choice, is evicted (R18, R213). -/
def State.roomL1 (s : State) (c pa : Nat) : State :=
  let ls := (s.coreAt c).setLines pa
  if ls.contains (pa / 1024) ∨ ls.length < 8 then s
  else
    let (k, s) := s.choose ls.length
    let q := fun (x : Sector) => x.pa / 1024 == ls.getD k 0
    (s.cleanL1 c q).dropL1 c q

/-- A new L1 sector, filled from its L2 slice once the core's own writes to it have been performed (R214, R305). -/
def State.allocL1 (s : State) (w : Where) (c ctx pa : Nat) : State :=
  let base := pa / 128 * 128
  let s := s.drainFlight fun w => w.core == c && !w.link && meets w.addr w.bytes.length base 128
  let s := s.roomL1 c pa
  let bad := s.poisoned base
  let s := s.l2 w base 128 false
  s.modCore c fun k => { k with
    l1 := k.l1 ++ [⟨base, ctx, false, 0, 0, rdBytes s.mem base 128, bad⟩] }

/-- Bytes over which the buffered stores of a core lie: those in flight and those in its write-combining buffers (R214, R225). -/
def State.overlay (s : State) (c : Nat) (link : Bool) (vf a : Nat) (bs : List Byte) : List Byte :=
  bs.mapIdx fun k b =>
    let fl := s.inflight.foldl (fun b w =>
      if w.core = c ∧ w.link = link ∧ (!link ∨ w.vf = vf) ∧ w.addr ≤ a + k ∧ a + k < w.addr + w.bytes.length then
        w.bytes.getD (a + k - w.addr) b else b) b
    (s.coreAt c).wc.foldl (fun b w =>
      if w.link = link ∧ (!link ∨ w.vf = vf) ∧ w.addr ≤ a + k ∧ a + k < w.addr + 128 ∧ w.mask.getLsbD (a + k - w.addr) then
        w.data.getD (a + k - w.addr) b else b) fl

/-- Reads bytes of global memory or of a name through the L1 (R167, R186); says whether they are poisoned (R342). `ccls` is the
caching class of the page. -/
def State.readL1 (s : State) (i : Iss) (pa n : Nat) (alloc : Bool) (ccls : Nat) : (List Byte × Bool) × State :=
  let c := i.g.core
  let seen := fun (s : State) (bs : List Byte) => s.overlay c false 0 pa bs
  match s.sector c pa with
  | some x => ((seen s ((x.data.drop (pa % 128)).take n), x.poison), s.count i.loc 2 0 1)
  | none =>
    let s := s.count i.loc 2 1 1
    let bad := s.poisoned pa
    let s := if alloc && ccls == 0 then s.allocL1 i.loc c i.g.ctx pa else s.l2 i.loc pa n false (ccls != 2)
    ((seen s (rdBytes s.mem pa n), bad), s)

/-- Bytes in a valid L1 sector updated in place, dirty bit and mask unchanged (R167). -/
def State.updateL1 (s : State) (c pa : Nat) (bs : List Byte) : State :=
  s.modSector c pa fun x => { x with data := patchBytes x.data pa bs }

/-- How a store reaches memory (R167). -/
inductive StoreKind where
  | narrow
  | wide
  | nt
  | wc
  deriving DecidableEq, Repr

/-- Room among the 32 write-combining buffers of a core: a full set gives up one of its choice (R188). -/
def State.roomWc (s : State) (c : Nat) : State :=
  if (s.coreAt c).wc.length < 32 then s
  else
    let (k, s) := s.choose 32
    match (s.coreAt c).wc[k]? with
    | some v => s.drainWc c fun w => w == v
    | none => s

/-- Whether a buffer holds some of n bytes from an address on. -/
def WcBuf.holds (w : WcBuf) (link : Bool) (vf a n : Nat) : Bool :=
  w.link == link && (!link || w.vf == vf) && (maskBytes w.mask).any fun k => decide (a ≤ w.addr + k) && decide (w.addr + k < a + n)

/-- Bytes collected into the write-combining buffer of their line, which is written out when it is full; what another context has
buffered of them is written out before (R188, R214). -/
def State.storeWc (s : State) (i : Iss) (tid a : Nat) (link : Bool) (bs : List Byte) (alloc : Bool := true) : State :=
  let c := i.g.core
  let base := a / 128 * 128
  let cyc := (s.coreAt c).cyc
  let same := fun (w : WcBuf) => w.addr == base && w.link == link && w.vf == i.vf && w.ctx == i.g.ctx
  let add := fun (w : WcBuf) => { w with
    alloc := alloc, mask := w.mask ||| byteMask a bs.length, cyc := cyc, data := patchBytes w.data a bs,
    threads := if w.threads.contains tid then w.threads else w.threads ++ [tid] }
  let s := s.drainWc c fun w => !same w && w.holds link i.vf a bs.length
  let s := if (s.coreAt c).wc.any same then s
    else (s.roomWc c).modCore c fun k => { k with
      wc := k.wc ++ [⟨base, link, alloc, i.vf, i.g.ctx, [], 0, List.replicate 128 0, cyc⟩] }
  let s := s.modCore c fun k => { k with wc := k.wc.map fun (w : WcBuf) => if same w then add w else w }
  s.drainWc c fun w => same w && w.mask == BitVec.allOnes 128

/-- What a core has buffered of some bytes in its write-combining buffers written out before a later store to them, and what it has in
flight of them performed before a later store in its L1; a later link store of a thread also comes after what the thread has buffered
for the link (R214, R226; log 65). -/
def State.settleBytes (s : State) (i : Iss) (tid : Nat) (link : Bool) (a n : Nat) (kind : StoreKind) : State :=
  if kind = .wc then s
  else
    let s := s.drainWc i.g.core fun w => w.holds link i.vf a n || (link && w.link && w.threads.contains tid)
    if kind = .nt ∨ link then s
    else s.drainFlight fun w => w.core == i.g.core && !w.link && meets w.addr w.bytes.length a n

/-- Whether a context runs in fence-strengthening mode (R229). -/
def State.mm0 (s : State) (ctx : Nat) : Bool := match s.ctxAt ctx with | some x => x.mm0 | none => false

/-- Bytes written into a sector by its core: they are in its mask, and owed to the L2 slice until they are written back; a sector whose
every byte has been written is poisoned no more (R167, R341). -/
def State.writeSector (s : State) (c pa : Nat) (bs : List Byte) : State :=
  s.modSector c pa fun x =>
    let mask := x.mask ||| byteMask pa bs.length
    { x with data := patchBytes x.data pa bs, mask := mask, owed := x.owed ||| byteMask pa bs.length
             poison := x.poison && mask != BitVec.allOnes 128 }

/-- Bytes written by a core straight to their L2 slice, its valid sector updated in place (R167). -/
def State.storeSlice (s : State) (w : Where) (c pa : Nat) (bs : List Byte) (alloc : Bool) : State :=
  let base := pa / 128 * 128
  let m := byteMask pa bs.length
  ((s.writeMasked w c base m (patchBytes (List.replicate 128 0) pa bs) false alloc).updateL1 c pa bs).paid c base m

/-- How a store is handled: one of a word that has waited for a read-duplicated page is performed at its L2 slice (R227), and a plain one in
fence-strengthening mode is wide (R229). -/
def State.kindOf (s : State) (i : Iss) (kind : StoreKind) (name : Bool) : StoreKind :=
  if i.g.through || (s.mm0 i.g.ctx && !name && kind == .narrow) then .wide else kind

/-- A store looks for its sector in the L1 (R305). -/
def State.lookL1 (s : State) (i : Iss) (pa : Nat) : State := s.count i.loc 2 (if (s.sector i.g.core pa).isSome then 0 else 1) 1

/-- Stores bytes to global memory or to a name (R167, R188). -/
def State.storeL1 (s : State) (i : Iss) (tid pa : Nat) (bs : List Byte) (kind : StoreKind) (ccls : Nat) : State :=
  let c := i.g.core
  match kind with
  | .nt =>
    let s := (s.lookL1 i pa).updateL1 c pa bs
    { s with inflight := s.inflight ++ [⟨pa, false, i.vf, i.g.ctx, c, tid, true, ccls != 2, bs⟩] }
  | .wc => s.storeWc i tid pa false bs (ccls != 2)
  | .narrow | .wide =>
    let s := s.lookL1 i pa
    if ccls ≠ 0 then s.storeSlice i.loc c pa bs (ccls != 2)
    else
      let s := if (s.sector c pa).isSome then s else s.allocL1 i.loc c i.g.ctx pa
      let s := s.writeSector c pa bs
      if kind = .narrow then s.modSector c pa fun x => { x with wide := false }
      else
        let s := match s.sector c pa with
          | some x => s.writeMasked i.loc c x.pa x.owed x.data x.poison true
          | none => s
        s.modSector c pa fun x => { x with owed := 0, wide := true }

/-- STPs and LDPs of the core still on their way are performed before an access to memory that could meet them (R152, R214). -/
def State.settleStp (s : State) (core : Nat) : State :=
  if s.homeq.any fun o => o.core == core && (match o.kind with | .store _ _ _ | .load _ _ _ _ => true | _ => false) then
    s.drainHomes core
  else s

/-- The scope at which a context's fences, acquires and releases act (R229). -/
def State.scopeOf (s : State) (ctx scope : Nat) : Nat := if s.mm0 ctx && decide (scope < 3) then 3 else scope

/-- The effect of a release or a fence of kind .rel at a scope (R168, R195, R216, R222, R225, R229): every dirty narrow sector of the core,
whose bytes contexts that share a frame may have written (log 63). -/
def State.releaseAt (s : State) (i : Iss) (scope : Nat) : State :=
  let scope := s.scopeOf i.g.ctx scope
  let mine := fun t => i.lanes.any fun l => i.tid l == t
  let s := s.drainHomes i.g.core
  let s := s.drainFlight fun w => w.core == i.g.core && mine w.thread && (!w.weak || scope == 4)
  let s := if scope = 4 then s.drainWc i.g.core fun w => w.threads.any mine else s
  if 2 ≤ scope then s.cleanL1 i.g.core fun x => !x.wide else s

/-- A sector with every byte that its core does not owe as the L2 slice holds it now: none of its bytes is stale (R168, R217; log 66). -/
def State.renewed (s : State) (x : Sector) : Sector :=
  { x with data := mergeBytes x.data (rdBytes s.mem x.pa 128) (~~~x.owed)
           poison := x.poison || (s.poisoned x.pa && x.owed != BitVec.allOnes 128) }

/-- The effect on a core's L1 of an acquire of a context at a scope (R168, R217, R229): sectors with a full mask stay valid, and the
others are written back and dropped. It reaches every sector of the core, since contexts that share a frame share its sectors (log 63). -/
def State.acquireCore (s : State) (core ctx scope : Nat) : State :=
  if 2 ≤ s.scopeOf ctx scope then
    let p := fun (x : Sector) => x.mask != BitVec.allOnes 128
    let s := (s.cleanL1 core p).dropL1 core p
    let own := (s.coreAt core).l1
    let s := s.drainFlight fun w => w.core == core && !w.link && own.any fun x => meets w.addr w.bytes.length x.pa 128
    s.modCore core fun k => { k with l1 := k.l1.map s.renewed }
  else s

/-- The effect of an acquire or a fence of kind .acq at a scope (R168, R229). -/
def State.acquireAt (s : State) (i : Iss) (scope : Nat) : State := s.acquireCore i.g.core i.g.ctx scope

/-- The dirty narrow sectors of the issuing core written back by a fence of any kind at scope .clu or wider (R213). -/
def State.fenceNarrow (s : State) (i : Iss) (scope : Nat) : State :=
  if 2 ≤ s.scopeOf i.g.ctx scope then s.cleanL1 i.g.core fun x => !x.wide else s

/-- One STN's name returns: its pair and its predicate, written at issue, are no longer pending (R206). -/
def State.landName (s : State) (core : Nat) (n : StnPend) : State :=
  s.modGroup core n.part n.slot fun g =>
    if g.block = n.block then
      { g with sb := g.sb.filter fun e => !(e.2 == .name && (e.1 == n.d || e.1 == n.d + 1 || e.1 == predKey n.p)) }
    else g

/-- The STNs of a core that satisfy a test return their names (R195, R207). -/
def State.returnNames (s : State) (core : Nat) (p : StnPend → Bool) : State :=
  let ns := (s.coreAt core).stns.filter p
  ns.foldl (fun s n => s.landName core n) (s.modCore core fun k => { k with stns := k.stns.filter fun n => !p n })

/-- A release with the waits of R195: names returned too. -/
def State.release_ (s : State) (i : Iss) (scope : Nat) : State :=
  (s.returnNames i.g.core fun n => n.part == i.g.part && n.slot == i.g.slot).releaseAt i scope

end Sys2Proof.Machine
end

