-- ==== Sys2Proof/Machine/CopyTile.lean ====
section
/-! DEFINITION. Copy requests: the geometry of a tile, and the request engine's accesses to memory (R165, R171, R172, R199 to R204). -/

namespace Sys2Proof.Machine

/-- The elements of a dimension's extent (R199). -/
def CopyReq.e (r : CopyReq) (k : Nat) : Nat := r.ext.getD k 1

/-- The gathered dimension (R201). -/
def CopyReq.gdim (r : CopyReq) : Nat := ([3, 2, 1].find? fun k => decide (1 < r.e k)).getD 0

/-- Rows of a tile (R200). -/
def CopyReq.rows (r : CopyReq) : Nat := r.e 1 * r.e 2 * r.e 3

/-- Whether the destination is C8 or C16. -/
def CopyReq.c8 (r : CopyReq) : Bool := decide (3 ≤ r.fmt) && decide (r.fmt < 7)

/-- The scratchpad byte ranges of a tile: data, and for C8 the scales (R200). -/
def CopyReq.parts (r : CopyReq) : List (Nat × Nat) :=
  let n := r.rows * r.e 0
  if r.c8 then [(r.scr, n), (r.scr + (n + 127) / 128 * 128, n / 16)]
  else if r.fmt < 3 then [(r.scr, n * 2 ^ r.fmt)] else [(r.scr, 2 * n)]

/-- The scratchpad lines of a tile. -/
def CopyReq.lines (r : CopyReq) : List Nat :=
  dedup (r.parts.map fun p => (List.range ((p.1 + p.2 + 127) / 128 - p.1 / 128)).map fun k => p.1 / 128 + k).flatten

/-- The byte ranges of a tile in a line. -/
def CopyReq.inLines (r : CopyReq) (line : Nat) : List (Nat × Nat) :=
  (r.parts.map fun p => (max p.1 (128 * line), min (p.1 + p.2) (128 * line + 128) - max p.1 (128 * line))).filter
    fun p => decide (0 < p.2)

/-- The tile bytes in a line. -/
def CopyReq.inLine (r : CopyReq) (line : Nat) : Nat := ((r.inLines line).map Prod.snd).sum

/-- The element size of a storage format in bytes (R200). -/
def fmtBytes (f : Nat) : Nat := match f with | 1 => 2 | 2 => 4 | 6 => 2 | 9 => 2 | _ => 1

/-- The coordinates of a tile element (R201). -/
def CopyReq.coords (r : CopyReq) (j : List Nat) : List Int :=
  (List.range 4).map fun k =>
    if r.gat ∧ k = r.gdim then r.glist.getD (j.getD k 0) 0 else r.org.getD k 0 + j.getD k 0

/-- Whether coordinates are in bounds (R201). -/
def CopyReq.inside (r : CopyReq) (c : List Int) : Bool :=
  (List.range 4).all fun k => decide (0 ≤ c.getD k 0) && decide (c.getD k 0 < r.bnd.getD k 0)

/-- The sum of a coordinate's strides, dimension 0 counting `unit` (R201). -/
def CopyReq.linear (r : CopyReq) (c : List Int) (unit : Int) : Int :=
  c.getD 0 0 * unit + c.getD 1 0 * r.str.getD 1 0 + c.getD 2 0 * r.str.getD 2 0 + c.getD 3 0 * r.str.getD 3 0

/-- The indices of the element k of a row (R200). -/
def CopyReq.index (r : CopyReq) (row k : Nat) : List Nat := [k, row % r.e 1, row / r.e 1 % r.e 2, row / r.e 1 / r.e 2]

/-- The elements of an outward request's source that lie in a line, by their number in the tile. -/
def CopyReq.elemsIn (r : CopyReq) (line : Nat) : List Nat :=
  let w := 2 ^ r.fmt
  let first := (128 * line - r.scr) / w
  (List.range (128 / w)).filterMap fun k => if first + k < r.rows * r.e 0 then some (first + k) else none

/-- Where a core's copy events are counted. -/
def CopyReq.loc (r : CopyReq) (s : State) (core : Nat) : Where :=
  s.whereOf core r.ctx (match s.blockAt r.block with
    | some b => (match s.launchAt b.launch with | some l => l.seq | none => 0)
    | none => 0)

/-- An access of n bytes split where it crosses from one 128-byte sector into the next: offsets and lengths. -/
def pieces (a n : Nat) : List (Nat × Nat) :=
  if a % 128 + n ≤ 128 then [(0, n)] else [(0, 128 - a % 128), (128 - a % 128, n - (128 - a % 128))]

/-- An access to a column at its homes: past the L1 and the L2 (R165, R295, R305). -/
def State.colAccess (s : State) (w : Where) (pa n : Nat) (wr : Bool) : State :=
  ((s.touch pa).addTraffic w n).count { w with tile := true, idx := pa / 2 ^ 36 } 3 (if wr then 1 else 0) n

/-- What a copy engine's access of some bytes gives. -/
inductive CopyRes where
  | ok (bytes : List Byte) (poison : Bool)
  | bad (f : Flt)

/-- The engine's read of bytes of one sector at the line's L2 slice, the core's dirty sectors of the line written back first (R204),
or of column memory at its homes (R165). -/
def State.copyReadIn (s : State) (core : Nat) (r : CopyReq) (a : Addr) (n : Nat) : CopyRes × State :=
  let w := r.loc s core
  if bitsOf a 63 56 = 0xC4 then
    let off := bitsOf a 55 0
    match s.blockAt r.block with
    | none => (.bad { code := 0x24, addr := a }, s)
    | some b =>
      if off < 0x100000 ∨ 0x100000 + b.colSize < off + n then (.bad { code := 0x24, addr := a }, s)
      else
        let pa := colPa core (b.colBase + (off - 0x100000))
        (.ok (rdBytes s.mem pa n) (s.colBad core (b.colBase + (off - 0x100000)) n), s.colAccess w pa n false)
  else
    match s.reach (tileOf core) r.ctx a .read with
    | (.bad c cause _, s) => (.bad { code := c, addr := a, cause := cause }, s)
    | (.ok pa l, s) =>
      if l.getLsbD 58 then
        let (r, s) := s.hostRead w.vf pa n
        (.ok r.1 r.2, s.hostBytes w (tileOf core) n false)
      else
        let s := s.cleanL1 core fun x => x.pa / 1024 == pa / 1024
        let s := s.drainFlight fun v => v.core == core && !v.link && meets v.addr v.bytes.length pa n
        (.ok (rdBytes s.mem pa n) (s.poisoned pa), s.l2 w pa n false (bitsOf l 61 60 != 2))

/-- The engine's read of bytes of memory, sector by sector (R171, R204). -/
def State.copyRead (s : State) (core : Nat) (r : CopyReq) (a : Addr) (n : Nat) : CopyRes × State :=
  (pieces a.toNat n).foldl (fun (acc : CopyRes × State) p =>
    match acc.1 with
    | .bad f => (.bad f, acc.2)
    | .ok bs bad =>
      match acc.2.copyReadIn core r (a + BitVec.ofNat 64 p.1) p.2 with
      | (.ok cs b, s) => (.ok (bs ++ cs) (bad || b), s)
      | (.bad f, s) => (.bad f, s)) (.ok [] false, s)

/-- The engine's write of bytes of one sector at its L2 slice, the core's L1 copies of the line invalidated (R204, R342). -/
def State.copyWriteIn (s : State) (core : Nat) (r : CopyReq) (a : Addr) (bs : List Byte) (poison : Bool) : Option Flt × State :=
  let w := r.loc s core
  match s.reach (tileOf core) r.ctx a .write with
  | (.bad c cause _, s) => (some { code := c, addr := a, cause := cause }, s)
  | (.ok pa l, s) =>
    if l.getLsbD 58 then (none, s.performNow ⟨pa, true, w.vf, r.ctx, core, 0, false, true, bs⟩)
    else
      let q := fun (x : Sector) => x.pa / 1024 == pa / 1024
      let s := (s.cleanL1 core q).dropL1 core q
      (none, s.writeMasked w core (pa / 128 * 128) (byteMask pa bs.length) (patchBytes (List.replicate 128 0) pa bs) poison
        (bitsOf l 61 60 != 2))

/-- The engine's write of bytes of memory, sector by sector (R171, R204). -/
def State.copyWrite (s : State) (core : Nat) (r : CopyReq) (a : Addr) (bs : List Byte) (poison : Bool) : Option Flt × State :=
  (pieces a.toNat bs.length).foldl (fun (acc : Option Flt × State) p =>
    match acc.1 with
    | some f => (some f, acc.2)
    | none => acc.2.copyWriteIn core r (a + BitVec.ofNat 64 p.1) ((bs.drop p.1).take p.2) poison) (none, s)

/-- The generic address of an element of an outward request, when it is in bounds (R201). -/
def CopyReq.target (r : CopyReq) (e : Nat) : Option Addr :=
  let c := r.coords (r.index (e / r.e 0) (e % r.e 0))
  if r.inside c then some (r.mem + BitVec.ofInt 64 (r.linear c (2 ^ r.fmt : Nat))) else none

/-- How many elements or segments of a line a paused request has done, and how many bytes (R327). -/
def CopyReq.doneIn (r : CopyReq) (line : Nat) : Nat × Nat :=
  match r.part.find? fun p => p.1 == line with | some p => p.2 | none => (0, 0)

/-- A request that has paused in a line with some elements or segments of it, and bytes, done (R327). -/
def CopyReq.pauseIn (r : CopyReq) (line n bytes : Nat) : CopyReq :=
  { r with part := (line, n, bytes) :: r.part.filter fun p => p.1 != line }

/-- The bytes of a request that are still to come. -/
def CopyReq.rest (r : CopyReq) : Nat := (r.left.map fun l => r.inLine l - (r.doneIn l).2).sum

/-- Whether a group has written bytes of an element of an outward request since it was accepted (R204). -/
def CopyReq.spoiled (r : CopyReq) (e : Nat) : Bool :=
  r.spoilt.any fun p => meets p.1 p.2 (r.scr + 2 ^ r.fmt * e) (2 ^ r.fmt)

/-- Destination bytes of an outward request that are undefined because a group has written their source after they were sent (R204). -/
def State.spoilSent (s : State) (core : Nat) (r : CopyReq) (o n : Nat) : State :=
  let lines := r.lines.filter fun l => meets o n (128 * l) 128
  let sent := fun (l : Nat) => if r.left.contains l then (r.elemsIn l).take (r.doneIn l).1 else r.elemsIn l
  let es := ((lines.map sent).flatten).filter fun e => meets o n (r.scr + 2 ^ r.fmt * e) (2 ^ r.fmt)
  es.foldl (fun s e =>
    match r.target e with
    | some a => let (v, s) := s.fresh; (s.copyWrite core r a (leBytes (2 ^ r.fmt) v.toNat) false).2
    | none => s) s

end Sys2Proof.Machine
end

