-- ==== Sys2Proof/Machine/Mem.lean ====
section
/-! DEFINITION. Where addresses lead, the checks of a memory instruction, and the block's scratchpad
(R156 to R166, R173 to R177, R182 to R184, R110 to R112, R204). -/

namespace Sys2Proof.Machine

/-- Where an address leads. -/
inductive Place where
  | mem (pa : Nat) (leaf : Addr) (name : Bool)
  | link (bus : Nat)
  | priv (key : Nat)
  | scr (off : Nat)
  | col (off : Nat)
  deriving DecidableEq, Repr

/-- What the check of one lane's address gives (R184): a place; a non-recoverable fault; a recoverable one with its page. -/
inductive LaneChk where
  | ok (p : Place)
  | hard (f : Flt)
  | soft (code : Nat) (va : Addr) (page : Nat)

/-- The state and owner of a sector in the free-space map (R174). -/
def State.fsmAt (s : State) (pa : Nat) : BitVec 16 := tget 0 (s.tileAt (pa / 2 ^ 36)).fsm (pa % 2 ^ 36 / 128)

/-- The check of a name's sector (R177): bit 12 of the stored entry marks a sector free again after a RELQ. -/
def State.nameCheck (s : State) (ctx part : Nat) (n : Nat) : Option Nat :=
  let st := n / 2 ^ 51 % 32
  if n / 1024 % 2 ^ 15 ≠ 0 ∨ 20 ≤ st ∨ s.partOf st ≠ part then some 0x2D
  else
    let e := s.fsmAt (namePa n)
    let own := bitsOf e 11 0 == ctx
    match bitsOf e 15 14 with
    | 2 => if own then none else some 0x2D
    | 3 => some 0x2E
    | 1 => if own && e.getLsbD 12 then some 0x2E else some 0x2D
    | _ => some 0x2D

/-- The check of a scratchpad or column offset (R161, R165, R189). -/
def scrPlace (b : Block) (off n : Nat) : Option Place :=
  if off < 0x100000 then (if off + n ≤ b.scrSize then some (.scr off) else none)
  else if off + n ≤ 0x100000 + b.colSize then some (.col (off - 0x100000)) else none

/-- The check of a lane's generic address, in the order of R184. -/
def State.checkAddr (s : State) (i : Iss) (l : Nat) (a : Addr) (n align : Nat) (acc : Acc) : LaneChk × State :=
  let top := bitsOf a 63 56
  let off := bitsOf a 55 0
  let mis := a.toNat % align ≠ 0
  if top = 0xC3 then
    if mis then (.hard { code := 0x25, addr := a }, s)
    else
      let fr := off + n ≤ i.b.privSize + 128 ∧ (i.g.threadAt l).trapfp ≠ 0
      if off + n ≤ i.b.privSize ∨ fr then (.ok (.priv (privAddr (i.thread l) off)), s)
      else (.hard { code := 0x23, addr := a }, s)
  else if top = 0xC4 then
    if mis then (.hard { code := 0x25, addr := a }, s)
    else
      match (if 2 ^ 33 ≤ off then none else scrPlace i.b off n) with
      | some p => (.ok p, s)
      | none => (.hard { code := 0x24, addr := a }, s)
  else if top = 0xC5 then
    if mis then (.hard { code := 0x25, addr := a }, s)
    else
      match s.nameCheck i.g.ctx (s.partOf i.tile) a.toNat with
      | some c => (.hard { code := c, addr := a }, s)
      | none => (.ok (.mem (namePa a.toNat) 0 true), s)
  else if a.toNat / 2 ^ 56 = 0 ∧ a.getLsbD 56 = false ∨ top = 0xFF ∧ a.getLsbD 56 = true then
    if a.toNat < 65536 then (.hard { code := 0x21, addr := a }, s)
    else if mis then (.hard { code := 0x25, addr := a }, s)
    else
      match s.translate i l (a.toNat % 2 ^ 57) acc with
      | (.ok pa w, s) => (.ok (if w.getLsbD 58 then .link pa else .mem pa w false), s)
      | (.bad 0x26 c _, s) => (.hard { code := 0x26, addr := a, cause := c }, s)
      | (.bad c _ sz, s) => (.soft c a (a.toNat / max sz 1 * max sz 1), s)
  else (.hard { code := 0x20, addr := a }, s)

/-- The fault-queue kind of a recoverable fault code (R325). -/
def softKind (code : Nat) : Nat := if code = 0x27 then 1 else if code = 0x28 then 2 else 3

/-- The checks of all active lanes (R184): places in lane order, or the fault or park that results. -/
inductive Checked where
  | ok (ps : List (Nat × Place)) (s : State)
  | fault (f : Flt)
  | soft (fs : List (Nat × Addr × Nat × Nat × Mask)) (s : State)

/-- Gathers lane results: the lowest-numbered hard fault wins; else the distinct pages of the soft ones (R184). -/
def gather (rs : List (Nat × LaneChk)) (wr : Bool) (s : State) : Checked :=
  match rs.findSome? fun r => match r.2 with | .hard f => some f | _ => none with
  | some f => .fault f
  | none =>
    let soft := rs.filterMap fun r => match r.2 with | .soft c a p => some (r.1, c, a, p) | _ => none
    match soft with
    | [] => .ok (rs.filterMap fun r => match r.2 with | .ok p => some (r.1, p) | _ => none) s
    | _ =>
      let pages := dedup (soft.map fun x => (x.2.1, x.2.2.2))
      .soft (pages.filterMap fun pg =>
        let xs := soft.filter fun x => x.2.1 == pg.1 && x.2.2.2 == pg.2
        match xs.head? with
        | some x => some (pg.1, x.2.2.1, softKind pg.1, if wr then 1 else 0, maskOf 64 fun l => xs.any fun y => y.1 == l)
        | none => none) s

/-- Checks every lane of a list with a checker. -/
def State.checkLanes (s : State) (lanes : List Nat) (wr : Bool) (chk : State → Nat → LaneChk × State) : Checked :=
  let (rs, s) := lanes.foldl (fun (p : List (Nat × LaneChk) × State) l =>
    let (r, s) := chk p.2 l
    (p.1 ++ [(l, r)], s)) ([], s)
  gather rs wr s

/-- The scratchpad lines that places touch. -/
def linesOf (ps : List (Nat × Place)) : List Nat :=
  ps.filterMap fun p => match p.2 with | .scr o => some (o / 128) | _ => none

/-- The absent lines among those touched (R163). -/
def Block.absentOf (b : Block) (ls : List Nat) : List Nat := (dedup ls).filter b.absent.contains

/-- Scratchpad granules poisoned in a range (R340, R342). -/
def Block.poisonedAt (b : Block) (o n : Nat) : Bool := b.spoison.any fun k => decide (8 * k < o + n) && decide (o < 8 * k + 8)

/-- The scratchpad byte ranges that a matrix operation reads (R113, R116): of each row of a C8 tile, WLOAD.t reads 96 elements. -/
def MatOp.ranges (o : MatOp) : List (Nat × Nat × Nat) :=
  match o.kind with
  | .wload t bf b d sc =>
    if bf then [(b, d, 6144)]
    else if t then ((List.range 128).map fun k => (b, d + 128 * k, 96)) ++ [(b, sc, 1024)]
    else [(b, d, 12288), (b, sc, 768)]
  | .wswap => []
  | .stream fn ps ob oc =>
    (ps.map fun p => if fn = 1 then [(p.block, p.data, 64 * p.rows)] else [(p.block, p.data, 128 * p.rows), (p.block, p.scale, 8 * p.rows)]).flatten
      ++ (match ps.head? with | some p => if oc = 0 then [] else [(p.block, ob, 4 * oc)] | none => [])

/-- The accumulator rows that an operation writes (R116). -/
def MatOp.outRows (o : MatOp) : List Nat :=
  match o.kind with
  | .stream _ ps _ _ => dedup ((ps.map fun p => (List.range p.rows).map fun k => p.row0 + k).flatten)
  | _ => []

/-- Accumulator rows of a partition that take undefined values (R112). -/
def State.freeRows (s : State) (c p x : Nat) (rows : List Nat) : State :=
  rows.foldl (fun s r =>
    let (vs, s) := s.freshes 96
    s.modMat c p x fun m => { m with
      acc := (List.range 96).foldl (fun a k => tset 0 a (96 * r + k) (vs.getD k 0)) m.acc }) s

/-- A write to bytes that queued or unwaited matrix operations read (R112): the rows of a streaming operation become undefined, and
the plane of a WLOAD with the rows of what has streamed from it; what streams from it later reads the undefined plane. -/
def State.spoil (s : State) (b o n : Nat) : State :=
  let hit := fun (q : MatOp) => q.ranges.any fun r => r.1 == b && meets r.2.1 r.2.2 o n
  let ms := s.mats.filter fun m => m.queue.any hit || m.done.any hit
  ms.foldl (fun s m =>
    let loads := (m.done.filter fun q => hit q && (match q.kind with | .wload _ _ _ _ _ => true | _ => false)).map MatOp.id
    let from_ := fun (k : Option Nat) => match k with | some k => loads.contains k | none => false
    let rows := ((m.done.filter fun q => hit q || from_ q.plane).map MatOp.outRows).flatten
    let plane := fun (p : Plane) => if from_ p.load then { p with undef := true } else p
    let s := s.modMat m.core m.part m.ctx fun m => { m with
      queue := m.queue.map fun (q : MatOp) => if hit q then { q with undef := true } else q
      active := plane m.active
      shadow := plane m.shadow }
    s.freeRows m.core m.part m.ctx (dedup rows)) s

/-- A request's object that something else has overwritten takes undefined values (R173). -/
def State.loseObject (s : State) (b o : Nat) : State :=
  let (vs, s) := s.freshes 2
  s.modBlock b fun x => { x with scratch := wrBytes x.scratch o (vs.map fun w => leBytes 4 w.toNat).flatten }

/-- The barrier objects of accepted requests that bytes of a block's scratchpad overwrite become undefined (R173). -/
def State.spoilObjects (s : State) (b o n : Nat) : State :=
  let hit := fun (r : CopyReq) => r.block == b && meets r.bobj 8 o n
  let objs := dedup ((s.cores.map fun k => (k.reqs.filter hit).map CopyReq.bobj).flatten)
  if objs.isEmpty then s
  else
    let s := objs.foldl (fun s x => s.loseObject b x) s
    { s with cores := s.cores.map fun (k : Core) => { k with
        reqs := k.reqs.map fun (r : CopyReq) => if hit r then { r with objBad := true } else r } }

/-- The word of a barrier object (R173). -/
def boWord (m : Memory) (o : Nat) : Addr := BitVec.ofNat 64 (leNat (rdBytes m o 8))
/-- COUNT of a barrier object. -/
def boCount (w : Addr) : Int := (w.setWidth 48).toInt

/-- Whether the object of a request still counts: COUNT is above zero (R204). -/
def State.counting (s : State) (r : CopyReq) : Bool :=
  match s.blockAt r.block with | some b => decide (0 < boCount (boWord b.scratch r.bobj)) | none => false

/-- What a group's write to scratchpad spoils of outward copy requests whose objects still count: destination bytes (R204). -/
def State.spoilOut (s : State) (b o n : Nat) : State :=
  let hit := fun (r : CopyReq) => r.block == b && r.out && r.parts.any fun p => meets p.1 p.2 o n
  let of := fun (k : Core) => k.reqs.filter hit ++ k.sent.filter fun r => hit r && s.counting r
  let live := (s.cores.mapIdx fun c k => (of k).map fun r => (c, r)).flatten
  if live.isEmpty then s
  else
    let s := live.foldl (fun s q => s.spoilSent q.1 q.2 o n) s
    let mark := fun (r : CopyReq) => if hit r then { r with spoilt := r.spoilt ++ [(o, n)] } else r
    { s with cores := s.cores.map fun (k : Core) => { k with reqs := k.reqs.map mark } }

/-- What a group's store to scratchpad spoils of copy requests: destination bytes of outward ones (R204), and objects that it overwrites
(R173). -/
def State.spoilCopies (s : State) (b o n : Nat) : State := (s.spoilOut b o n).spoilObjects b o n

/-- Bytes stored in a block's scratchpad by a group (R111, R112, R341). -/
def State.storeScr (s : State) (b : Nat) (gslot o : Nat) (bs : List Byte) : State :=
  let s := s.modBlock b fun b => { b with
    unfenced := (List.range bs.length).foldl (fun (u : List (Nat × Byte × Nat)) k =>
      let e := (o + k, rdByte b.scratch (o + k), gslot)
      if e.2.1 = bs.getD k 0 ∨ u.contains e then u else u ++ [e]) b.unfenced,
    scratch := wrBytes b.scratch o bs,
    spoison := b.spoison.filter fun k => !(decide (o ≤ 8 * k) && decide (8 * k + 8 ≤ o + bs.length)) }
  (s.spoil b o bs.length).spoilCopies b o bs.length

/-- What a lane's read of a place gives: bytes, and whether they are poisoned. -/
def State.readPlace (s : State) (i : Iss) (l : Nat) (p : Place) (n : Nat) (alloc : Bool) : (List Byte × Bool) × State :=
  match p with
  | .mem pa w _ => s.readL1 i pa n alloc (bitsOf w 61 60)
  | .link a =>
    match s.reads.find? fun r => r.core == i.g.core && r.part == i.g.part && r.slot == i.g.slot && r.lane == l && r.addr == a with
    | some r =>
      match r.answer with
      | some (.data bs) => ((s.overlay i.g.core true i.vf a (leBytes n (leNat (bs.take n))), false), s)
      | _ => ((List.replicate n 0, true), s)
    | none => ((List.replicate n 0, true), s)
  | .priv k =>
    match s.blockAt i.b.id with
    | some b => ((rdBytes b.priv k n, b.ppoison.contains (k / 128)), s)
    | none => ((List.replicate n 0, false), s)
  | .scr o =>
    match s.blockAt i.b.id with
    | some b => ((rdBytes b.scratch o n, b.poisonedAt o n), s)
    | none => ((List.replicate n 0, false), s)
  | .col o =>
    let pa := colPa i.g.core (i.b.colBase + o)
    ((rdBytes s.mem pa n, s.colBad i.g.core (i.b.colBase + o) n), s.colAccess i.loc pa n false)

/-- A lane's write to a place (R165, R167, R188, R226, R227). -/
def State.writePlace (s : State) (i : Iss) (l : Nat) (p : Place) (bs : List Byte) (kind : StoreKind) : State :=
  match p with
  | .mem pa w nm =>
    let kind := s.kindOf i kind nm
    (s.settleBytes i (i.tid l) false pa bs.length kind).storeL1 i (i.tid l) pa bs kind (bitsOf w 61 60)
  | .link a =>
    let s := s.settleBytes i (i.tid l) true a bs.length kind
    if kind = .wc then s.storeWc i (i.tid l) a true bs
    else { s with inflight := s.inflight ++ [⟨a, true, i.vf, i.g.ctx, i.g.core, i.tid l, kind == .nt, true, bs⟩] }
  | .priv k => s.modBlock i.b.id fun b => { b with priv := wrBytes b.priv k bs }
  | .scr o => s.storeScr i.b.id i.g.gslot o bs
  | .col o =>
    let pa := colPa i.g.core (i.b.colBase + o)
    (s.colWrite i.g.core (i.b.colBase + o) bs).colAccess i.loc pa bs.length true

end Sys2Proof.Machine
end

