-- ==== Sys2Proof/Machine/Memory.lean ====
section
/-! DEFINITION. Meanings of the loads, stores, fences and address tools (R182 to R190, R195 to R198). -/

namespace Sys2Proof.Machine

/-- The address of a format-M access in a lane (R182). -/
def memAddr (i : Iss) (base : BitVec 7) (o : Int) (n l : Nat) : Addr := i.rd2 base l + BitVec.ofInt 64 (o * n)

/-- The block-relative offset of an LDS or STS in a lane (R189). -/
def ldsOff (i : Iss) (base : BitVec 7) (o : Int) (n l : Nat) : Int := (i.rd base 0 l).toNat + o * n

/-- The check of an LDS or STS offset (R189). -/
def ldsCheck (i : Iss) (n : Nat) (off : Int) : LaneChk :=
  if off % n ≠ 0 then .hard { code := 0x25 }
  else if off < 0 ∨ 2 ^ 32 ≤ off then .hard { code := 0x24 }
  else match scrPlace i.b off.toNat n with
    | some p => .ok p
    | none => .hard { code := 0x24 }

/-- The link-window reads that places still need (R226, R389). -/
def State.linkMissing (s : State) (i : Iss) (ps : List (Nat × Place)) (n : Nat) : List LinkRead :=
  ps.filterMap fun p => match p.2 with
    | .link a =>
      match s.reads.find? fun r => r.core == i.g.core && r.part == i.g.part && r.slot == i.g.slot && r.lane == p.1 && r.addr == a with
      | some r => if r.answer.isSome then none else some r
      | none => some ⟨i.vf, a, n, i.g.core, i.g.part, i.g.slot, p.1, none, (s.coreAt i.g.core).cyc⟩
    | _ => none

/-- Link-window reads asked for, after the writes that the tile has posted; the group waits for their completions (R226), as for the
register that they load (R278; log 6). -/
def State.askLink (s : State) (i : Iss) (rs : List LinkRead) : Act :=
  let s := s.drainFlight fun w => w.link && tileOf w.core == i.tile
  let s := s.modIss i fun g => { g with again := true, stall := 4 }
  .settled { s with reads := s.reads ++ rs.filter fun x => !s.reads.any fun r => r.core == x.core && r.part == x.part && r.slot == x.slot && r.lane == x.lane && r.addr == x.addr }

/-- The link reads of a group dropped once its load has used them. -/
def State.dropReads (s : State) (i : Iss) : State :=
  { s with reads := s.reads.filter fun r => !(r.core == i.g.core && r.part == i.g.part && r.slot == i.g.slot) }

/-- Reads every place in lane order: the values, the poisoned lanes, the state. -/
def State.readAll (s : State) (i : Iss) (ps : List (Nat × Place)) (n : Nat) (alloc : Bool) :
    List (Nat × Nat) × List Nat × State :=
  ps.foldl (fun (acc : List (Nat × Nat) × List Nat × State) p =>
    let ((bs, bad), s) := acc.2.2.readPlace i p.1 p.2 n alloc
    (acc.1 ++ [(p.1, leNat bs)], if bad then acc.2.1 ++ [p.1] else acc.2.1, s)) ([], [], s)

/-- The lanes that a load writes and that are not active: helper lanes (R183). -/
def Iss.helpers (i : Iss) : List Nat := lanesOf (i.wr &&& ~~~i.act) i.g.grant

/-- The places that helper lanes read: those at which their read would raise no fault, in scratchpad lines that are present
(R183; log 67). -/
def State.helperPlaces (s : State) (i : Iss) (chk : State → Nat → LaneChk × State) : List (Nat × Place) × State :=
  i.helpers.foldl (fun (acc : List (Nat × Place) × State) l =>
    match chk acc.2 l with
    | (.ok (.scr o), s) => (if i.b.absent.contains (o / 128) then acc.1 else acc.1 ++ [(l, .scr o)], s)
    | (.ok p, s) => (acc.1 ++ [(l, p)], s)
    | (_, s) => (acc.1, s)) ([], s)

/-- The values of helper lanes: what they read when that raises no fault, else a free value (R183). -/
def State.helperRead (s : State) (i : Iss) (n : Nat) (alloc : Bool) (ps : List (Nat × Place)) : List (Nat × Nat) × State :=
  let (vs, bad, s) := s.readAll i ps n alloc
  let good := vs.filter fun v => !bad.contains v.1
  (i.helpers.filter fun l => !(good.any fun v => v.1 == l)).foldl (fun (acc : List (Nat × Nat) × State) l =>
    let (ws, s) := acc.2.freshes 8
    (acc.1 ++ [(l, leNat (ws.map fun w => leBytes 4 w.toNat).flatten % 2 ^ (8 * n))], s)) (good, s)

/-- The value a lane has read. -/
def valueOf (vs : List (Nat × Nat)) (l : Nat) : Nat := match vs.find? fun v => v.1 == l with | some v => v.2 | none => 0

/-- The register writes of a load: register d + j takes bytes 4j to 4j + 3; narrow values are extended (R54, R186). -/
def loadWrites (d : BitVec 7) (regs : Nat) (wr : Mask) (ext : Nat → Word) (vs : List (Nat × Nat)) : List WReq :=
  if regs = 1 then [⟨d, 0, wr, fun l => ext (valueOf vs l)⟩]
  else (List.range regs).map fun j => ⟨d, j, wr, fun l => BitVec.ofNat 32 (valueOf vs l / 2 ^ (32 * j))⟩

/-- A load of n bytes a lane (R184, R186). `before` acts on the places once all checks pass; `after` when all is read. -/
def State.loadBody (s : State) (i : Iss) (d : BitVec 7) (regs n : Nat) (ext : Nat → Word) (alloc : Bool)
    (addr : Nat → Addr) (chk : State → Nat → LaneChk × State) (before after : List (Nat × Place) → State → State) : Act :=
  match (s.settleStp i.g.core).checkLanes i.lanes false chk with
  | .fault f => .fault f
  | .soft fs s => .settled (s.parkFault i fs)
  | .ok ps s =>
    match i.b.absentOf (linesOf ps) with
    | l :: ls => .park (s.count i.loc 5 3 1) (.presence (l :: ls))
    | [] =>
      let (hps, s) := s.helperPlaces i chk
      match s.linkMissing i (ps ++ hps) n with
      | r :: rs => s.askLink i (r :: rs)
      | [] =>
        let (vs, bad, s) := (before ps s).readAll i ps n alloc
        match bad with
        | l :: _ => .fault { code := 0x2F, addr := addr l }
        | [] =>
          let (hs, s) := s.helperRead i n alloc hps
          (after ps (s.dropReads i)).writeRegs i (loadWrites d regs i.wr ext (vs ++ hs))

/-- Nothing before or after a load. -/
def noBefore (_ : List (Nat × Place)) (s : State) : State := s

/-- A format-M load. -/
def loadOp (s : State) (w n : Nat) (ext : Nat → Word) (alloc : Bool) (d a o : BitVec 7) : Host.Outcome State Fault Refusal :=
  issue s { reads := [(a, 2)], writes := [(d, 2 ^ w)], xi := true } noTarget fun s i =>
    let k := n * 2 ^ w
    s.loadBody i d (2 ^ w) k ext alloc (memAddr i a (immM i.x o) k) (fun s l => s.checkAddr i l (memAddr i a (immM i.x o) k l) k k .read)
      noBefore noBefore

/-- The extension of a narrow element (R54). -/
def extOf (f : Nat) (v : Nat) : Word :=
  match f with
  | 0 => (BitVec.ofNat 8 v).setWidth 32
  | 1 => (BitVec.ofNat 8 v).signExtend 32
  | 2 => (BitVec.ofNat 16 v).setWidth 32
  | 3 => (BitVec.ofNat 16 v).signExtend 32
  | _ => BitVec.ofNat 32 v

/-- The element bytes of LD's and ST's function (R45, R182). -/
def elemBytes (f : Nat) : Nat := if f < 2 then 1 else if f < 4 then 2 else 4

/-- LD (R186). -/
def execLd (w : BitVec 2) (f : BitVec 3) (d a o : BitVec 7) (s : State) : Host.Outcome State Fault Refusal :=
  loadOp s w.toNat (elemBytes f.toNat) (extOf f.toNat) (f != 5) d a o

/-- Writes every lane's bytes in ascending lane order, so that the highest lane supplies a shared byte (R183). -/
def State.writeAll (s : State) (i : Iss) (ps : List (Nat × Place)) (bytes : Nat → List Byte) (kind : StoreKind) : State :=
  ps.foldl (fun s p => s.writePlace i p.1 p.2 (bytes p.1) kind) s

/-- A store of n bytes a lane (R184, R188). -/
def State.storeBody (s : State) (i : Iss) (bytes : Nat → List Byte) (kind : StoreKind) (chk : State → Nat → LaneChk × State)
    (before : List (Nat × Place) → State → State) : Act :=
  match (s.settleStp i.g.core).checkLanes i.lanes true chk with
  | .fault f => .fault f
  | .soft fs s => .settled (s.parkFault i fs)
  | .ok ps s =>
    match i.b.absentOf (linesOf ps) with
    | l :: ls => .park (s.count i.loc 5 3 1) (.presence (l :: ls))
    | [] => .done ((before ps s).writeAll i ps bytes kind)

/-- The bytes of the data registers in a lane, the low n (R188). -/
def storeBytes (i : Iss) (d : BitVec 7) (regs n l : Nat) : List Byte :=
  (((List.range regs).map fun j => leBytes 4 (i.rd d j l).toNat).flatten).take n

/-- How ST's function stores (R167). -/
def storeKind (f : Nat) : StoreKind := if f = 5 then .nt else if f = 6 then .wc else .narrow

/-- ST (R188). -/
def execSt (w : BitVec 2) (f : BitVec 3) (d a o : BitVec 7) (s : State) : Host.Outcome State Fault Refusal :=
  let n := elemBytes f.toNat * 2 ^ w.toNat
  issue s { reads := [(a, 2), (d, 2 ^ w.toNat)], dsrc := true, xi := true } noTarget fun s i =>
    s.storeBody i (storeBytes i d (2 ^ w.toNat) n) (storeKind f.toNat)
      (fun s l => s.checkAddr i l (memAddr i a (immM i.x o) n l) n n .write) noBefore

/-- LDQ (R187): each lane loads, or reports 0 and reads 0; a helper lane that cannot load reads an undefined value (R183).
The predicate of such a lane is free too; that of one whose data is poisoned is 1, beside a free value: the model's choice (log 67). -/
def execLdq (w : BitVec 2) (p : BitVec 3) (d a o : BitVec 7) (s : State) : Host.Outcome State Fault Refusal :=
  let k := 4 * 2 ^ w.toNat
  issue s { reads := [(a, 2)], writes := [(d, 2 ^ w.toNat)], preds := [p], xi := true } noTarget fun s i =>
    let chk := fun (s : State) l => s.checkAddr i l (memAddr i a (immM i.x o) k l) k k .read
    let (act, s) := i.lanes.foldl (fun (acc : List (Nat × Place) × State) l =>
      match chk acc.2 l with
      | (.ok p, s) => (acc.1 ++ [(l, p)], s)
      | (_, s) => (acc.1, s)) ([], s.settleStp i.g.core)
    match i.b.absentOf (linesOf act) with
    | l :: ls => .park (s.count i.loc 5 3 1) (.presence (l :: ls))
    | [] =>
      let (hps, s) := s.helperPlaces i chk
      match s.linkMissing i (act ++ hps) k with
      | r :: rs => s.askLink i (r :: rs)
      | [] =>
        let (vs, bad, s) := s.readAll i act k true
        let good := vs.filter fun v => !bad.contains v.1
        let ok := maskOf 64 fun l => good.any fun v => v.1 == l
        let (hs, s) := s.helperRead i k true hps
        let s := (s.dropReads i).count i.loc 8 3 (i.lanes.filter fun l => !ok.getLsbD l).length
        let (u, s) := s.fresh
        let hp := maskOf 64 fun l => if hps.any fun q => q.1 == l then true else (u.getLsbD (l % 32))
        (s.writeRegs i (loadWrites d (2 ^ w.toNat) i.wr (BitVec.ofNat 32) (good ++ hs))).andThen fun s =>
          .done (s.modIss i fun g => (g.putPred i.act p.toNat ok).putPred (i.wr &&& ~~~i.act) p.toNat hp)

/-- LDS (R189). -/
def ldsOp (s : State) (w n : Nat) (ext : Nat → Word) (d a o : BitVec 7) : Host.Outcome State Fault Refusal :=
  issue s { reads := [(a, 1)], writes := [(d, 2 ^ w)], xi := true } noTarget fun s i =>
    let k := n * 2 ^ w
    s.loadBody i d (2 ^ w) k ext true (fun _ => 0) (fun s l => (ldsCheck i k (ldsOff i a (immM i.x o) k l), s)) noBefore noBefore

/-- STS (R189). -/
def stsOp (s : State) (w n : Nat) (d a o : BitVec 7) : Host.Outcome State Fault Refusal :=
  issue s { reads := [(a, 1), (d, 2 ^ w)], dsrc := true, xi := true } noTarget fun s i =>
    let k := n * 2 ^ w
    s.storeBody i (storeBytes i d (2 ^ w) k) .narrow (fun s l => (ldsCheck i k (ldsOff i a (immM i.x o) k l), s)) noBefore

/-- LDS.b32 (R189). -/
def execLdsB32 (w : BitVec 2) (d a o : BitVec 7) (s : State) : Host.Outcome State Fault Refusal :=
  ldsOp s w.toNat 4 (extOf 4) d a o
/-- LDS.ui16 (R189). -/
def execLdsUi16 (d a o : BitVec 7) (s : State) : Host.Outcome State Fault Refusal := ldsOp s 0 2 (extOf 2) d a o
/-- LDS.s16 (R189). -/
def execLdsS16 (d a o : BitVec 7) (s : State) : Host.Outcome State Fault Refusal := ldsOp s 0 2 (extOf 3) d a o
/-- LDS.ui8 (R189). -/
def execLdsUi8 (d a o : BitVec 7) (s : State) : Host.Outcome State Fault Refusal := ldsOp s 0 1 (extOf 0) d a o
/-- LDS.s8 (R189). -/
def execLdsS8 (d a o : BitVec 7) (s : State) : Host.Outcome State Fault Refusal := ldsOp s 0 1 (extOf 1) d a o
/-- STS.b32 (R189). -/
def execStsB32 (w : BitVec 2) (d a o : BitVec 7) (s : State) : Host.Outcome State Fault Refusal := stsOp s w.toNat 4 d a o
/-- STS.b16 (R189). -/
def execStsB16 (d a o : BitVec 7) (s : State) : Host.Outcome State Fault Refusal := stsOp s 0 2 d a o
/-- STS.b8 (R189). -/
def execStsB8 (d a o : BitVec 7) (s : State) : Host.Outcome State Fault Refusal := stsOp s 0 1 d a o

/-- The core's own writes to places performed, and its sectors of them made clean and dropped, so that a read at .dev or .sys is made
at the L2 slice of what stands there (R219). -/
def State.toSlice (s : State) (i : Iss) (n : Nat) (ps : List (Nat × Place)) : State :=
  ps.foldl (fun s p =>
    match p.2 with
    | .mem pa _ _ =>
      let q := fun (x : Sector) => x.pa == pa / 128 * 128
      let s := s.drainWc i.g.core fun w => w.holds false i.vf pa n
      let s := s.drainFlight fun w => w.core == i.g.core && !w.link && meets w.addr w.bytes.length pa n
      (s.cleanL1 i.g.core q).dropL1 i.g.core q
    | _ => s) s

/-- Whether the scope of an access acts: not when every lane is in its private window (R190, R194). -/
def hasScope (ps : List (Nat × Place)) : Bool := ps.any fun p => match p.2 with | .priv _ => false | _ => true

/-- LDA (R190): a load, then an acquire at its scope. -/
def execLda (w : BitVec 2) (f : BitVec 3) (d a o : BitVec 7) (s : State) : Host.Outcome State Fault Refusal :=
  let k := 4 * 2 ^ w.toNat
  issue s { reads := [(a, 2)], writes := [(d, 2 ^ w.toNat)], xi := true } noTarget fun s i =>
    s.loadBody i d (2 ^ w.toNat) k (BitVec.ofNat 32) true (memAddr i a (immM i.x o) k)
      (fun s l => s.checkAddr i l (memAddr i a (immM i.x o) k l) k k .read)
      (fun ps s => if 3 ≤ s.scopeOf i.g.ctx f.toNat then s.toSlice i k ps else s)
      fun ps s => if hasScope ps then s.acquireAt i f.toNat else s

/-- STL (R190): a release at its scope, then a store of that scope. -/
def execStl (w : BitVec 2) (f : BitVec 3) (d a o : BitVec 7) (s : State) : Host.Outcome State Fault Refusal :=
  let k := 4 * 2 ^ w.toNat
  issue s { reads := [(a, 2), (d, 2 ^ w.toNat)], dsrc := true, xi := true } noTarget fun s i =>
    s.storeBody i (storeBytes i d (2 ^ w.toNat) k) (if 2 ≤ f.toNat then .wide else .narrow)
      (fun s l => s.checkAddr i l (memAddr i a (immM i.x o) k l) k k .write) fun ps s => if hasScope ps then s.release_ i f.toNat else s

/-- FENCE (R195): kind 1 acquire, 2 release, 3 both. -/
def execFence (k : BitVec 2) (f : BitVec 3) (s : State) : Host.Outcome State Fault Refusal :=
  issue s { guard := false } noTarget fun s i =>
    let s := if k = 1 then
        ((s.returnNames i.g.core fun n => n.part == i.g.part && n.slot == i.g.slot).drainHomes i.g.core).fenceNarrow i f.toNat
      else s.release_ i f.toNat
    .done (if k = 2 then s else s.acquireAt i f.toNat)

/-- WCDRAIN (R196). -/
def execWcdrain (s : State) : Host.Outcome State Fault Refusal :=
  issue s { guard := false } noTarget fun s i =>
    let mine := fun t => i.lanes.any fun l => i.tid l == t
    .done ((s.drainWc i.g.core fun w => w.threads.any mine).drainFlight fun w => w.core == i.g.core && w.weak && mine w.thread)

/-- PREF (R197): lines asked for, after the STPs that the core has under way (R152); nothing faults. -/
def execPref (a : BitVec 7) (c : BitVec 1) (s : State) : Host.Outcome State Fault Refusal :=
  issue s { reads := [(a, 2)] } noTarget fun s i =>
    .done <| i.lanes.foldl (fun s l =>
      match s.checkAddr i l (i.rd2 a l) 1 1 .read with
      | (.ok (.mem pa w _), s) =>
        if s.poisoned pa then s
        else if c = 0 ∧ (s.sector i.g.core pa).isNone ∧ bitsOf w 61 60 = 0 then s.allocL1 i.loc i.g.core i.g.ctx pa
        else s.l2 i.loc (pa / 128 * 128) 128 false (bitsOf w 61 60 != 2)
      | (_, s) => s) (s.settleStp i.g.core)

/-- The result or the fault of CVTA (R198). -/
def cvtaOf (m : Nat) (a : Addr) : Addr × Option Nat :=
  let top := bitsOf a 63 56
  let glob := (top = 0 ∧ !a.getLsbD 56) ∨ (top = 0xFF ∧ a.getLsbD 56)
  let win := top = 0xC3 ∨ top = 0xC4 ∨ top = 0xC5
  let lo33 := a &&& 0x1FFFFFFFF
  let lo56 := a &&& 0x00FFFFFFFFFFFFFF
  match m with
  | 0 =>
    if top = 0xC4 then (lo33, if bitsOf a 55 33 ≠ 0 then some 0x22 else none)
    else if win then (lo56, none)
    else (a, if glob then none else some 0x20)
  | 1 => if win then (BitVec.ofNat 64 (top % 16), none) else (0, if glob then none else some 0x20)
  | 2 => (0xC400000000000000 + lo33, if bitsOf a 63 33 ≠ 0 then some 0x22 else none)
  | 3 => (0xC300000000000000 + lo56, if bitsOf a 63 56 ≠ 0 then some 0x22 else none)
  | _ => (a, if win then some 0x22 else if glob then none else some 0x20)

/-- CVTA (R198). -/
def execCvta (d a m : BitVec 7) (s : State) : Host.Outcome State Fault Refusal :=
  issue s { reads := [(a, 2)], writes := [(d, 2)] } noTarget fun s i =>
    match i.lanes.findSome? fun l => ((cvtaOf m.toNat (i.rd2 a l)).2).map fun c => ((i.rd2 a l), c) with
    | some (ad, c) => .fault { code := c, addr := ad }
    | none => s.writePair i d i.wr fun l => (cvtaOf m.toNat (i.rd2 a l)).1

end Sys2Proof.Machine
end

