-- ==== Sys2Proof/Machine/Copy.lean ====
section
/-! DEFINITION. Copy requests, barrier objects and the request engine (R161 to R173, R199 to R205). -/

namespace Sys2Proof.Machine

/-- A signed field of a record. -/
def fieldInt (bs : List Byte) (o n : Nat) : Int := (BitVec.ofNat (8 * n) (fieldAt bs o n)).toInt

/-- A copy request read from its record (R199), all of whose lines are still to come. -/
def parseCopy (i : Iss) (m : Memory) (o : Nat) : CopyReq :=
  let bs := rdBytes m o 64
  let c0 := fieldAt bs 52 4
  let c1 := fieldAt bs 56 4
  let c2 := fieldAt bs 60 4
  { block := i.b.id, ctx := i.g.ctx, gix := i.g.index i.b, gslot := i.g.gslot, pc := i.pc, recOff := o,
    mem := BitVec.ofNat 64 (fieldAt bs 0 8), org := (List.range 4).map fun k => fieldInt bs (8 + 4 * k) 4,
    bnd := (List.range 4).map fun k => fieldAt bs (24 + 4 * k) 4, str := 0 :: (List.range 3).map fun k => fieldAt bs (40 + 4 * k) 4,
    ext := [c0 % 1024 + 1, c2 / 128 % 256 + 1, c1 % 64 + 1, c2 / 2 % 64 + 1], fill := c0 / 65536, fmt := c0 / 4096 % 16,
    out := c0 / 2048 % 2 == 1, gat := c0 / 1024 % 2 == 1, scr := c1 / 2 ^ 19 * 128, glist := [], bobj := c2 / 2 ^ 15 * 8,
    started := false, paused := false, spoilt := [], objBad := false, left := [], part := [] }

/-- The record offset of the gather list (R199). -/
def glistOff (m : Memory) (o : Nat) : Nat := leNat (rdBytes m (o + 56) 4) / 64 % 8192 * 128

/-- Whether a request is malformed (R202). -/
def malformed (b : Block) (m : Memory) (o : Nat) (r : CopyReq) : Bool :=
  let top := bitsOf r.mem 63 56
  let off := bitsOf r.mem 55 0
  let gl := glistOff m o
  let gn := if r.gat then 4 * r.e r.gdim else 0
  let written := (r.parts.map Prod.snd).sum
  decide (10 ≤ r.fmt) || (r.out && decide (3 ≤ r.fmt)) ||
  (top == 0xC4 && (decide (off < 0x100000) || r.out)) || top == 0xC3 || top == 0xC5 ||
  !(top == 0xC4 || (top == 0 && !r.mem.getLsbD 56) || (top == 0xFF && r.mem.getLsbD 56)) ||
  (r.c8 && r.e 0 % 64 != 0) || (decide (7 ≤ r.fmt) && r.e 0 % 32 != 0) ||
  (r.fmt == 3 && (r.org.getD 0 0 % 64 != 0 || r.bnd.getD 0 0 % 64 != 0 ||
    [1, 2, 3].any (fun k => r.str.getD k 0 % 64 != 0) || (r.gat && r.gdim == 0))) ||
  r.parts.any (fun p => decide (b.scrSize < p.1 + p.2)) || decide (b.scrSize < r.bobj + 8) ||
  (r.gat && decide (b.scrSize < gl + gn)) ||
  r.parts.any (fun p => meets p.1 p.2 r.bobj 8 || (decide (0 < gn) && meets p.1 p.2 gl gn)) ||
  decide (2 ^ 20 < written) || leNat (rdBytes m (o + 60) 1) % 2 == 1

/-- A request with its gather list read, accepted by the engine: the presence bits of its destination cleared (R162, R203). -/
def State.acceptCopy (s : State) (i : Iss) (r : CopyReq) (gl : Nat) : State :=
  let m := match s.blockAt i.b.id with | some b => b.scratch | none => []
  let list := if r.gat then (List.range (r.e r.gdim)).map fun k => (BitVec.ofNat 32 (leNat (rdBytes m (gl + 4 * k) 4))).toInt else []
  let s := (s.count i.loc 5 0 1).count i.loc 5 4 list.length
  let s := if r.out then s
    else
      let s := r.parts.foldl (fun s p => s.spoil i.b.id p.1 p.2) s
      s.modBlock i.b.id fun b => { b with absent := dedup (b.absent ++ r.lines) }
  s.modCore i.g.core fun k => { k with reqs := k.reqs ++ [{ r with glist := list, left := r.lines }] }

/-- The issue context of the whole group: its release covers every live thread of it. -/
def Iss.whole (i : Iss) : Iss := { i with act := i.g.liveMask }

/-- CPKICK (R203). -/
def execCpkick (a b : BitVec 7) (s : State) : Host.Outcome State Fault Refusal :=
  issue s { reads := [(a, 1), (b, 1)], from_ := fromLow } noTarget fun s i =>
    let o := (i.rd a 0 i.low).toNat
    let n := (i.rd b 0 i.low).toNat
    if n = 0 then .done s
    else if o % 64 ≠ 0 then .fault { code := 0x25 }
    else if i.b.scrSize < o + 64 * n then .fault { code := 0x24 }
    else if 32 < n then .fault { code := 0x2A }
    else
      let s := s.release_ i.whole 1
      if 64 < (s.coreAt i.g.core).reqs.length + n then .park s (.copyQueue n)
      else
        let rs := (List.range n).map fun k => (parseCopy i i.b.scratch (o + 64 * k), o + 64 * k)
        if rs.any fun r => malformed i.b i.b.scratch r.2 r.1 then .fault { code := 0x2A }
        else .done (rs.foldl (fun s r => s.acceptCopy i r.1 (glistOff i.b.scratch r.2)) s)

/-- A barrier object with a new COUNT; below zero sets UNDER (R173). -/
def boSet (w : Addr) (c : Int) (down : Bool) : Addr :=
  let w := (w &&& 0xFFFF000000000000) ||| (BitVec.ofInt 48 c).setWidth 64
  if down && decide ((BitVec.ofInt 48 c).toInt < 0) then w ||| 0x4000000000000000 else w

/-- A barrier object decremented, and ERR set where a request has failed (R173). -/
def Block.boDec (x : Block) (o n : Nat) (err : Bool) : Block :=
  let w := boSet (boWord x.scratch o) (boCount (boWord x.scratch o) - n) true
  { x with scratch := wrBytes x.scratch o (leBytes 8 (if err then w ||| 0x8000000000000000 else w).toNat) }

/-- Finished outward requests of an object forgotten: a later write to their source touches nothing (R204). -/
def State.forgetSent (s : State) (b o : Nat) : State :=
  { s with cores := s.cores.map fun (k : Core) => { k with sent := k.sent.filter fun r => !(r.block == b && r.bobj == o) } }

/-- Finished outward requests forgotten once their object has reached zero (R204). -/
def State.settleSent (s : State) (b o : Nat) : State :=
  match s.blockAt b with
  | some x => if 0 < boCount (boWord x.scratch o) then s else s.forgetSent b o
  | none => s

/-- A barrier object of a resident block decremented (R173). -/
def State.boDec (s : State) (b o n : Nat) (err : Bool) : State := (s.modBlock b fun x => x.boDec o n err).settleSent b o

/-- The checks of BOINIT, BOARR and BOWAIT (R205). -/
def boCheck (i : Iss) (o : Nat) : Option Flt :=
  if o % 8 ≠ 0 then some { code := 0x25 } else if i.b.scrSize < o + 8 then some { code := 0x24 } else none

/-- BOINIT (R205). -/
def execBoinit (a b : BitVec 7) (s : State) : Host.Outcome State Fault Refusal :=
  issue s { reads := [(a, 1), (b, 1)], from_ := fromLow } noTarget fun s i =>
    let o := (i.rd a 0 i.low).toNat
    match boCheck i o with
    | some f => .fault f
    | none =>
      let s := s.modBlock i.b.id fun x => { x with scratch := wrBytes x.scratch o (leBytes 8 (i.rd b 0 i.low).toNat) }
      .done (((s.spoil i.b.id o 8).forgetSent i.b.id o).spoilCopies i.b.id o 8)

/-- BOARR (R205): a release at block scope of the group's prior writes, then a decrement. -/
def execBoarr (a b : BitVec 7) (s : State) : Host.Outcome State Fault Refusal :=
  issue s { reads := [(a, 1), (b, 1)], from_ := fromLow } noTarget fun s i =>
    let o := (i.rd a 0 i.low).toNat
    match boCheck i o with
    | some f => .fault f
    | none => .done ((((s.release_ i.whole 1).boDec i.b.id o (i.rd b 0 i.low).toNat false).spoil i.b.id o 8).spoilOut i.b.id o 8)

/-- Whether a BOWAIT at an object completes (R205). -/
def boDone (w : Addr) : Bool := decide (boCount w ≤ 0) || w.getLsbD 63

/-- BOWAIT (R205). -/
def execBowait (d a : BitVec 7) (s : State) : Host.Outcome State Fault Refusal :=
  issue s { reads := [(a, 1)], from_ := fromLow, writes := [(d, 1)], guard := false } noTarget fun s i =>
    let o := (i.rd a 0 i.low).toNat
    match boCheck i o with
    | some f => .fault f
    | none =>
      let w := boWord i.b.scratch o
      if boDone w then
        let v : Word := BitVec.ofNat 32 ((if w.getLsbD 63 then 1 else 0) + (if w.getLsbD 62 then 2 else 0) +
          (if boCount w < 0 then 4 else 0))
        (s.acquireAt i 1).writeOne i d fun _ => v
      else .park s (.barrierObj o)

/-- An inward element's storage bytes: read in bounds, the fill value out of bounds (R172, R200). -/
def State.copyElem (s : State) (core : Nat) (r : CopyReq) (j : List Nat) : CopyRes × State :=
  let c := r.coords j
  let n := fmtBytes r.fmt
  if r.inside c then s.copyRead core r (r.mem + BitVec.ofInt 64 (r.linear c n)) n
  else (.ok (leBytes n (if r.fmt = 2 then r.fill * 65536 else r.fill)) false, s)

/-- Elements read in order until one faults, which loses those read before it. -/
def State.copyElems (s : State) (core : Nat) (r : CopyReq) (js : List (List Nat)) : (Except Flt (List (Nat × Bool))) × State :=
  js.foldl (fun (acc : (Except Flt (List (Nat × Bool))) × State) j =>
    match acc.1 with
    | .error f => (.error f, acc.2)
    | .ok vs =>
      match acc.2.copyElem core r j with
      | (.ok bs p, s) => (.ok (vs ++ [(leNat bs, p)]), s)
      | (.bad f, s) => (.error f, s)) (.ok [], s)

/-- A segment of a C8 tile: 64 data bytes, its scale, whether it is poisoned, conversion losses. -/
structure Seg where
  data : List Byte
  scale : Nat
  poison : Bool
  losses : Nat

/-- The exponent of the largest magnitude of some numbers, when one is finite and nonzero (R61). -/
def topExp (vs : List Num) : Option Int :=
  vs.foldl (fun (m : Option Int) v =>
    match v with
    | .fin _ k e =>
      if k = 0 then m
      else
        let x : Int := Nat.log2 k + e
        match m with | none => some x | some y => some (max x y)
    | _ => m) none

/-- The re-basing of a segment of values (R61, R62); a scale is never below 2^-149 (R114). -/
def rebase (f : Fmt) (ws : List Nat) : List Byte × Nat × Nat :=
  let vs := ws.map f.decode
  let sh : Int := match topExp vs with | none => 0 | some x => max (x - 7) (-149)
  let q := vs.map fun v =>
    match v with
    | .fin n m e => Fmt.e4m3.round 0 false n m (e - sh)
    | _ => 0x7F
  let loss := (vs.zip q).filter fun p =>
    match p.1 with
    | .inf _ => true
    | .nan => false
    | .fin n m e =>
      decide (m ≠ 0) && decide (Nat.log2 m + (e - sh) < -6) &&
        (match Fmt.e4m3.decode p.2 with
         | .fin _ m' e' => decide ((addExact n m (e - sh) (!n) m' e').1 ≠ 0)
         | _ => true)
  (q.map (BitVec.ofNat 8), Fmt.f32.round 0 false false 1 sh, loss.length)

/-- A segment of a C8 tile expanded (R56, R60, R61, R63). -/
def State.copySeg (s : State) (core : Nat) (r : CopyReq) (sg : Nat) : (Except Flt Seg) × State :=
  let per := r.e 0 / 64
  let js := (List.range 64).map fun k => r.index (sg / per) (sg % per * 64 + k)
  if r.fmt = 3 then
    let c := r.coords (js.headD [])
    if !r.inside c then (.ok ⟨List.replicate 64 0, 0, false, 0⟩, s)
    else
      let n := (r.linear c 1).toNat
      let base := r.mem + BitVec.ofNat 64 (8452 * (n / 16384))
      let j := n % 16384
      match s.copyRead core r base 4 with
      | (.bad f, s) => (.error f, s)
      | (.ok sb p1, s) =>
        match s.copyRead core r (base + BitVec.ofNat 64 (4 + j / 64)) 1 with
        | (.bad f, s) => (.error f, s)
        | (.ok bb p2, s) =>
          match s.copyRead core r (base + BitVec.ofNat 64 (260 + j / 2)) 32 with
          | (.bad f, s) => (.error f, s)
          | (.ok cs p3, s) =>
            let b := leNat bb
            let codes := (List.range 64).map fun k => (cs.getD (k / 2) 0).toNat / 16 ^ (k % 2) % 16
            let scale := Fmt.f32.ofNum 0 false ((Fmt.f32.decode (leNat sb)).mul (Num.ofInt b))
            (.ok (if b = 0 then ⟨List.replicate 64 0, 0, p1 || p2 || p3, 0⟩
                  else ⟨codes.map q4Byte, scale, p1 || p2 || p3, 0⟩), s)
  else
    match s.copyElems core r js with
    | (.error f, s) => (.error f, s)
    | (.ok vs, s) =>
      let p := vs.any Prod.snd
      let ws := vs.map Prod.fst
      if r.fmt = 4 then
        (.ok ⟨ws.map fun w => BitVec.ofNat 8 (if w % 128 = 127 then 127 else w), 0x3F800000, p, 0⟩, s)
      else
        let (d, sc, l) := rebase (if r.fmt = 5 then Fmt.e5m2 else Fmt.bf16) ws
        (.ok ⟨d, sc, p, l⟩, s)

/-- What an engine has got of a line: bytes with their offsets and poison, conversion losses, how many elements or segments, and the
fault that stopped it. -/
structure LineGot where
  bytes : List (Nat × Byte × Bool) := []
  losses : Nat := 0
  count : Nat := 0
  bad : Option Flt := none

/-- What an inward request reads next of one destination line, from the element or segment on that it has paused at (R204, R327). -/
def State.copyLine (s : State) (core : Nat) (r : CopyReq) (line : Nat) : LineGot × State :=
  let n := r.rows * r.e 0
  let from_ := (r.doneIn line).1
  let step := fun (get : State → Nat → (Except Flt (List (Nat × Byte × Bool) × Nat)) × State) (acc : LineGot × State) (e : Nat) =>
    if acc.1.bad.isSome then acc
    else
      match get acc.2 e with
      | (.error f, s) => ({ acc.1 with bad := some f }, s)
      | (.ok (bs, ls), s) => ({ bytes := acc.1.bytes ++ bs, losses := acc.1.losses + ls, count := acc.1.count + 1 }, s)
  if r.c8 then
    let sbase := r.scr + (n + 127) / 128 * 128
    let data := decide (128 * line < sbase)
    let first := if data then (128 * line - r.scr) / 64 else (128 * line - sbase) / 4
    let sgs := (List.range (if data then 2 else 32)).filterMap fun k => if (first + k) * 64 < n then some (first + k) else none
    let get := fun (s : State) sg =>
      match s.copySeg core r sg with
      | (.error f, s) => ((.error f : Except Flt (List (Nat × Byte × Bool) × Nat)), s)
      | (.ok g, s) =>
        (.ok (if data then g.data.mapIdx fun k b => (r.scr + 64 * sg + k, b, g.poison)
              else (leBytes 4 g.scale).mapIdx fun k b => (sbase + 4 * sg + k, b, g.poison), if data then g.losses else 0), s)
    (sgs.drop from_).foldl (step get) ({}, s)
  else
    let w := if r.fmt < 3 then 2 ^ r.fmt else 2
    let first := (128 * line - r.scr) / w
    let es := (List.range (128 / w)).filterMap fun k => if first + k < n then some (first + k) else none
    let conv := fun v =>
      if r.fmt < 3 then v
      else
        let f := if r.fmt = 7 then Fmt.e4m3 else if r.fmt = 8 then Fmt.e5m2 else Fmt.bf16
        Fmt.bf16.ofNum 0 false (f.decode v)
    let get := fun (s : State) e =>
      match s.copyElem core r (r.index (e / r.e 0) (e % r.e 0)) with
      | (.bad f, s) => ((.error f : Except Flt (List (Nat × Byte × Bool) × Nat)), s)
      | (.ok bs p, s) => (.ok ((leBytes w (conv (leNat bs))).mapIdx fun k b => (r.scr + w * e + k, b, p), 0), s)
    (es.drop from_).foldl (step get) ({}, s)

/-- A core's request list with one request changed. -/
def State.modReq (s : State) (core k : Nat) (f : CopyReq → CopyReq) : State :=
  s.modCore core fun c => { c with reqs := modAt c.reqs k f }

/-- A finished request dropped; an outward one is remembered while its object counts (R204). -/
def State.dropReq (s : State) (core k : Nat) : State :=
  s.modCore core fun c => { c with
    reqs := c.reqs.eraseIdx k
    sent := c.sent ++ (c.reqs[k]?.toList.filter fun r => r.out && s.counting r).map fun (r : CopyReq) => { r with left := [] } }

/-- A request's object counts n bytes; an object that something else overwrote takes undefined values (R173). -/
def State.countObj (s : State) (r : CopyReq) (n : Nat) (err : Bool) : State :=
  if r.objBad then s.loseObject r.block r.bobj else s.boDec r.block r.bobj n err

/-- A block with bytes landed in its scratchpad by the engine, with the poison they carry (R162, R342). -/
def Block.landed (x : Block) (bs : List (Nat × Byte × Bool)) : Block :=
  let bad := dedup ((bs.filter fun e => e.2.2).map fun e => e.1 / 8)
  let clean := fun k => (List.range 8).all fun j => bs.any fun e => e.1 == 8 * k + j
  { x with
    scratch := bs.foldl (fun m e => wrByte m e.1 e.2.1) x.scratch,
    unfenced := x.unfenced.filter fun u => !(bs.any fun e => e.1 == u.1),
    spoison := dedup ((x.spoison.filter fun k => !clean k) ++ bad) }

/-- Bytes landed in a resident block's scratchpad by the engine. -/
def State.landBytes (s : State) (b : Nat) (bs : List (Nat × Byte × Bool)) : State := s.modBlock b fun x => x.landed bs

/-- The fault-queue record of a copy request (R204, R325). -/
def State.copyRecord (s : State) (core : Nat) (r : CopyReq) (f : Flt) : Bool × State :=
  let lin := match s.blockAt r.block with | some b => b.lin | none => 0
  let w := r.loc s core
  let s := s.trace w
    { cmdseq := w.seq, taskq := s.taskqOf r.block, engine := 32 + core % 4, kind := 6, tag := f.code, pc := r.pc.toNat,
      val := f.addr.toNat % 2 ^ 32, ctx := r.ctx, core := core, slot := r.gslot }
  s.faultRecord w.vf ⟨f.addr.toNat, r.pc.toNat, r.ctx, 6, f.code, lin, r.gix, r.gslot, core, if r.out then 1 else 0,
    r.recOff + f.code * 2 ^ 32⟩

/-- A request ended by a non-recoverable fault on an element (R162, R173, R204). -/
def State.failReq (s : State) (core k : Nat) (r : CopyReq) : State :=
  let n := r.rest
  let s := if r.out then s
    else
      let offs := (r.left.map fun ln => ((r.inLines ln).map fun p => (List.range p.2).map fun j => p.1 + j).flatten).flatten
      let (vs, s) := s.freshes offs.length
      let s := s.landBytes r.block ((offs.zip vs).map fun e => (e.1, e.2.setWidth 8, false))
      s.modBlock r.block fun b => { b with absent := b.absent.filter fun l => !r.left.contains l }
  (s.countObj r n true).dropReq core k

/-- A request that met a fault on an element: paused by a recoverable one, ended by another (R204). -/
def State.faultReq (s : State) (core k : Nat) (r : CopyReq) (f : Flt) : State :=
  let (w, s) := s.copyRecord core r f
  if 0x27 ≤ f.code ∧ f.code ≤ 0x29 then
    let vf := match s.ctxAt r.ctx with | some c => c.vf | none => 0
    let ep := (s.isoAt (s.partOf (tileOf core))).epoch
    let s := { s with recs := s.recs ++
      [(⟨vf, r.ctx, 6, f.addr.toNat, 0, 0, false, core, 0, 0, r.block, r.bobj, r.recOff, w, ep, false⟩ : FRec)] }
    s.modReq core k fun r => { r with paused := true }
  else s.failReq core k r

/-- A request with one line done: the rest of it counted, and the request dropped after its last. -/
def State.lineDone (s : State) (core k line : Nat) (r : CopyReq) : State :=
  let s := s.countObj r (r.inLine line - (r.doneIn line).2) false
  if r.left = [line] then s.dropReq core k
  else s.modReq core k fun r => { r with left := r.left.filter (· != line), part := r.part.filter fun p => p.1 != line }

/-- A request that a fault stops in a line, with n more elements or segments of it done: what is done counts, and the request pauses or
ends there (R204, R327). -/
def State.stopIn (s : State) (core k line n bytes : Nat) (r : CopyReq) (f : Flt) : State :=
  let r' := r.pauseIn line ((r.doneIn line).1 + n) ((r.doneIn line).2 + bytes)
  let s := if bytes = 0 then s else s.countObj r bytes false
  (s.modReq core k fun _ => r').faultReq core k r' f

/-- A request that the engine works on now. -/
def State.runningReq (s : State) (core k : Nat) : Option CopyReq :=
  match (s.coreAt core).reqs[k]? with
  | some r => if r.started ∧ !r.paused ∧ (s.blockAt r.block).isSome then some r else none
  | none => none

/-- One destination line of an inward request lands (R162, R204). -/
def State.landLine (s : State) (core k line : Nat) : State :=
  match s.runningReq core k with
  | none => s
  | some r =>
    if r.out ∨ !r.left.contains line then s
    else
      let (got, s) := s.copyLine core r line
      let w := r.loc s core
      let s := ((s.count w 5 1 got.bytes.length).count w 5 2 got.losses).landBytes r.block got.bytes
      match got.bad with
      | some f => s.stopIn core k line got.count got.bytes.length r f
      | none =>
        let s := s.modBlock r.block fun b => { b with absent := b.absent.filter (· != line) }
        let s := (r.inLines line).foldl (fun s p => s.spoilObjects r.block p.1 p.2) s
        s.lineDone core k line r

/-- The elements of one source line of an outward request performed in order, from the one on that it has paused at, until one faults,
and how many were done; those out of bounds write nothing, and those whose source a group has written are undefined (R201, R204, R327). -/
def State.sendElems (s : State) (core : Nat) (r : CopyReq) (b : Block) (line : Nat) : (Option Flt × Nat) × State :=
  let w := 2 ^ r.fmt
  ((r.elemsIn line).drop (r.doneIn line).1).foldl (fun (acc : (Option Flt × Nat) × State) e =>
    let next := fun (q : Option Flt × State) => ((q.1, if q.1.isNone then acc.1.2 + 1 else acc.1.2), q.2)
    match acc.1.1, r.target e with
    | none, some a =>
      let o := r.scr + w * e
      if r.spoiled e then
        let (v, s) := acc.2.fresh
        next (s.copyWrite core r a (leBytes w v.toNat) false)
      else next (acc.2.copyWrite core r a (rdBytes b.scratch o w) (b.poisonedAt o w))
    | none, none => next (none, acc.2)
    | some _, _ => acc) ((none, 0), s)

/-- One source line of an outward request is performed at L2 (R204): its core's L1 copies are invalidated. -/
def State.sendLine (s : State) (core k : Nat) : State :=
  match s.runningReq core k with
  | none => s
  | some r =>
    match s.blockAt r.block, (r.left.find? fun l => !((s.blockAt r.block).map Block.absent |>.getD []).contains l) with
    | some b, some line =>
      if !r.out then s
      else
        let ((bad, n), s) := s.sendElems core r b line
        let bytes := n * 2 ^ r.fmt
        let s := s.count (r.loc s core) 5 1 bytes
        match bad with
        | some f => s.stopIn core k line n bytes r f
        | none => s.lineDone core k line r
    | _, _ => s

end Sys2Proof.Machine
end

