-- ==== Sys2Proof/Machine/Matrix.lean ====
section
/-! DEFINITION. Matrix units, gangs and the accumulator store (R105 to R126, R71 to R73). -/

namespace Sys2Proof.Machine

/-- A plane when a context is created (R105). -/
def Plane.init : Plane := { bf16 := false, data := [], scales := [], poison := false, undef := false, load := none }

/-- The matrix state of a partition when a context is created (R105). -/
def Mat.init (core part ctx : Nat) : Mat :=
  { core := core, part := part, ctx := ctx, active := Plane.init, shadow := Plane.init, acc := [], accPoison := [], queue := [],
    done := [], stalled := [], seq := 0, count := 0, badTokens := [], latch := [], waiting := [] }

/-- The matrix state of a partition for a context: each context has planes, a store and a queue of its own (R105; log 69). -/
def State.mat (s : State) (c p x : Nat) : Mat := (s.matAt c p x).getD (Mat.init c p x)

/-- The state with the matrix state of a partition and a context replaced. -/
def State.setMat (s : State) (m : Mat) : State :=
  if (s.matAt m.core m.part m.ctx).isSome then s.modMat m.core m.part m.ctx fun _ => m else { s with mats := s.mats ++ [m] }

/-- The matrix state of the issuing group's partition. -/
def State.imat (s : State) (i : Iss) : Mat := s.mat i.g.core i.g.part i.g.ctx

/-- Where a partition's matrix events are counted. -/
def State.matLoc (s : State) (m : Mat) (block : Nat) : Where :=
  let seq := match s.blockAt block with
    | some b => (match s.launchAt b.launch with | some l => l.seq | none => 0)
    | none => 0
  ⟨false, m.core, m.part, m.ctx, (match s.ctxAt m.ctx with | some c => c.vf | none => 0), seq⟩

/-- Whether a scratchpad range is one the array may read or write (R113, R116, R124). -/
def scrRange (b : Block) (o n : Nat) : Bool := decide (o + n ≤ 0x100000) && decide (o + n ≤ b.scrSize)

/-- The bytes of an operation's source that are written and not fenced now (R111): those that it may see or not. The model's choice
(log 78): a write whose group has executed OPFENCE by now, in time, is always seen, whatever orders the two. -/
def unfencedIn (b : Block) (ranges : List (Nat × Nat × Nat)) : List (Nat × Nat × Byte) :=
  b.unfenced.filterMap fun u =>
    if ranges.any fun r => r.1 == b.id && decide (r.2.1 ≤ u.1) && decide (u.1 < r.2.1 + r.2.2) then some (b.id, u.1, u.2.1) else none

/-- A queue entry just issued. -/
def MatOp.make (b : Block) (k : MatKind) (tokens : List Word) : MatOp :=
  let o : MatOp :=
    { id := 0, kind := k, block := b.id, tokens := tokens, started := false, undef := false, bad := false, row := 0, plane := none, undefRows := [],
      mix := [], stalled := [] }
  { o with mix := unfencedIn b o.ranges }

/-- The token that the sequence counter gives at n operations from now (R108). -/
def Mat.token (m : Mat) (n : Nat) : Word := 0x80000000 + (m.seq + BitVec.ofNat 16 n).setWidth 32

/-- Tokens taken: the counter advances, and a reused token is no longer known as poisoned. -/
def Mat.take (m : Mat) (n : Nat) : Mat :=
  let ts := (List.range n).map fun k => m.token (k + 1)
  { m with seq := m.seq + BitVec.ofNat 16 n, badTokens := m.badTokens.filter fun t => !ts.contains t }

/-- How many WSWAPs are pending in a queue. -/
def swaps (q : List MatOp) : Nat := (q.filter fun o => o.kind == .wswap).length

/-- Whether an operation streams. -/
def MatOp.streams (o : MatOp) : Bool := match o.kind with | .stream _ _ _ _ => true | _ => false

/-- An operation put in the queue, with the tokens it takes. -/
def Mat.push (m : Mat) (o : MatOp) (load : Bool) : Mat :=
  let m := m.take o.tokens.length
  let q := if load then clashLoad m.queue else m.queue
  { m with queue := q ++ [{ o with id := m.count }], count := m.count + 1 }
where
  /-- The queue once a WLOAD joins it (R107, R112): with k swaps ahead a stream reads the plane that is active now when k is
  even, and with c swaps ahead the load writes that plane when c is odd; a stream that reads what the load writes has
  undefined rows. -/
  clashLoad (q : List MatOp) : List MatOp :=
    q.mapIdx fun n (o : MatOp) =>
      if o.streams && swaps (q.take n) % 2 != swaps q % 2 then { o with undef := true } else o

/-- WLOAD and WLOAD.t (R113, R114). -/
def wloadOp (s : State) (d a : BitVec 7) (t : Bool) : Host.Outcome State Fault Refusal :=
  issue s { reads := [(a, 2)], from_ := fromLow, plain := [(d, 1)], writes := [(d, 1)], guard := false } noTarget fun s i =>
    let w := (i.rd a 0 i.low).toNat
    let bf := w % 2 == 1
    let data := w - w % 2
    let sc := if bf then 0 else (i.rd a 1 i.low).toNat
    let dn := if bf then 6144 else if t then 16384 else 12288
    let sn := if t then 1024 else 768
    if data % 128 ≠ 0 ∨ sc % 128 ≠ 0 ∨ !scrRange i.b data dn ∨ (!bf ∧ !scrRange i.b sc sn) then .fault { code := 0x38 }
    else
      let m := s.imat i
      if 16 ≤ m.queue.length then .park s .matrixQueue
      else
        let tok := m.token 1
        let s := s.setMat (m.push (MatOp.make i.b (.wload t bf i.b.id data sc) [tok]) true)
        s.writeRegs i [⟨d, 0, i.set, fun _ => tok⟩]

/-- WLOAD (R113). -/
def execWload (d a : BitVec 7) (s : State) : Host.Outcome State Fault Refusal := wloadOp s d a false
/-- WLOAD.t (R113, R114). -/
def execWloadT (d a : BitVec 7) (s : State) : Host.Outcome State Fault Refusal := wloadOp s d a true

/-- WSWAP (R115). -/
def execWswap (s : State) : Host.Outcome State Fault Refusal :=
  issue s { guard := false } noTarget fun s i =>
    let m := s.imat i
    if 16 ≤ m.queue.length then .park s .matrixQueue
    else .done (s.setMat (m.push (MatOp.make i.b .wswap []) false))

/-- The rows that queued streaming operations write. -/
def Mat.queuedRows (m : Mat) : List Nat := dedup ((m.queue.map MatOp.outRows).flatten)

/-- Rows written by ACCZ or ACCST while queued operations write them are undefined afterwards (R112). -/
def State.touchRows (s : State) (i : Iss) (rows : List Nat) : State :=
  let m := s.imat i
  let q := m.queuedRows
  let bad := rows.filter q.contains
  if bad.isEmpty then s
  else
    let s := s.setMat { m with queue := m.queue.map fun (o : MatOp) =>
      { o with undefRows := dedup (o.undefRows ++ bad.filter o.outRows.contains) } }
    s.freeRows i.g.core i.g.part i.g.ctx bad

/-- The range register of ACCZ and of the scratchpad forms (R122): row0, n and whether it is legal. -/
def rangeReg (v : Word) : Nat × Nat × Bool :=
  let r := bitsOf v 9 0
  let n := bitsOf v 26 16
  (r, n, bitsOf v 15 10 == 0 && bitsOf v 31 27 == 0 && decide (1 ≤ n) && decide (n ≤ 1024) && decide (r + n ≤ 1024))

/-- ACCZ (R122). -/
def execAccz (a : BitVec 7) (s : State) : Host.Outcome State Fault Refusal :=
  issue s { reads := [(a, 1)], from_ := fromLow, guard := false } noTarget fun s i =>
    let (r, n, ok) := rangeReg (i.rd a 0 i.low)
    if !ok then .fault { code := 0x38 }
    else
      let m := s.imat i
      let hit := fun k => decide (96 * r ≤ k) && decide (k < 96 * (r + n))
      let s := s.setMat { m with acc := m.acc.filter (fun e => !hit e.1), accPoison := m.accPoison.filter (fun k => !hit k) }
      .done (s.touchRows i ((List.range n).map fun k => r + k))

/-- The position register of ACCLD and ACCST (R123): row0, col0 and whether it is legal. -/
def posReg (i : Iss) (w : Nat) (v : Word) : Nat × Nat × Bool :=
  let r := bitsOf v 9 0
  let c := bitsOf v 22 16
  (r, c, bitsOf v 15 10 == 0 && bitsOf v 31 23 == 0 && decide (c + 2 ^ w ≤ 96) && i.lanes.all fun l => decide (r + l ≤ 1023))

/-- ACCLD, register form (R123). -/
def execAccld (w : BitVec 2) (d a : BitVec 7) (s : State) : Host.Outcome State Fault Refusal :=
  issue s { reads := [(a, 1)], from_ := fromLow, plain := [(d, 2 ^ w.toNat)], writes := [(d, 2 ^ w.toNat)] } noTarget fun s i =>
    let (r, c, ok) := posReg i w.toNat (i.rd a 0 i.low)
    if !ok then .fault { code := 0x38 }
    else
      let m := s.imat i
      let n := 2 ^ w.toNat
      let bad := fun l => (List.range n).any fun j => m.accPoison.contains (96 * (r + l) + c + j)
      if i.lanes.any bad then .fault { code := 0x2F }
      else
        let q := m.queuedRows
        let open_ := fun l => q.contains (r + l) || decide (1023 < r + l) || bad l
        let (vs, s) := if (lanesOf i.wr i.g.grant).any open_ then s.freshes (64 * n) else ([], s)
        s.writeRegs i <| (List.range n).map fun j =>
          ⟨d, j, i.wr, fun l => if open_ l then vs.getD (n * l + j) 0 else tget 0 m.acc (96 * (r + l) + c + j)⟩

/-- ACCST, register form (R123). -/
def execAccst (w : BitVec 2) (d a : BitVec 7) (s : State) : Host.Outcome State Fault Refusal :=
  issue s { reads := [(a, 1), (d, 2 ^ w.toNat)], dsrc := true, from_ := lowAt 0 } noTarget fun s i =>
    let (r, c, ok) := posReg i w.toNat (i.rd a 0 i.low)
    if !ok then .fault { code := 0x38 }
    else
      let m := s.imat i
      let cells := (i.lanes.map fun l => (List.range (2 ^ w.toNat)).map fun j => (96 * (r + l) + c + j, i.rd d j l)).flatten
      let s := s.setMat { m with
        acc := cells.foldl (fun t e => tset 0 t e.1 e.2) m.acc,
        accPoison := m.accPoison.filter fun k => !(cells.any fun e => e.1 == k) }
      .done (s.touchRows i (i.lanes.map fun l => r + l))

/-- ACCLD, scratchpad form (R124). -/
def execAccldScr (a b : BitVec 7) (s : State) : Host.Outcome State Fault Refusal :=
  issue s { reads := [(a, 1), (b, 1)], from_ := fromLow } noTarget fun s i =>
    let (r, n, ok) := rangeReg (i.rd a 0 i.low)
    let o := (i.rd b 0 i.low).toNat
    if !ok ∨ o % 128 ≠ 0 ∨ !scrRange i.b o (384 * n) then .fault { code := 0x38 }
    else
      let m := s.imat i
      let q := m.queuedRows
      if m.accPoison.any fun k => decide (96 * r ≤ k) && decide (k < 96 * (r + n)) then .fault { code := 0x2F }
      else
        .done <| (List.range n).foldl (fun s k =>
          let (vs, s) := if q.contains (r + k) then s.freshes 96 else ([], s)
          let row := (List.range 96).map fun c => if q.contains (r + k) then vs.getD c 0 else tget 0 m.acc (96 * (r + k) + c)
          s.storeScr i.b.id i.g.gslot (o + 384 * k) (row.map fun w => leBytes 4 w.toNat).flatten) s

/-- A byte of scratchpad as the array reads it: a byte written and not fenced may be seen or not (R111). -/
def mixByte (m : Memory) (mix : List (Nat × Nat × Byte)) (blk free a : Nat) : Byte :=
  let olds := (mix.filter fun e => e.1 == blk && e.2.1 == a).map fun e => e.2.2
  let all := rdByte m a :: olds
  all.getD ((Config.freeValue (free + a)).toNat % all.length) 0

/-- Bytes of scratchpad as the array reads them. -/
def mixBytes (m : Memory) (mix : List (Nat × Nat × Byte)) (blk free a n : Nat) : List Byte :=
  (List.range n).map fun k => mixByte m mix blk free (a + k)

/-- The lines of some ranges. -/
def rangeLines (rs : List (Nat × Nat)) : List Nat :=
  dedup ((rs.map fun r => (List.range ((r.1 + r.2 + 127) / 128 - r.1 / 128)).map fun k => r.1 / 128 + k).flatten)

/-- ACCST, scratchpad form (R124): it waits in place for absent lines (R110). -/
def execAccstScr (a b : BitVec 7) (s : State) : Host.Outcome State Fault Refusal :=
  issue s { reads := [(a, 1), (b, 1)], from_ := fromLow } noTarget fun s i =>
    let (r, n, ok) := rangeReg (i.rd a 0 i.low)
    let o := (i.rd b 0 i.low).toNat
    if !ok ∨ o % 128 ≠ 0 ∨ !scrRange i.b o (384 * n) then .fault { code := 0x38 }
    else
      let m := s.imat i
      let miss := i.b.absentOf (rangeLines [(o, 384 * n)])
      let new := miss.filter fun l => !m.stalled.contains (i.g.gslot, l)
      if !miss.isEmpty then
        let s := s.count i.loc 6 1 new.length
        let s := if new.isEmpty then s else s.setMat { m with stalled := m.stalled ++ new.map fun l => (i.g.gslot, l) }
        .settled (s.modIss i fun g => { g with again := true })
      else if i.b.poisonedAt o (384 * n) then .fault { code := 0x2F }
      else
        let mix := unfencedIn i.b [(i.b.id, o, 384 * n)]
        let bs := mixBytes i.b.scratch mix i.b.id s.free o (384 * n)
        let s := if mix.isEmpty then s else { s with free := s.free + 2 ^ 20 }
        let word := fun k => BitVec.ofNat 32 (leNat ((bs.drop (4 * k)).take 4))
        let s := s.setMat { m with
          acc := (List.range (96 * n)).foldl (fun t k => tset 0 t (96 * r + k) (word k)) m.acc,
          accPoison := m.accPoison.filter (fun k => !(decide (96 * r ≤ k) && decide (k < 96 * (r + n)))),
          stalled := m.stalled.filter (fun e => e.1 != i.g.gslot) }
        .done (s.touchRows i ((List.range n).map fun k => r + k))

/-- The value of a gang register that GANG and SWR accept (R118). -/
def gangOk (v : Word) (slot : Nat) : Bool :=
  let n := bitsOf v 26 24
  let sl := (List.range n).map fun k => v.toNat / 16 ^ k % 16
  v == 0 || (bitsOf v 31 27 == 0 && decide (2 ≤ n) && decide (n ≤ 6) && (dedup sl).length == n && sl.contains slot &&
    v.toNat % 2 ^ 24 / 16 ^ n == 0)

/-- The slots a gang register lists, in order (R118). -/
def gangSlots (v : Word) : List Nat := (List.range (bitsOf v 26 24)).map fun k => v.toNat / 16 ^ k % 16

/-- A gang register written (R118, R263). -/
def State.setGang (s : State) (i : Iss) (v : Word) : Act :=
  if gangOk v i.g.slot then .done (s.modIss i fun g => { g with gang := v }) else .fault { code := 0x39 }

/-- GANG (R118). -/
def execGang (a : BitVec 7) (s : State) : Host.Outcome State Fault Refusal :=
  issue s { reads := [(a, 1)], from_ := fromLow, guard := false, p6 := false } noTarget fun s i => s.setGang i (i.rd a 0 i.low)

/-- OPFENCE (R111): what its group has written to the scratchpad is fenced from now on, for every operation that is issued or
accepted later; the model's choice for those that no program order and no barrier puts after it (log 78). -/
def execOpfence (s : State) : Host.Outcome State Fault Refusal :=
  issue s { guard := false } noTarget fun s i =>
    .done (s.modBlock i.b.id fun b => { b with unfenced := b.unfenced.filter fun u => u.2.2 != i.g.gslot })

/-- A fault of a group that waits at the gang latch, at its MMA (R120, R121). -/
def State.faultWaiting (s : State) (c p k code : Nat) : State :=
  match s.groupAt c p k with
  | none => s
  | some g =>
    match s.blockAt g.block with
    | none => s
    | some b =>
      let vf := match s.ctxAt g.ctx with | some x => x.vf | none => 0
      let seq := match s.launchAt b.launch with | some l => l.seq | none => 0
      let m := s.mat c p g.ctx
      let s := s.setMat { m with latch := m.latch.filter fun e => e.slot != k }
      s.takeFault g b ⟨false, c, p, g.ctx, vf, seq⟩ g.iset (g.iset &&& g.liveMask) { code := code } (fun l => (g.threadAt l).pc)
        (fun _ => g.pos) [] []

/-- Several waiting groups of a partition faulted, lowest slot first. -/
def State.faultAll (s : State) (c p code : Nat) (slots : List Nat) : State :=
  ((List.range 16).filter slots.contains).foldl (fun s k => s.faultWaiting c p k code) s

/-- An arriving group and some that wait faulted, lowest slot first (R335): the arriving one as `own` says. -/
def State.faultGang (s : State) (c p slot code : Nat) (slots : List Nat) (own : State → State) : State :=
  ((List.range 16).filter (slot :: slots).contains).foldl (fun s k => if k = slot then own s else s.faultWaiting c p k code) s

/-- A group of a gang has its token and goes on to the next word of its run (R107, R119). -/
def State.finishGang (s : State) (c p : Nat) (e : Latch) (tok : Word) : State :=
  match s.groupAt c p e.slot with
  | none => s
  | some g =>
    match s.issOf g with
    | none => s
    | some i =>
      let s := State.putRegs s { i with act := g.iset &&& g.liveMask, wr := g.iset } false [⟨e.dest, 0, g.iset, fun _ => tok⟩]
      s.modGroup c p e.slot fun g => { g.advance with status := .eligible, cont := true }

/-- The gang of a latch all of whose groups are parked there with one register: the entries in list order (R119). -/
def readyGang (m : Mat) : Option (List Latch) :=
  m.latch.findSome? fun e =>
    let es := (gangSlots e.gang).map fun k => m.latch.find? fun x => x.slot == k && x.gang == e.gang
    if es.all Option.isSome then some (es.filterMap id) else none

/-- A gang's pass enters the queue; each group receives its token (R107, R119): the model numbers them in list order (log 78). -/
def State.enterGang (s : State) (c p x : Nat) (es : List Latch) : State :=
  let m := s.mat c p x
  let toks := es.mapIdx fun n _ => m.token (n + 1)
  match es.head? with
  | none => s
  | some e =>
    match s.blockAt e.rows.block with
    | none => s
    | some b =>
      let op := MatOp.make b (.stream e.fn (es.map Latch.rows) e.out.1 e.out.2) toks
      let m := m.push op false
      let s := (s.setMat m).count (s.matLoc m b.id) 6 4 1
      (es.zip toks).foldl (fun s q => s.finishGang c p q.1 q.2) s

/-- A queue entry that has freed (R107): the gang that has waited longest takes it, before any solo group that is parked for one; the
model's choice, as the order in which gangs wait is (log 78). -/
def State.admitGang (s : State) (c p x : Nat) : State :=
  let m := s.mat c p x
  if 16 ≤ m.queue.length then s
  else match m.waiting with
    | [] => s
    | es :: rest => (s.setMat { m with waiting := rest }).enterGang c p x es

/-- A rendezvous that completes: its groups leave the latch, and the pass enters the queue or waits for an entry (R107, R119). -/
def State.meetGang (s : State) (m : Mat) (es : List Latch) : State :=
  let m := { m with latch := m.latch.filter fun y => !(es.any fun z => z.slot == y.slot) }
  if 16 ≤ m.queue.length then
    es.foldl (fun (s : State) e => s.modGroup m.core m.part e.slot fun g => { g with status := .parked .matrixQueue })
      (s.setMat { m with waiting := m.waiting ++ [es] })
  else (s.setMat m).enterGang m.core m.part m.ctx es

/-- A group with a gang register at the latch (R119 to R121). -/
def State.arriveGang (s : State) (i : Iss) (d : BitVec 7) (fn : Nat) (st : Stream) (out : Nat × Nat) (desc : State → Flt → State) :
    Act :=
  let m := s.imat i
  let c := i.g.core
  let p := i.g.part
  let mine := gangSlots i.g.gang
  let clash := m.latch.filter fun y =>
    (mine.contains y.slot || (gangSlots y.gang).contains i.g.slot) && y.gang != i.g.gang
  let other := mine.any fun k => match s.groupAt c p k with | some g => g.block != i.b.id | none => false
  let bad := fun (slots : List Nat) => .settled (s.faultGang c p i.g.slot 0x39 slots fun t => desc t { code := 0x39 })
  if !clash.isEmpty then bad (clash.map Latch.slot)
  else if i.g.gang = 0 then
    if 16 ≤ m.queue.length then .park s .matrixQueue
    else
      let tok := m.token 1
      let s := s.setMat (m.push (MatOp.make i.b (.stream fn [st] out.1 out.2) [tok]) false)
      .done (s.putRegs i false [⟨d, 0, i.set, fun _ => tok⟩])
  else if other then bad ((m.latch.filter fun y => mine.contains y.slot).map Latch.slot)
  else if mine.any fun k => (s.groupAt c p k).isNone then .fault { code := 0x3A }
  else
    let m := { m with latch := m.latch ++ [⟨i.g.slot, i.g.gang, fn, st, out, d⟩] }
    match readyGang m with
    | none => .park (s.setMat m) .gang
    | some es =>
      if es.any (fun e => e.fn != fn) ∨ 1024 < (es.map fun e => e.rows.rows).sum then
        bad (es.map Latch.slot)
      else .settled ((s.modIss i fun g => g.suspend (.parked .gang)).meetGang m es)

/-- MMA.c8, MMA.bf16 and MMAO: fn 0, 1, 2 (R116, R117). -/
def streamOp (s : State) (fn : Nat) (d a : BitVec 7) (b : Option (BitVec 7)) (p6 : Bool) : Host.Outcome State Fault Refusal :=
  let u : Uses :=
    { reads := (a, 4) :: (match b with | some f => [(f, 1)] | none => []), from_ := fromLow, plain := [(d, 1)], writes := [(d, 1)],
      guard := false, p6 := p6 }
  issue s u noTarget fun s i =>
    let v := fun j => (i.rd a j i.low).toNat
    let data := v 0
    let sc := if fn = 1 then 0 else v 1
    let m := v 2
    let row0 := v 3
    let o := match b with | some f => (i.rd f 0 i.low).toNat | none => 0
    let out := (o % 2 ^ 20, o / 2 ^ 20)
    if data % 128 ≠ 0 ∨ sc % 128 ≠ 0 ∨ m = 0 ∨ 1024 < m ∨ 1023 < row0 ∨ 1024 < row0 + m ∨
        !scrRange i.b data (if fn = 1 then 64 * m else 128 * m) ∨ (fn ≠ 1 ∧ !scrRange i.b sc (8 * m)) ∨ out.1 % 4 ≠ 0 ∨
        (out.2 ≠ 0 ∧ !scrRange i.b out.1 (4 * out.2)) then .fault { code := 0x38 }
    else
      s.arriveGang i d fn ⟨i.b.id, data, sc, m, row0⟩ out fun t f =>
        let (dd, held) := i.opdesc u
        t.raise i f dd held

/-- MMA.c8 (R117). -/
def execMmaC8 (d a : BitVec 7) (s : State) : Host.Outcome State Fault Refusal := streamOp s 0 d a none true
/-- MMA.bf16 (R117). -/
def execMmaBf16 (d a : BitVec 7) (s : State) : Host.Outcome State Fault Refusal := streamOp s 1 d a none true
/-- MMAO (R117). -/
def execMmao (d a b : BitVec 7) (s : State) : Host.Outcome State Fault Refusal := streamOp s 2 d a (some b) false

/-- The completed operations that an MWAIT on a token covers (R109): those the token names, and the streaming operations before the
last of them that streams. -/
def Mat.covered (m : Mat) (t : Word) : Mat :=
  let named := m.done.filter fun o => o.tokens.contains t
  let upTo := (named.filter MatOp.streams).foldl (fun k o => max k o.id) 0
  { m with done := m.done.filter fun o => !(o.tokens.contains t || (o.streams && decide (o.id < upTo))) }

/-- MWAIT (R108, R109, R117). -/
def execMwait (a : BitVec 7) (s : State) : Host.Outcome State Fault Refusal :=
  issue s { reads := [(a, 1)], from_ := fromLow, guard := false } noTarget fun s i =>
    let t := i.rd a 0 i.low
    let m := s.imat i
    if m.queue.any fun o => o.tokens.contains t then .park s (.matrixWait t)
    else if m.badTokens.contains t then .fault { code := 0x2F }
    else .done (if m.done.isEmpty then s else s.setMat (m.covered t))

/-- An E4M3 value in units of 2^-9; none for NaN. -/
def e4m3Int (b : Byte) : Option Int :=
  match Fmt.e4m3.decode b.toNat with
  | .fin n m e => some ((if n then -1 else 1) * (m * 2 ^ (e + 9).toNat : Nat))
  | _ => none

/-- The term of one C8 segment (R71). -/
def segTerm (as ws : List Byte) (sa sw : Nat) : Nat :=
  let p := (as.zip ws).foldl (fun (acc : Option Int) q =>
    match acc, e4m3Int q.1, e4m3Int q.2 with
    | some x, some a, some w => some (x + a * w)
    | _, _, _ => none) (some 0)
  match p with
  | none => 0x7FC00000
  | some x =>
    let r := ((Num.fin (decide (x < 0)) x.natAbs (-18)).mul (Fmt.f32.decode sa)).mul (Fmt.f32.decode sw)
    match r with
    | .fin n m e => if x = 0 then 0 else Fmt.f32.round 0 false n m e
    | v => Fmt.f32.ofNum 0 false v

/-- The exact sum of products of BF16 elements, rounded once (R72). -/
def bf16Term (as ws : List Nat) : Nat :=
  let ps := (as.zip ws).map fun q => (Fmt.bf16.decode q.1).mul (Fmt.bf16.decode q.2)
  let pos := ps.any fun v => v == .inf false
  let neg := ps.any fun v => v == .inf true
  if ps.any Num.isNan ∨ (pos ∧ neg) then 0x7FC00000
  else if pos then 0x7F800000
  else if neg then 0xFF800000
  else
    let x := ps.foldl (fun (acc : Int) v => match v with
      | .fin n m e => acc + (if n then -1 else 1) * (m * 2 ^ (e + 300).toNat : Nat)
      | _ => acc) 0
    if x = 0 then 0 else Fmt.f32.round 0 false (decide (x < 0)) x.natAbs (-300)

/-- A halfword of a list of bytes. -/
def half (bs : List Byte) (k : Nat) : Nat := leNat ((bs.drop (2 * k)).take 2)
/-- A word of a list of bytes. -/
def word (bs : List Byte) (k : Nat) : Nat := leNat ((bs.drop (4 * k)).take 4)

/-- The outlier entries of a list (R117). -/
def outliers (bs : List Byte) (n : Nat) : List Nat := (List.range n).map (word bs)
/-- Whether an outlier entry is well formed (R117). -/
def outlierOk (e : Nat) : Bool := e / 2 ^ 14 % 4 == 0 && decide (e / 128 % 128 < 96)

/-- One accumulator element after a pass over one row (R71, R72, R73). -/
def rowElem (fn : Nat) (pl : Plane) (as : List Byte) (sas : List Nat) (outs : List Nat) (n : Nat) (acc : Word) : Word :=
  let add := fun (x t : Nat) => Fmt.f32.addW 0 x t
  if fn = 1 then
    BitVec.ofNat 32 (add acc.toNat (bf16Term ((List.range 32).map (half as)) ((List.range 32).map fun k =>
      leNat (rdBytes pl.data (64 * n + 2 * k) 2))))
  else
    let base := (List.range 2).foldl (fun x g =>
      add x (segTerm ((as.drop (64 * g)).take 64) (rdBytes pl.data (128 * n + 64 * g) 64) (sas.getD g 0)
        (tget 0 pl.scales (2 * n + g)).toNat)) acc.toNat
    BitVec.ofNat 32 <| (outs.filter fun e => e / 128 % 128 == n).foldl (fun x e =>
      let k := e % 128
      let a := Fmt.f32.ofNum 0 false ((Fmt.e4m3.decode (as.getD k 0).toNat).mul (Fmt.f32.decode (sas.getD (k / 64) 0)))
      let o := Fmt.f32.ofNum 0 false ((Fmt.bf16.decode (e / 65536)).mul (Fmt.f32.decode a))
      add x o) base

/-- The tile that a WLOAD puts in a plane (R113, R114), and the conversion losses. -/
def loadTile (t bf : Bool) (bytes : Nat → Nat → List Byte) (data sc : Nat) : Plane × Nat :=
  if bf then
    let cell := fun n k => if t then bytes (data + 192 * k + 2 * n) 2 else bytes (data + 64 * n + 2 * k) 2
    let m := (List.range 96).foldl (fun m n => wrBytes m (64 * n) ((List.range 32).map (cell n)).flatten) []
    ({ bf16 := true, data := m, scales := [], poison := false, undef := false, load := none }, 0)
  else if !t then
    let m := wrBytes [] 0 (bytes data 12288)
    let ss := (List.range 192).foldl (fun a k => tset 0 a k (BitVec.ofNat 32 (leNat (bytes (sc + 4 * k) 4)))) []
    ({ bf16 := false, data := m, scales := ss, poison := false, undef := false, load := none }, 0)
  else
    let segs := (List.range 192).map fun q =>
      let n := q / 2
      let vs := (List.range 64).map fun j =>
        let k := 64 * (q % 2) + j
        Fmt.f32.ofNum 0 false ((Fmt.e4m3.decode (leNat (bytes (data + 128 * k + n) 1))).mul
          (Fmt.f32.decode (leNat (bytes (sc + 8 * k + 4 * (n / 64)) 4))))
      rebase Fmt.f32 vs
    let m := (segs.mapIdx fun q g => (q, g.1)).foldl (fun m e => wrBytes m (64 * e.1) e.2) []
    let ss := (segs.mapIdx fun q g => (q, g.2.1)).foldl (fun a e => tset 0 a e.1 (BitVec.ofNat 32 e.2)) []
    ({ bf16 := false, data := m, scales := ss, poison := false, undef := false, load := none }, (segs.map fun g => g.2.2).sum)

/-- Whether the queue lets the operation at a place start (R107). -/
def mayStart (q : List MatOp) (n : Nat) : Bool :=
  match q[n]? with
  | none => false
  | some o =>
    !o.started && match o.kind with
    | .wload _ _ _ _ _ => true
    | .wswap => false
    | .stream _ _ _ _ => (q.take n).all fun x => !x.streams && x.kind != .wswap

/-- The rows of a pass in order: each with the group it belongs to (R117, R119). -/
def passOf (ps : List Stream) : List (Stream × Nat) := (ps.map fun st => (List.range st.rows).map fun r => (st, r)).flatten

/-- The scratchpad ranges that one row of a pass reads: its data, its scales, and the outlier list (R116). -/
def rowRanges (fn : Nat) (list : Nat × Nat) (head : Nat) (q : Stream × Nat) : List (Nat × Nat × Nat) :=
  (if fn = 1 then [(q.1.block, q.1.data + 64 * q.2, 64)]
    else [(q.1.block, q.1.data + 128 * q.2, 128), (q.1.block, q.1.scale + 8 * q.2, 8)]) ++
    (if list.2 = 0 then [] else [(head, list.1, 4 * list.2)])

/-- The absent lines among some ranges (R110). -/
def State.absentIn (s : State) (rs : List (Nat × Nat × Nat)) : List Nat :=
  dedup ((rs.map fun r => match s.blockAt r.1 with
    | some b => b.absentOf (rangeLines [(r.2.1, r.2.2)])
    | none => []).flatten)

/-- What an operation would read next: a whole tile, or the next row of a pass (R110, R127). -/
def MatOp.next (o : MatOp) : List (Nat × Nat × Nat) :=
  match o.kind with
  | .stream fn ps ob oc =>
    match (passOf ps)[o.row]? with
    | some q => rowRanges fn (ob, oc) (match ps.head? with | some st => st.block | none => 0) q
    | none => []
  | _ => o.ranges

/-- The lines at which an operation stalls now and has not stalled before (R110). -/
def State.newStalls (s : State) (o : MatOp) : List Nat := (s.absentIn o.next).filter fun l => !o.stalled.contains l

/-- Whether the operation at a place of the queue stalls at a line now for the first time. -/
def State.stallsAt (s : State) (m : Mat) (n : Nat) : Bool := match m.queue[n]? with | some o => !(s.newStalls o).isEmpty | none => false

/-- A queue entry changed. -/
def State.modOp (s : State) (c p x n : Nat) (f : MatOp → MatOp) : State :=
  s.modMat c p x fun m => { m with queue := modAt m.queue n f }

/-- The stalls of a queue entry counted, once for each line (R110). -/
def State.stall (s : State) (c p x n : Nat) : State :=
  match (s.mat c p x).queue[n]? with
  | none => s
  | some o =>
    match s.newStalls o with
    | [] => s
    | ls => (s.modOp c p x n fun o => { o with stalled := o.stalled ++ ls }).count
        (s.matLoc (s.mat c p x) ((o.ranges.headD (0, 0, 0)).1)) 6 1 ls.length

/-- Whether a queue entry can start now: a load with its tile present, a pass at its first row (R107, R110). -/
def State.canStart (s : State) (m : Mat) (n : Nat) : Bool :=
  mayStart m.queue n && match m.queue[n]? with | some o => o.streams || (s.absentIn o.next).isEmpty | none => false

/-- The first queued operation that can start does so; those that stall on absent lines are counted (R107, R110). -/
def State.startMat (s : State) (c p x : Nat) : State :=
  let m := s.mat c p x
  let s := ((List.range m.queue.length).filter (mayStart m.queue)).foldl (fun s n => s.stall c p x n) s
  match (List.range m.queue.length).find? (s.canStart m) with
  | some n => s.modOp c p x n fun o => { o with started := true }
  | none => s

/-- WSWAP takes effect at the head of the queue (R107, R115). -/
def State.swapMat (s : State) (c p x : Nat) : State :=
  let m := s.mat c p x
  match m.queue with
  | o :: q => if o.kind = .wswap then (s.setMat { m with active := m.shadow, shadow := m.active, queue := q }).admitGang c p x else s
  | [] => s

/-- The accumulator store after some rows of a pass (R117). -/
def passRows (s : State) (m : Mat) (o : MatOp) (fn : Nat) (qs : List (Stream × Nat)) (outs : List Nat) : Table Word :=
  qs.foldl (fun acc q =>
    let st := q.1
    let mem := match s.blockAt st.block with | some b => b.scratch | none => []
    let w := if fn = 1 then 64 else 128
    let as := mixBytes mem o.mix st.block s.free (st.data + w * q.2) w
    let sas := if fn = 1 then [] else (List.range 2).map fun g => leNat (mixBytes mem o.mix st.block s.free (st.scale + 8 * q.2 + 4 * g) 4)
    (List.range 96).foldl (fun acc n =>
      let k := 96 * (st.row0 + q.2) + n
      tset 0 acc k (rowElem fn m.active as sas outs n (tget 0 acc k))) acc) m.acc

/-- Whether some ranges hold poisoned scratchpad data (R117). -/
def State.poisonIn (s : State) (rs : List (Nat × Nat × Nat)) : Bool :=
  rs.any fun r => match s.blockAt r.1 with | some b => b.poisonedAt r.2.1 r.2.2 | none => false

/-- An operation leaves the queue complete: its entry and its tokens are free (R107, R109, R117). -/
def Mat.finish (m : Mat) (n : Nat) (o : MatOp) : Mat :=
  { m with
    queue := m.queue.eraseIdx n, done := m.done ++ [o]
    badTokens := if o.bad then m.badTokens ++ o.tokens else m.badTokens }

/-- A WLOAD completes: the plane holds the tile (R109, R113). -/
def State.completeLoad (s : State) (c p x n : Nat) (o : MatOp) (t bf : Bool) (b data sc : Nat) : State :=
  let m := s.mat c p x
  let mem := match s.blockAt b with | some y => y.scratch | none => []
  let bad := s.poisonIn o.ranges
  let (pl, loss) := loadTile t bf (fun a k => mixBytes mem o.mix b s.free a k) data sc
  let pl := { pl with undef := o.undef, poison := bad, load := some o.id }
  let odd := swaps (m.queue.take n) % 2 = 1
  let m' := m.finish n { o with bad := bad }
  let s := (s.setMat { m' with
    active := if odd then pl else m.active, shadow := if odd then m.shadow else pl }).count (s.matLoc m b) 5 2 loss
  State.admitGang { s with free := if o.mix.isEmpty then s.free else s.free + 2 ^ 20 } c p x

/-- How many rows of a pass from a row on can be streamed now (R110). -/
def State.readyRows (s : State) (o : MatOp) (fn : Nat) (ps : List Stream) (list : Nat × Nat) (head : Nat) : List (Stream × Nat) :=
  ((passOf ps).drop o.row).takeWhile fun q => (s.absentIn (rowRanges fn list head q)).isEmpty

/-- A pass ends with its last row (R109, R112, R117): what R112 leaves undefined of it takes free values. -/
def State.endPass (s : State) (c p x n : Nat) (o : MatOp) (fn head : Nat) (bad : Nat) : State :=
  let m := s.mat c p x
  let w := s.matLoc m head
  let mismatch := m.active.bf16 != (fn == 1)
  let undef := o.undef || mismatch || o.bad || m.active.undef
  let s := s.setMat (m.finish n { o with plane := m.active.load })
  let s := (s.count w 6 2 (if mismatch then 1 else 0)).count w 6 3 bad
  (s.freeRows c p x (if undef then o.outRows else o.undefRows)).admitGang c p x

/-- A pass streams the rows whose lines are present, and ends with its last; it stalls at an absent line (R107, R110, R117). -/
def State.goPass (s : State) (c p x n : Nat) (o : MatOp) (fn : Nat) (ps : List Stream) (ob oc : Nat) : State :=
  let m := s.mat c p x
  let head := match ps.head? with | some st => st.block | none => 0
  let mem := match s.blockAt head with | some y => y.scratch | none => []
  let qs := s.readyRows o fn ps (ob, oc) head
  let list := outliers (mixBytes mem o.mix head s.free ob (4 * oc)) oc
  let bad := o.bad || m.active.poison || s.poisonIn ((qs.map (rowRanges fn (ob, oc) head)).flatten)
  let o := { o with row := o.row + qs.length, bad := bad }
  let dead := o.undef || bad || m.active.undef || m.active.bf16 != (fn == 1)
  let acc := if dead then m.acc else passRows s m o fn qs (list.filter outlierOk)
  let s := (s.setMat { m with acc := acc, queue := modAt m.queue n fun _ => o }).count (s.matLoc m head) 6 0 qs.length
  let s := { s with free := if o.mix.isEmpty then s.free else s.free + 2 ^ 20 }
  if o.row = (passOf ps).length then s.endPass c p x n o fn head (list.filter fun e => !outlierOk e).length
  else s.stall c p x n

/-- Whether a started operation can go on: a load, or a pass with a row to stream or a stall to count (R110). -/
def State.canGo (s : State) (o : MatOp) : Bool :=
  o.started && (!o.streams || (s.absentIn o.next).isEmpty || !(s.newStalls o).isEmpty)

/-- A started operation goes on, and completes when all that it reads is there (R107, R109, R110). -/
def State.completeMat (s : State) (c p x n : Nat) : State :=
  match (s.mat c p x).queue[n]? with
  | none => s
  | some o =>
    if !o.started then s
    else
      match o.kind with
      | .wswap => s
      | .wload t bf b data sc => s.completeLoad c p x n o t bf b data sc
      | .stream fn ps ob oc => s.goPass c p x n o fn ps ob oc

end Sys2Proof.Machine
end

