-- ==== Sys2Proof/Machine/Names.lean ====
section
/-! DEFINITION. Nameless storage, page requests and row operations (R174 to R181, R206 to R210). -/

namespace Sys2Proof.Machine

/-- The sectors of a stack that start a free chunk of m sectors of a context's pool within one row (R176). -/
def freeChunks (t : Tile) (ctx m : Nat) : List Nat :=
  let free := fun k => let e := tget 0 t.fsm k; bitsOf e 15 14 == 1 && bitsOf e 11 0 == ctx
  (t.fsm.map Prod.fst).filter fun k => decide (k % 8 + m ≤ 8) && (List.range m).all fun j => free (k + j)

/-- The free sectors of a context's pool in its partition (R178). -/
def State.freeSectors (s : State) (part ctx : Nat) : Nat :=
  ((List.range 20).map fun t =>
    if s.partOf t = part then
      ((s.tileAt t).fsm.filter fun e => bitsOf e.2 15 14 == 1 && bitsOf e.2 11 0 == ctx).length else 0).sum

/-- The state and owner of a sector set. -/
def State.setFsm (s : State) (sector : Nat) (e : BitVec 16) : State :=
  s.modTile (sector / 2 ^ 29) fun t => { t with fsm := tset 0 t.fsm (sector % 2 ^ 29) e }

/-- The low-water interrupt, once for each crossing from above (R178). -/
def State.lowWater (s : State) (part ctx before : Nat) : State :=
  match s.ctxAt ctx with
  | some c => if s.freeSectors part ctx < c.low ∧ c.low ≤ before then (s.irq c.vf 4).pfIrq 5 else s
  | none => s

/-- A place for a chunk of m sectors: the global number of its first sector; the issuing tile first (R176). -/
def State.placeChunk (s : State) (tile ctx m : Nat) : Option Nat × State :=
  let part := s.partOf tile
  let at_ := fun t => (freeChunks (s.tileAt t) ctx m).map fun k => t * 2 ^ 29 + k
  let own := at_ tile
  let all := ((List.range 20).map fun t => if s.partOf t = part then at_ t else []).flatten
  let cs := if own.isEmpty then all else own
  if cs.isEmpty then (none, s)
  else
    let (k, s) := s.choose cs.length
    (cs[k]?, s)

/-- The bytes of an STN's chunk (R206). -/
def stnBytes (i : Iss) (a : BitVec 7) (regs : Nat) : List Byte :=
  ((List.range i.g.grant).map fun l => ((List.range regs).map fun j =>
    if i.act.getLsbD l then leBytes 4 (i.rd a j l).toNat else leBytes 4 0).flatten).flatten

/-- STN (R206): the chunk is placed and performed at device scope; its name returns later. -/
def execStn (w : BitVec 2) (d a : BitVec 7) (p : BitVec 3) (s : State) : Host.Outcome State Fault Refusal :=
  let regs := 2 ^ w.toNat
  issue s { reads := [(a, regs)], writes := [(d, 2)], preds := [p], p6 := false } noTarget fun s i =>
    let c := i.g.grant * 4 * regs
    if c < 128 ∨ 1024 < c then .fault { code := 0x2B }
    else
      let part := s.partOf i.tile
      let before := s.freeSectors part i.g.ctx
      let (at_, s) := s.placeChunk i.tile i.g.ctx (c / 128)
      let (name, s) := match at_ with
        | none => ((0 : Addr), ((s.count i.tloc 7 1 1).irq i.vf 4).pfIrq 5)
        | some k =>
          let s := (List.range (c / 128)).foldl (fun (s : State) j =>
            s.setFsm (k + j) (BitVec.ofNat 16 (0x8000 + i.g.ctx % 4096))) s
          let s := s.sliceWrite i.loc (128 * k) (stnBytes i a regs)
          let s := s.count { i.tloc with idx := k / 2 ^ 29 } 7 0 1
          (paName (128 * k), s.lowWater part i.g.ctx before)
      (s.writePair i d i.act fun _ => name).andThen fun s =>
        let key := (regKey i.g.win d 0).getD 280
        let s := s.modIss i fun g =>
          let g := g.putPred i.act p.toNat (if name = 0 then 0 else ~~~0)
          { g with sb := g.sb ++ [(key, Pend.name), (key + 1, Pend.name), (predKey p.toNat, Pend.name)] }
        .done (s.modCore i.g.core fun k => { k with stns := k.stns ++ [⟨i.g.part, i.g.slot, i.b.id, key, p.toNat, i.act, name⟩] })

/-- NFENCE (R207). -/
def execNfence (s : State) : Host.Outcome State Fault Refusal :=
  issue s { guard := false, p6 := false } noTarget fun s i =>
    .done (s.returnNames i.g.core fun n => n.part == i.g.part && n.slot == i.g.slot)

/-- The check of a name and a size in RELQ (R208). -/
def relqCheck (s : State) (i : Iss) (n : Addr) (c : Nat) : Option Flt :=
  if n = 0 then none
  else if bitsOf n 63 56 ≠ 0xC5 then some { code := 0x22, addr := n }
  else if !(c == 128 || c == 256 || c == 512 || c == 1024) ∨ bitsOf n 9 0 % 128 ≠ 0 ∨ 1024 < bitsOf n 9 0 + c then
    some { code := 0x25, addr := n }
  else
    (List.range (c / 128)).findSome? fun j =>
      (s.nameCheck i.g.ctx (s.partOf i.tile) (n.toNat + 128 * j)).map fun e => { code := e, addr := n }

/-- RELQ (R208): the sectors go to state 3; their invalidation follows (R179). -/
def execRelq (a b : BitVec 7) (s : State) : Host.Outcome State Fault Refusal :=
  issue s { reads := [(a, 2), (b, 1)], p6 := false } noTarget fun s i =>
    match i.lanes.findSome? fun l => relqCheck s i (i.rd2 a l) (i.rd b 0 l).toNat with
    | some f => .fault f
    | none =>
      let secs := dedup ((i.lanes.map fun l =>
        if i.rd2 a l = 0 then [] else
          (List.range ((i.rd b 0 l).toNat / 128)).map fun j => namePa (i.rd2 a l).toNat / 128 + j).flatten)
      let hit := fun a n => secs.any fun k => meets (128 * k) 128 a n
      let s := s.drainFlight fun w => !w.link && hit w.addr w.bytes.length
      let s := (List.range 80).foldl (fun s c => s.drainWc c fun w => !w.link && hit w.addr 128) s
      let s := secs.foldl (fun s k =>
        (s.setFsm k (BitVec.ofNat 16 (0xC000 + i.g.ctx % 4096))).count { i.tloc with idx := k / 2 ^ 29 } 7 2 1) s
      .done { s with relqs := s.relqs ++ [⟨s.partOf i.tile, i.g.ctx, secs⟩] }

/-- Steps 2 and 3 of a RELQ (R179): every copy dropped, dirty data discarded, the sectors free. Bit 12 of a stored entry says
that they are free again (R177). -/
def State.freeSectorsOf (s : State) (r : Relq) : State :=
  let drop := fun (c : Nat) (k : Core) =>
    if s.partOf (tileOf c) = r.part then { k with l1 := k.l1.filter fun x => !r.sectors.contains (x.pa / 128) } else k
  let s := { s with cores := s.cores.mapIdx drop }
  let whole := dedup ((r.sectors.map fun k => k / 8).filter fun l => (List.range 8).all fun j => r.sectors.contains (8 * l + j))
  let s := whole.foldl (fun s l => s.dropL2 (l / 2 ^ 26) fun x => x == l % 2 ^ 26) s
  r.sectors.foldl (fun s k => s.setFsm k (BitVec.ofNat 16 (0x5000 + r.ctx % 4096))) s

/-- A page that PGREQ asks for in a lane: its address, the code and the cause a load would raise (R209). -/
def pgreqLane (s : State) (i : Iss) (l : Nat) (a : Addr) : Option (Nat × Nat × Nat) × State :=
  if (bitsOf a 63 56 = 0 ∧ !a.getLsbD 56) ∨ (bitsOf a 63 56 = 0xFF ∧ a.getLsbD 56) then
    match s.translate i l (a.toNat % 2 ^ 57) .read with
    | (.ok _ _, s) => (none, s)
    | (.bad c cause sz, s) => (some (a.toNat / max sz 65536 * max sz 65536, c, cause), s)
  else (none, s)

/-- PGREQ (R209). -/
def execPgreq (d a b : BitVec 7) (s : State) : Host.Outcome State Fault Refusal :=
  issue s { reads := [(a, 2), (b, 1)], from_ := lowAt 1, writes := [(d, 1)] } noTarget fun s i =>
    let o := (i.rd b 0 i.low).toNat
    match boCheck i o with
    | some f => .fault f
    | none =>
      let bad := i.lanes.findSome? fun l =>
        let a := i.rd2 a l
        let top := bitsOf a 63 56
        if (top = 0 ∧ !a.getLsbD 56) ∨ (top = 0xFF ∧ a.getLsbD 56) then
          (if a.toNat < 65536 then some ({ code := 0x21, addr := a } : Flt) else none)
        else if top = 0xC3 ∨ top = 0xC4 ∨ top = 0xC5 then none else some { code := 0x20, addr := a }
      match bad with
      | some f => .fault f
      | none =>
        let (ps, t) := i.lanes.foldl (fun (acc : List (Nat × Nat × Nat) × State) l =>
          let (r, s) := pgreqLane acc.2 i l (i.rd2 a l)
          (acc.1 ++ r.toList, s)) ([], s)
        let ps := dedup ps
        let waiting := (s.recs.filter fun r => r.core == i.g.core && !r.written).length
        if 64 < waiting + ps.length then .settled (s.modIss i fun g => { g with again := true })
        else
          let s := t.modBlock i.b.id fun x =>
            let w := boWord x.scratch o
            { x with scratch := wrBytes x.scratch o (leBytes 8 (boSet w (boCount w + ps.length) false).toNat) }
          let s := if ps = [] then s else (s.spoil i.b.id o 8).spoilOut i.b.id o 8
          let ep := (s.isoAt (s.partOf i.tile)).epoch
          let s := ps.foldl (fun s (va, c, cause) =>
            let (w, s) := s.faultRecord i.vf ⟨va, i.pc.toNat, i.g.ctx, 5, c, i.b.lin, i.g.index i.b, i.g.gslot, i.g.core, 0,
              o + (if c = 0x26 then cause * 2 ^ 32 else 0)⟩
            { s with recs := s.recs ++
              [(⟨i.vf, i.g.ctx, 5, va, 0, 0, false, i.g.core, i.g.part, i.g.slot, i.b.id, o, 0, w, ep, false⟩ : FRec)] }) s
          s.writeRegs i [⟨d, 0, i.act, fun _ => BitVec.ofNat 32 ps.length⟩]

/-- The translation of one row of a row operation (R210): windows and link pages have no rows. -/
def State.rowAt (s : State) (i : Iss) (a : Addr) (acc : Acc) : LaneChk × State :=
  let top := bitsOf a 63 56
  if top = 0xC3 ∨ top = 0xC4 ∨ top = 0xC5 then (.hard { code := 0x22, addr := a }, s)
  else
    match s.checkAddr i i.low a 1024 1024 acc with
    | (.ok (.link _), s) => (.hard { code := 0x22, addr := a }, s)
    | r => r

/-- The step of R184 at which a fault arises. -/
def faultStep (code : Nat) : Nat := if 0x20 ≤ code ∧ code ≤ 0x22 then 1 else if code = 0x25 then 2 else 5

/-- A fault of the first row operand that is no address of global memory, or of a count or an operand that the entry does not allow
(R184, R210; log 68). -/
def rowsFault (k : Nat) (dst : Addr) (src : Option Addr) : Option Flt :=
  let ops := dst :: src.toList
  match ops.findSome? fun a => (globalFault a).map fun c => (⟨c, a, none, 0, 0, []⟩ : Flt) with
  | some f => some f
  | none =>
    match ops.find? fun a => a.toNat % 1024 != 0 with
    | some a => some { code := 0x25, addr := a }
    | none => if k = 0 ∨ 1024 < k then some { code := 0x25, addr := dst } else none

/-- The checks of all rows of a row operation: the fault of the earliest step, or the distinct pages of recoverable ones, each with
whether the operation writes it (R184, R210, R325). -/
def gatherRows (rs : List (Bool × LaneChk)) (low : Nat) (s : State) : Checked :=
  let hard := rs.filterMap fun r => match r.2 with | .hard f => some f | _ => none
  match hard.find? fun f => hard.all fun g => decide (faultStep f.code ≤ faultStep g.code) with
  | some f => .fault f
  | none =>
    let soft := rs.filterMap fun r => match r.2 with | .soft c a p => some (r.1, c, a, p) | _ => none
    match soft with
    | [] => .ok (rs.filterMap fun r => match r.2 with | .ok p => some (low, p) | _ => none) s
    | _ =>
      let pages := dedup (soft.map fun x => (x.2.1, x.2.2.2))
      .soft (pages.filterMap fun pg =>
        let xs := soft.filter fun x => x.2.1 == pg.1 && x.2.2.2 == pg.2
        xs.head?.map fun x => (pg.1, x.2.2.1, softKind pg.1, if xs.any Prod.fst then 1 else 0, BitVec.ofNat 64 (2 ^ low))) s

/-- What the issuing core has under way for some lines performed before a row operation on them (R214, R225). -/
def State.settleRows (s : State) (i : Iss) (pas : List Nat) : State :=
  pas.foldl (fun s pa =>
    let s := s.drainWc i.g.core fun w => w.holds false i.vf pa 1024
    s.drainFlight fun w => w.core == i.g.core && !w.link && meets w.addr w.bytes.length pa 1024) s

/-- A row operation (R210). -/
def rowsOp (s : State) (d a b : BitVec 7) (copy : Bool) : Host.Outcome State Fault Refusal :=
  issue s { reads := [(a, if copy then 4 else 2), (b, 1)], from_ := fromLow, writes := [(d, 1)], p6 := false } noTarget fun s i =>
    let k := (i.rd b 0 i.low).toNat
    let dst := i.rd2 a i.low
    let src : Addr := i.rd a 3 i.low ++ i.rd a 2 i.low
    match rowsFault k dst (if copy then some src else none) with
    | some f => .fault f
    | none =>
      let row := fun (x : Addr) n => x + BitVec.ofNat 64 (1024 * n)
      let ask := ((List.range k).map fun n => (row dst n, Acc.write)) ++
        (if copy then (List.range k).map fun n => (row src n, Acc.read) else [])
      let (rs, s) := ask.foldl (fun (acc : List (Bool × LaneChk) × State) q =>
        let (r, s) := acc.2.rowAt i q.1 q.2
        (acc.1 ++ [(q.2 == .write, r)], s)) ([], s.settleStp i.g.core)
      match gatherRows rs i.low s with
      | .fault f => .fault f
      | .soft fs s => .settled (s.parkFault i fs)
      | .ok ps s =>
        let pas := ps.map fun p => match p.2 with | .mem pa _ _ => pa | _ => 0
        let ds := pas.take k
        let ss := pas.drop k
        let rows := ds.mapIdx fun n p => (p, if copy then ss[n]? else none)
        let key := (regKey i.g.win d 0).getD 280
        ((s.settleRows i pas).writeRegs i [⟨d, 0, i.set, fun _ => 0⟩]).andThen fun s =>
          let s := s.modIss i fun g => { g with sb := g.sb ++ [(key, .rows)] }
          .done { s with rowops := s.rowops ++
            [⟨i.g.core, i.g.part, i.g.slot, i.b.id, key, rows, false, ds.filter ss.contains⟩] }

/-- RZERO (R210). -/
def execRzero (d a b : BitVec 7) (s : State) : Host.Outcome State Fault Refusal := rowsOp s d a b false
/-- RCOPY (R210). -/
def execRcopy (d a b : BitVec 7) (s : State) : Host.Outcome State Fault Refusal := rowsOp s d a b true

/-- A row operation whose rows are all done frees its completion register (R210). -/
def State.rowDone (s : State) (n : Nat) : State :=
  match s.rowops[n]? with
  | none => s
  | some o =>
    if o.rows = [] then
      let s := { s with rowops := s.rowops.eraseIdx n }
      s.modGroup o.core o.part o.slot fun g =>
        if g.block = o.block then { g with sb := g.sb.filter fun e => !(e.1 == o.key && e.2 == .rows) } else g
    else s

end Sys2Proof.Machine
end

