-- ==== Sys2Proof/Machine/Control.lean ====
section
/-! DEFINITION. Threads, groups and runs: held threads, the ends of runs, code words, barriers, exits, the register pool and
role-collectives (R39 to R43, R230 to R247, R254 to R259). -/

namespace Sys2Proof.Machine

/-- NONE (R231). -/
def noMeet : Word := 0xFFFFFFFF

/-- Whether a lane's thread is held (R234). -/
def Group.held (g : Group) (l : Nat) : Bool :=
  let t := g.threadAt l
  t.live && t.meet != noMeet && t.pc == t.meet && g.threads.any fun u => u.live && u.meet == t.meet && u.pc != u.meet

/-- Whether a lane may issue while the group is in its trap handler (R330). -/
def Group.inTrap (g : Group) (l : Nat) : Bool := match g.trap with | some t => t.entered.getLsbD l | none => true

/-- Whether a lane's thread can be in an issue set: live, not held, not waiting (R232, R256, R330). -/
def Group.free (g : Group) (l : Nat) : Bool :=
  (g.threadAt l).live && !g.held l && (g.threadAt l).wait == .none && g.inTrap l

/-- C: the lanes that can be in an issue set, from lane ptr on and wrapping (R232). -/
def Group.candidates (g : Group) : List Nat := ((List.range g.grant).map fun k => (g.ptr + k) % g.grant).filter g.free

/-- Whether a thread waits at a barrier or a role-collective (R256). -/
def Thread.waits (t : Thread) : Bool := t.live && match t.wait with | .block _ | .cluster _ | .coll => true | _ => false

/-- The state of a group that issues nothing and is parked for nothing else (R247, R256). -/
def Group.rest (g : Group) : GStat :=
  if g.liveMask = 0 then .exited
  else if !g.candidates.isEmpty then .eligible
  else if g.threads.any Thread.waits then .parked .barrier
  else .held

/-- A group whose threads may have been released or held since it last issued. -/
def Group.refresh (g : Group) : Group :=
  match g.status with
  | .eligible | .held | .parked .barrier => if g.cont then g else { g with status := g.rest }
  | _ => g

/-- All groups looked at again. -/
def State.refresh (s : State) : State := { s with groups := s.groups.map Group.refresh }

/-- The run or tail of the issue set ends: ptr moves on (R232), and the group is where its threads leave it. -/
def Group.endSet (g : Group) : Group :=
  let live := (lanesOf g.iset g.grant).filter fun l => (g.threadAt l).live
  let g := match live.getLast? with | some l => { g with ptr := (l + 1) % g.grant } | none => g
  let g := { g with cont := false, again := false, pos := 0, pfx := Pfx.none, busy := 0 }
  { g with status := g.rest }

/-- Lanes of the issue set left at the next word as the tail of their run (R40). -/
def Group.tailAt (g : Group) (m : Mask) : Group :=
  g.modThreads m fun t => { t with pc := t.pc + 4, tail := true, pos := g.pos + 1, via := false }

/-- Lanes of the issue set sent to other places; the others become the tail, and the run ends (R40, R249). -/
def Group.go (g : Group) (taken : Mask) (tgt : Nat → Word) : Group :=
  let g := g.tailAt (g.iset &&& ~~~taken)
  let g := { g with threads := g.threads.mapIdx fun l (t : Thread) =>
    if taken.getLsbD l then { t with pc := tgt l, tail := false, pos := 0, via := true } else t }
  g.endSet

/-- A code word of the issuing group's code, fetched ahead of its issue: a recoverable fault, or the word when it can be read. A word
that cannot be read is no END and no list word here; its own fault is raised only when it is issued (R39, R287; log 70). -/
def State.peek (s : State) (i : Iss) (off : Word) : Except Flt (Option Word) :=
  match (s.codeWord i.g.core i.g.ctx i.b.base off).1 with
  | .ok w => .ok (some w)
  | .error f => if faultClass f.code false = 0 then .error f else .ok none

/-- Whether a word is an END (R34). -/
def isEnd (w : Word) : Bool := w.toNat / 2 ^ 23 == 0x1F8
/-- Whether a word is a target-list word (R43). -/
def isList (w : Word) : Bool := w.toNat / 2 ^ 26 == 0x3E

/-- The entry points that a block's kernel header declares (R39). -/
def Block.entries (b : Block) : List Word := b.roles.map Role.entry ++ b.trapEnt.toList

/-- The words that tell whether an offset is a run start (R42). -/
def Iss.startWords (i : Iss) (off : Word) : List Word :=
  if i.b.entries.contains off ∨ off.toNat % 4 ≠ 0 ∨ off = 0 then [] else [off - 4, off]

/-- Why an offset is no run start: RUNTGT, or the recoverable fault of the fetch that would tell (R42). -/
def State.runStart (s : State) (i : Iss) (off : Word) : Option Flt :=
  if i.b.entries.contains off then none
  else if off.toNat % 4 ≠ 0 ∨ off = 0 then some { code := 0x05 }
  else
    match s.peek i (off - 4), s.peek i off with
    | .error f, _ => some f
    | _, .error f => some f
    | .ok before, .ok here =>
      if (before.any fun w => isEnd w || isList w) && !here.any isList then none else some { code := 0x05 }

/-- The trailer of the run that issues, found by fetching forward (R250). -/
def State.trailer (s : State) (i : Iss) : Except Flt Word :=
  let go := fun (acc : Option (Except Flt Word)) k =>
    match acc with
    | some r => some r
    | none =>
      let off := i.pc + BitVec.ofNat 32 (4 * (k + 1))
      match s.peek i off with
      | .error f => some (.error f)
      | .ok w =>
        if w.any isEnd then some (.ok off)
        else if i.g.posAt i.pc + k + 1 = 24 then some (.error { code := 0x04, at_ := some off })
        else none
  match (List.range 24).foldl go none with
  | some r => r
  | none => .error { code := 0x04, at_ := some i.pc }

/-- The words from the one after an instruction's own up to an offset. -/
def Iss.ahead (i : Iss) (till : Word) : List Word :=
  (List.range ((till - i.pc).toNat / 4)).map fun k => i.pc + BitVec.ofNat 32 (4 * (k + 1))

/-- The first offset from one on whose word is no target-list word (R250). -/
def State.pastList (s : State) (i : Iss) : Nat → Word → Except Flt Word
  | 0, off => .ok off
  | n + 1, off =>
    match s.peek i off with
    | .error f => .error f
    | .ok w => if w.any isList then s.pastList i n (off + 4) else .ok off

/-- The live threads of a block, by thread index. -/
def State.liveOf (s : State) (b : Block) : List Nat :=
  ((s.groups.filter fun g => g.block == b.id).map fun g => (lanesOf g.liveMask g.grant).map (g.thread b)).flatten

/-- The live threads of a cluster: 2,048 times the block's rank plus the thread index. -/
def State.liveOfCluster (s : State) (c : Nat) : List Nat :=
  ((s.blocks.filter fun b => b.cluster == c).map fun b => (s.liveOf b).map fun t => 2048 * b.rank + t).flatten

/-- Whether a barrier's phase is complete (R255). -/
def Barrier.complete (b : Barrier) (live : List Nat) : Bool :=
  decide (0 < b.arrived) && match b.expect with | some n => b.arrived == n | none => live.all b.opens.contains

/-- A phase closed: every open arrival of it closes. -/
def Barrier.close (b : Barrier) : Barrier := { b with phase := !b.phase, arrived := 0, opens := [] }

/-- One thread's arrival (R255): the barrier, and whether the phase has completed. -/
def Barrier.arrive (b : Barrier) (th : Nat) (c : Option Nat) (live : List Nat) : Barrier × Bool :=
  let b := { b with expect := if b.arrived = 0 then c else b.expect, arrived := b.arrived + 1, opens := b.opens ++ [th] }
  if b.complete live then (b.close, true) else (b, false)

/-- A block barrier changed. -/
def State.modBar (s : State) (b n : Nat) (f : Barrier → Barrier) : State :=
  s.modBlock b fun x => { x with bars := modAt x.bars n f }

/-- A cluster barrier changed. -/
def State.modCbar (s : State) (c n : Nat) (f : Barrier → Barrier) : State :=
  { s with clusters := s.clusters.map fun (x : Cluster) => if x.id = c then { x with bars := modAt x.bars n f } else x }

/-- The threads of some blocks that wait at something go on; each core acquires (R221, R256). -/
def State.wake (s : State) (hit : Block → Bool) (w : Wait) (scope : Nat) : State :=
  let bs := s.blocks.filter hit
  let waiting := fun (g : Group) => bs.any (fun b => b.id == g.block) && g.threads.any fun t => t.wait == w
  let cores := dedup ((s.groups.filter waiting).map fun g => (g.core, g.ctx))
  let up := fun (t : Thread) => if t.wait = w then { t with wait := Wait.none } else t
  let s := { s with groups := s.groups.map fun (g : Group) => if waiting g then { g with threads := g.threads.map up } else g }
  cores.foldl (fun s k => s.acquireCore k.1 k.2 scope) s

/-- Barriers that count all participants are looked at again after an exit (R255). -/
def State.recheckBars (s : State) (b : Block) : State :=
  let live := s.liveOf b
  let done := (List.range 16).filter fun n => match b.bars[n]? with | some x => x.expect == none && x.complete live | none => false
  let s := done.foldl (fun s n => (s.modBar b.id n Barrier.close).wake (fun x => x.id == b.id) (.block n) 1) s
  match s.clusters.find? fun c => c.id == b.cluster with
  | none => s
  | some c =>
    let live := s.liveOfCluster c.id
    let done := (List.range 8).filter fun n => match c.bars[n]? with | some x => x.expect == none && x.complete live | none => false
    done.foldl (fun s n => (s.modCbar c.id n Barrier.close).wake (fun x => x.cluster == c.id) (.cluster n) 2) s

/-- What a partition of a core holds: its used slots, its used bytes, the groups of one block (R237, R238). -/
structure PartUse where
  slots : List Nat
  bytes : Nat
  own : Nat

/-- The charge of a group against its partition's pool (R237). -/
def State.charge (s : State) (g : Group) : Nat :=
  match s.blockAt g.block with
  | some b => (match b.roles[g.role]? with | some r => g.grant * r.allot * 4 | none => 0)
  | none => 0

/-- The use of a partition of a core, some groups counted as removed (R237, R243). -/
def State.partUse (s : State) (core block : Nat) (skip : Group → Bool) (p : Nat) : PartUse :=
  let gs := s.groups.filter fun g => g.core == core && g.part == p && !skip g
  let spare := ((s.blocks.filter fun b => b.core == core).map fun b => 4 * b.spare.getD p 0).sum
  { slots := gs.map Group.slot, bytes := (gs.map s.charge).sum + spare, own := (gs.filter fun g => g.block == block).length }

/-- Groups of one charge placed one by one (R238): each one's partition and slot, and the use afterwards. -/
def placeGroups (charge : Nat) (pmask : BitVec 4) : Nat → List PartUse → Option (List (Nat × Nat) × List PartUse)
  | 0, us => some ([], us)
  | n + 1, us =>
    let ok := fun p => match us[p]? with
      | some u => pmask.getLsbD p && decide (u.slots.length < 16) && decide (u.bytes + charge ≤ 262144)
      | none => false
    let ps := (List.range 4).filter ok
    let own := fun (p : Nat) => (match us[p]? with | some u => u.own | none => 0 : Nat)
    match ps.find? fun p => ps.all fun q => decide (own p ≤ own q) with
    | none => none
    | some p =>
      match us[p]? with
      | none => none
      | some u =>
        let slot := ((List.range 16).find? fun k => !u.slots.contains k).getD 0
        let us := modAt us p fun u => { slots := slot :: u.slots, bytes := u.bytes + charge, own := u.own + 1 }
        match placeGroups charge pmask n us with
        | some (xs, us) => some ((p, slot) :: xs, us)
        | none => none

/-- MAXG of a core (R19, R21). -/
def Core.maxG (c : Core) : Nat := if c.harv.isSome then 32 else 64

/-- The grant of a role and the places of its groups, largest first (R237). -/
def grantRole (maxg : Nat) (r : Role) (request : Nat) (us : List PartUse) : Option (Nat × List (Nat × Nat) × List PartUse) :=
  [64, 32, 16].findSome? fun g =>
    if r.minW ≤ g ∧ g ≤ min request maxg then
      match placeGroups (g * r.allot * 4) r.pmask (r.threads / g) us with
      | some (xs, us) => some (g, xs, us)
      | none => none
    else none

/-- A thread that has exited, as a lane of a re-formed group. -/
def deadThread : Thread := Group.liveMask.default0

/-- The old group and lane of a role-thread index (R230). -/
def oldLane (gs : List Group) (t : Nat) : Option (Group × Nat) :=
  (gs.find? fun g => decide (g.gix * g.grant ≤ t) && decide (t < g.gix * g.grant + g.grant)).map fun g => (g, t - g.gix * g.grant)

/-- A group of a re-formed role (R239): its threads keep their registers, predicates, MEET, stacks, PCs and traps (R330, R333); on restore
each starts a new run where it stopped (R241). The rule does not name MTO: the model clears it (log 81). -/
def reformed (gs : List Group) (core grant k p slot : Nat) (regrant : Bool) : Option Group :=
  let src := (List.range grant).map fun l => oldLane gs (k * grant + l)
  match src.findSome? id with
  | none => none
  | some (g0, _) =>
    let th := src.map fun x => match x with
      | some (g, l) =>
        let t := g.threadAt l
        { t with x := List.replicate 8 0, xmark := 0, tail := !regrant && t.tail, pos := if regrant then 0 else t.pos, via := false }
      | none => deadThread
    let reg := fun n => VReg.val <| src.map fun x => match x with
      | some (g, l) => (match g.regs.getD n (.val []) with | .val v => v.getD l 0 | .px _ _ => 0)
      | none => 0
    let pred := fun n => maskOf grant fun l => match src.getD l none with | some (g, j) => (g.preds.getD n 0).getLsbD j | none => false
    let first := match src.head? with | some (some (g, _)) => g | _ => g0
    let traps := (src.mapIdx fun n x => match x with
      | some (g, l) => g.trap.toList.filterMap fun t => if t.entered.getLsbD l then some (n, t, l) else none
      | none => []).flatten
    let of := fun (n : Nat) => traps.find? fun x => x.1 == n
    let trap := match traps with
      | [] => none
      | (_, t, _) :: _ => some {
          entered := maskOf grant fun n => (of n).isSome
          fpc := (List.range grant).map fun n => match of n with | some (_, t, l) => t.fpc.getD l 0 | none => 0
          runpos := (List.range grant).map fun n => match of n with | some (_, t, l) => t.runpos.getD l 0 | none => 0
          tkinds := (List.range grant).map fun n => match of n with | some (_, t, l) => t.tkinds.getD l 0 | none => 0
          code := match traps.find? fun x => x.2.1.tkinds.getD x.2.2 0 == 4 with | some x => x.2.1.code | none => t.code
          held := dedup (traps.map fun x => x.2.1.held).flatten }
    let bad := (src.mapIdx fun n x => match x with
      | some (g, l) => (g.rpoison.filter fun e => e.2 == l).map fun e => (e.1, n)
      | none => []).flatten
    some { first with
      core := core, part := p, slot := slot, gix := k, grant := grant, threads := th, regs := (List.range 256).map reg,
      preds := (List.range 7).map pred, gang := 0, regrant := regrant, mto := false, ptr := 0, cychi := 0, cntLatch := 0,
      status := .eligible, iset := 0, cont := false, again := false, stall := 0, pos := 0, pfx := Pfx.none, sb := [], skip := 0, yielded := false,
      timers := [], records := 0, refused := none, resumed := none, trap := trap, busy := 0, through := false, stopped := false,
      rpoison := bad }

/-- The results that the groups of a role wait for are all delivered before the groups are re-formed. -/
def State.settleGroup (s : State) (g : Group) : State :=
  let s := s.drainHomes g.core
  let mine := fun (p k : Nat) => p == g.part && k == g.slot
  let as := (s.coreAt g.core).answers.filter fun a => mine a.part a.slot
  let s := s.modCore g.core fun k => { k with answers := k.answers.filter fun a => !mine a.part a.slot }
  let s := as.foldl (fun s a => s.takeAnswer g.core a) s
  let s := s.returnNames g.core fun n => mine n.part n.slot
  let s := ((List.range s.rowops.length).filter fun n => (s.rowops[n]?).any fun o => o.core == g.core && mine o.part o.slot).foldl
    (fun s n => ((List.range ((s.rowops[n]?).elim 0 fun o => o.rows.length)).foldl (fun s _ => s.rowTurn n) s)) s
  let s := { s with rowops := s.rowops.filter fun o => !(o.core == g.core && mine o.part o.slot) }
  s.modGroup g.core g.part g.slot fun g => { g with sb := [] }

/-- What a group that is re-formed leaves behind: its lanes' page registers are cleared (R290), and its outstanding fault records
hold no group any more (R241). -/
def State.leaveSlot (s : State) (g : Group) : State :=
  State.modCore { s with recs := s.recs.map fun (r : FRec) =>
      if r.core = g.core ∧ r.part = g.part ∧ r.slot = g.slot ∧ r.block = g.block ∧ r.kind ≤ 4 then { r with stale := true } else r }
    g.core fun (k : Core) => { k with lpr := k.lpr.filter fun e => !(e.1.1 == g.part && decide (e.1.2 < g.grant)) }

/-- A role's groups re-formed under a grant (R239). -/
def State.reform (s : State) (b : Block) (role grant : Nat) (places : List (Nat × Nat)) (regrant : Bool) : State :=
  let mine := fun (g : Group) => g.block == b.id && g.role == role
  let s := (s.groups.filter mine).foldl (fun s g => s.settleGroup g) s
  let gs := s.groups.filter mine
  let s := gs.foldl State.leaveSlot s
  let new := (places.mapIdx fun k q => reformed gs b.core grant k q.1 q.2 regrant).filterMap id
  let new := new.filter fun g => g.liveMask != 0
  let s := s.modBlock b.id fun x => { x with roles := modAt x.roles role fun r => { r with grant := grant } }
  { s with groups := s.groups.filter (fun g => !mine g) ++ new }

/-- A register number above a role's nameable range (R233, R243). -/
def nameable (r : Role) (depth : Nat) : Nat := r.allot - depth

/-- Registers of a group from a number on released and zero, each release a command of its own; words that are still on their way to
them are lost (R134, R139, R243). -/
def State.dropRegs (s : State) (g : Group) (from_ : Nat) : State :=
  let px := (g.regs.drop from_).filterMap fun r => match r with | .px h k => some (h, k) | .val _ => none
  let lost := fun (k : Nat) => decide (from_ ≤ k) && decide (k < 256)
  let s := s.modGroup g.core g.part g.slot fun g => { g with
    regs := g.regs.mapIdx (fun n r => if from_ ≤ n then .val (List.replicate g.grant 0) else r)
    rpoison := g.rpoison.filter (fun e => decide (e.1 < from_))
    sb := g.sb.filter fun e => !lost e.1 }
  let s := State.modCore { s with homeq := s.homeq.filter fun o => !(o.core == g.core && match o.kind with
      | .bring _ _ p k key => p == g.part && k == g.slot && lost key
      | _ => false) } g.core fun (k : Core) => { k with
    answers := k.answers.filter fun a => !(a.part == g.part && a.slot == g.slot && a.pred.isNone && lost a.key) }
  let w := s.whereOf g.core g.ctx 0
  px.foldl (fun s q => s.releaseAlone { w with part := g.part } g.core g.ctx g.gslot q.1 q.2) s

/-- The threads of a role's resident groups on a partition (R243). -/
def State.threadsOn (s : State) (b role p : Nat) : Nat :=
  ((s.groups.filter fun g => g.block == b && g.role == role && g.part == p).map Group.grant).sum

/-- The groups of a role. -/
def State.roleGroups (s : State) (b role : Nat) : List Group := s.groups.filter fun g => g.block == b && g.role == role

/-- The threads of a role that have arrived go on from a collective (R242). -/
def State.resumeColl (s : State) (b role : Nat) : State :=
  let s := s.modBlock b fun x => { x with roles := modAt x.roles role fun r => { r with coll := [] } }
  { s with groups := s.groups.map fun (g : Group) =>
      if g.block = b ∧ g.role = role then
        let g := { g with threads := g.threads.map fun (t : Thread) => if t.wait = Wait.coll then { t with wait := .none } else t }
        match g.status with
        | .parked .claim => { g with status := g.rest }
        | _ => g.refresh
      else g }

/-- Groups by their partitions, and by their slots within one (R335). -/
def byPlace (gs : List Group) : List Group :=
  gs.foldl (fun acc g =>
    (acc.filter fun h => decide (h.gslot ≤ g.gslot)) ++ g :: acc.filter fun h => decide (g.gslot < h.gslot)) []

/-- A fault of a role-collective, at every arrived thread's address (R242, R259). -/
def State.faultColl (s : State) (b : Block) (role code : Nat) : State :=
  let gs := byPlace (s.roleGroups b.id role)
  let came := match b.roles[role]? with | some r => r.coll.map Prod.fst | none => []
  let s := s.resumeColl b.id role
  gs.foldl (fun s g =>
    let lanes := maskOf g.grant fun l => came.contains (g.thread b l) && (g.threadAt l).live
    if lanes = 0 then s
    else
      let vf := match s.ctxAt g.ctx with | some x => x.vf | none => 0
      let seq := match s.launchAt b.launch with | some l => l.seq | none => 0
      s.takeFault g b ⟨false, g.core, g.part, g.ctx, vf, seq⟩ (g.withHelpers lanes) lanes { code := code }
        (fun l => (g.threadAt l).pc - 4) (fun l => (g.threadAt l).pos - 1) [] []) s

/-- The checks of a collective once all have arrived, in the order of R259. -/
def State.collFault (s : State) (b : Block) (role : Nat) (r : Role) (i : Instr) : Option Nat :=
  let d8 := (b.depth + 7) / 8 * 8 + 8
  if r.coll.any fun e => e.2 != i then some 0x0E
  else
    match i with
    | .width w =>
      if 16 * 2 ^ w.toNat < r.minW then some 0x0C
      else if r.locked then some 0x0D
      else if (s.roleGroups b.id role).any fun g => g.regs.any fun x => match x with | .px _ _ => true | _ => false then some 0x07
      else none
    | .wlock => if r.locked then some 0x0D else none
    | .wfree => if r.locked then none else some 0x0D
    | .rclaim n => if n.toNat % 8 ≠ 0 ∨ (n.toNat ≠ 0 ∧ 256 < r.allot + n.toNat) then some 0x0F else none
    | .rgive n => if n.toNat % 8 ≠ 0 ∨ (n.toNat ≠ 0 ∧ r.allot < n.toNat + d8) then some 0x0F else none
    | _ => none

/-- A role changed. -/
def State.modRole (s : State) (b role : Nat) (f : Role → Role) : State :=
  s.modBlock b fun x => { x with roles := modAt x.roles role f }

/-- The spare of each partition of a block changed by a role's threads there (R243). -/
def State.modSpare (s : State) (b role : Nat) (f : Nat → Nat → Nat) : State :=
  let on := (List.range 4).map (s.threadsOn b role)
  s.modBlock b fun x => { x with spare := x.spare.mapIdx fun p n => f n (on.getD p 0) }

/-- What a collective does once every live thread of its role has arrived: nothing yet when it must wait for its claim
(R239, R240, R243). R241 speaks of a role's last WIDTH request: a WIDTH that still waits is none in the model (log 81). -/
def State.collDo (s : State) (b : Block) (role : Nat) (r : Role) (i : Instr) : Option State :=
  match i with
  | .wlock => some ((s.modRole b.id role fun r => { r with locked := true }).resumeColl b.id role)
  | .wfree => some ((s.modRole b.id role fun r => { r with locked := false }).resumeColl b.id role)
  | .rgive n =>
    let s := s.modRole b.id role fun r => { r with allot := r.allot - n.toNat }
    let s := s.modSpare b.id role fun x t => x + n.toNat * t
    let s := (s.roleGroups b.id role).foldl (fun s g => s.dropRegs g (r.allot - n.toNat - b.depth)) s
    some (s.resumeColl b.id role)
  | .rclaim n =>
    if (List.range 4).all fun p => decide (n.toNat * s.threadsOn b.id role p ≤ b.spare.getD p 0) then
      let s := s.modRole b.id role fun r => { r with allot := r.allot + n.toNat }
      let s := s.modSpare b.id role fun x t => x - n.toNat * t
      some (s.resumeColl b.id role)
    else none
  | .width w =>
    let mine := fun (g : Group) => g.block == b.id && g.role == role
    let us := (List.range 4).map (s.partUse b.core b.id mine)
    match grantRole (s.coreAt b.core).maxG r (16 * 2 ^ w.toNat) us with
    | none => none
    | some (g, places, _) =>
      let s := s.modRole b.id role fun r => { r with request := some (16 * 2 ^ w.toNat) }
      let s := s.resumeColl b.id role
      some ((s.reform b role g places false).refresh)
  | _ => some s

/-- A role that a block does not have. -/
def deadRole : Role :=
  { entry := 0, threads := 0, allot := 0, minW := 0, prefW := 0, cls := 0, pmask := 0, grant := 0, request := none, locked := false,
    coll := [] }

/-- A role-collective completes, faults or waits for its claim (R242, R259). -/
def State.tryColl (s : State) (bid role : Nat) : State :=
  match s.blockAt bid with
  | none => s
  | some b =>
    match b.roles[role]? with
    | none => s
    | some r =>
      match r.coll.head? with
      | none => s
      | some (_, i) =>
        let away := fun (g : Group) => (lanesOf g.liveMask g.grant).any fun l => !r.coll.any fun e => e.1 == g.thread b l
        if (s.roleGroups bid role).any away then s
        else
          match s.collFault b role r i with
          | some c => s.faultColl b role c
          | none =>
            match s.collDo b role r i with
            | some s => s
            | none =>
              { s with groups := s.groups.map fun (g : Group) =>
                  if g.block = bid ∧ g.role = role ∧ g.candidates = [] then { g with status := .parked .claim } else g }

/-- Claims that wait are tried again once pool or slots have been freed on a core (R239, R243). -/
def State.retryClaims (s : State) (core : Nat) : State :=
  let ws := ((s.blocks.filter fun b => b.core == core).map fun b => (List.range b.roles.length).filterMap fun n =>
    if (b.roles.getD n deadRole).coll.isEmpty then none else some (b.id, n)).flatten
  ws.foldl (fun s q => s.tryColl q.1 q.2) s

/-- The blocks that a matrix operation works for. -/
def MatOp.blocks (o : MatOp) : List Nat := o.block :: o.ranges.map Prod.fst

/-- Whether work of a block is still under way: copies, row operations, names, matrix operations (R257). -/
def State.blockBusy (s : State) (b : Block) : Bool :=
  (s.coreAt b.core).reqs.any (fun r => r.block == b.id) || s.rowops.any (fun o => o.block == b.id) ||
  (s.coreAt b.core).stns.any (fun n => n.block == b.id) ||
  s.mats.any fun m => m.core == b.core && m.queue.any fun o => o.blocks.contains b.id

/-- A block whose threads have all exited and whose work is done is released (R257). -/
def State.reap (s : State) (bid : Nat) : State :=
  match s.blockAt bid with
  | none => s
  | some b =>
    if s.groups.any (fun g => g.block == bid) ∨ s.blockBusy b then s
    else
      let s := { s with blocks := s.blocks.filter fun x => x.id != bid }
      let s := if s.blocks.any fun x => x.cluster == b.cluster then s
        else { s with clusters := s.clusters.filter fun c => c.id != b.cluster }
      let s := s.modLaunch b.launch fun l => { l with ended := l.ended + 1 }
      let w : Where := ⟨true, tileOf b.core, 0, b.ctx, (match s.ctxAt b.ctx with | some c => c.vf | none => 0),
        (match s.launchAt b.launch with | some l => l.seq | none => 0)⟩
      let tq := match s.launchAt b.launch with | some l => l.taskq | none => 0
      let s := s.trace w { cmdseq := w.seq, taskq := tq, engine := 128, kind := 5, val := b.lin, ctx := b.ctx, core := b.core }
      s.retryClaims b.core

/-- Every block without groups looked at again. -/
def State.reapAll (s : State) : State := (s.blocks.map Block.id).foldl State.reap s

/-- A group whose last thread has exited frees its slot, its charge and its references (R139, R257). -/
def State.groupGone (s : State) (g : Group) : State :=
  let mine := fun (p k : Nat) => p == g.part && k == g.slot
  let px := g.regs.filterMap fun r => match r with | .px h k => some (h, k) | .val _ => none
  let s := { s with
    groups := s.groups.filter (fun x => !x.isAt g.core g.part g.slot),
    reads := s.reads.filter fun r => !(r.core == g.core && mine r.part r.slot),
    homeq := s.homeq.filter fun o => !(o.core == g.core && match o.kind with
      | .compare _ _ _ _ _ p k _ => mine p k
      | .bring _ _ p k _ => mine p k
      | _ => false) }
  let s := s.modCore g.core fun c => { c with answers := c.answers.filter fun a => !mine a.part a.slot }
  let s := px.foldl (fun s q => s.release g.core g.ctx g.gslot q.1 q.2) s
  let w := { s.whereOf g.core g.ctx 0 with part := g.part }
  let s := match g.trap with | some t => s.releaseHeld w g.core g.ctx g.gslot t.held | none => s
  let s := s.count w 4 1 (16 * (dedup (px.map Prod.fst)).length)
  let m := s.mat g.core g.part g.ctx
  let dead := (m.latch.filter fun e => (gangSlots e.gang).contains g.slot).map Latch.slot
  let s := s.faultAll g.core g.part 0x3A dead
  s.retryClaims g.core

/-- After threads of a block have exited: barriers, collectives, meetings and the block itself (R257). -/
def State.afterExit (s : State) (bid : Nat) : State :=
  match s.blockAt bid with
  | none => s
  | some b =>
    let s := s.recheckBars b
    let s := (List.range b.roles.length).foldl (fun s r =>
      let s := if (s.roleGroups bid r).any fun g => g.liveMask != 0 then s else s.modRole bid r fun r => { r with locked := false, coll := [] }
      s.tryColl bid r) s
    s.refresh.reap bid

end Sys2Proof.Machine
end

