-- ==== Sys2Proof/Machine/Launch.lean ====
section
/-! DEFINITION. Launch records, launch queues, kernel headers and the placement of blocks (R228, R245, R264 to R275). -/

namespace Sys2Proof.Machine

/-- Whether a 64-bit address is a canonical global address (R156). -/
def globalAddr (a : Nat) : Bool := decide (a < 2 ^ 56) || decide (0xFF00000000000000 ≤ a)

/-- The address fields of a launch record. -/
def launchKhdr (r : List Byte) : Nat := fieldAt r 0 8
/-- WAITADDR. -/
def launchWait (r : List Byte) : Nat := fieldAt r 8 8
/-- CPLADDR. -/
def launchCpl (r : List Byte) : Nat := fieldAt r 16 8
/-- CTL. -/
def launchCtl (r : List Byte) : BitVec 8 := BitVec.ofNat 8 (fieldAt r 41 1)
/-- The grid's dimensions in blocks. -/
def launchGrid (r : List Byte) : Nat × Nat × Nat := (fieldAt r 32 4, fieldAt r 36 2, fieldAt r 38 2)
/-- PRIO. -/
def launchPrio (r : List Byte) : Nat := bitsOf (launchCtl r) 1 0
/-- CSIZE. -/
def launchCsize (r : List Byte) : Nat := fieldAt r 40 1

/-- Whether an optional word's address is wrong (R267). -/
def badWordAddr (a : Nat) (en : Bool) : Bool :=
  a % 4 != 0 || !globalAddr a || (en && a == 0) || (!en && a != 0)

/-- Whether a launch record is malformed (R266, R267). -/
def malformedLaunch (r : List Byte) : Bool :=
  let c := launchCtl r
  let k := launchKhdr r
  let (x, y, z) := launchGrid r
  let cs := launchCsize r
  let n := fieldAt r 42 1
  bitsOf c 7 5 != 0 || fieldAt r 43 1 != 0 || decide (5 < n) ||
  (List.range 5).any (fun i => decide (n ≤ i) && fieldAt r (44 + 4 * i) 4 != 0) ||
  k == 0 || k % 16 != 0 || !globalAddr k ||
  badWordAddr (launchWait r) (c.getLsbD 2) || badWordAddr (launchCpl r) (c.getLsbD 3) ||
  cs == 0 || decide (4 < cs) || x % max cs 1 != 0 || decide (2 ^ 32 ≤ x * y * z)

/-- A read of bytes in one page by a unit of a tile, at the L2 slice (R156, R157, R228, R272); the number of the fault that it meets, of
POISON when the bytes are poisoned (log 79). -/
def State.readVa (s : State) (tile ctx va n : Nat) : Except Nat (List Byte) × State :=
  match s.reach tile ctx (BitVec.ofNat 64 va) .read with
  | (.bad c _ _, s) => (.error c, s)
  | (.ok pa w, s) =>
    match s.agentRead tile ctx pa n w with
    | ((bs, false), s) => (.ok bs, s)
    | ((_, true), s) => (.error 0x2F, s)

/-- Where a launch's events are counted. -/
def State.launchLoc (s : State) (l : Launch) : Where :=
  ⟨true, l.tile, 0, l.ctx, (match s.ctxAt l.ctx with | some c => c.vf | none => 0), l.seq⟩

/-- A dispatcher's trace record: a launch ready or complete, or a fault with its number and address (R314). -/
def State.traceLaunch (s : State) (l : Launch) (kind : Nat) (code addr : Nat := 0) : State :=
  s.trace (s.launchLoc l)
    { cmdseq := l.seq, taskq := l.taskq, engine := 128, kind := kind, tag := code % 256, val := addr % 2 ^ 32, ctx := l.ctx }

/-- A launch dropped with one record of kind LAUNCHHDR and an interrupt (R272, R314). -/
def State.dropLaunch (s : State) (l : Launch) (code addr : Nat) : State :=
  let vf := match s.ctxAt l.ctx with | some c => c.vf | none => 0
  let s := { s.traceLaunch l 6 code addr with launches := s.launches.filter fun x => x.id != l.id }
  let s := (s.faultRecord vf ⟨addr, 0, l.ctx, 7, code, 0, 0, 0, 0, 0, l.seq⟩).2
  s.irq vf 0

/-- The dispatcher's acquire at .sys of an unmet wait word (R228, R266, R272). -/
def State.pollWait (s : State) (n : Nat) : State :=
  match s.launchAt n with
  | none => s
  | some l =>
    if l.state != .waiting then s
    else if !(launchCtl l.record).getLsbD 2 then s.modLaunch n fun l => { l with state := .met }
    else
      match s.readVa l.tile l.ctx (launchWait l.record) 4 with
      | (.error c, s) => s.dropLaunch l c (launchWait l.record)
      | (.ok bs, s) =>
        let d : Word := BitVec.ofNat 32 (leNat bs) - BitVec.ofNat 32 (fieldAt l.record 24 4)
        if (0 : Word).sle d then s.modLaunch n fun l => { l with state := .met } else s

/-- A launch put in its place in the order of acceptance, before those that came to the same dispatcher in the same base-die cycle
from a later source, with the sequence numbers of its context in that order (R271). -/
def insertLaunch (ls : List Launch) (l : Launch) : List Launch :=
  let later := fun (x : Launch) => x.tile == l.tile && x.cyc == l.cyc && decide (l.src < x.src)
  let after := ls.filter later
  let mine := fun (x : Launch) => x.ctx == l.ctx
  let seqs := (after.filter mine).map Launch.seq ++ [l.seq]
  let turn := fun (n : Nat) => ((after.take n).filter mine).length
  let new := { l with seq := seqs.headD l.seq } :: after.mapIdx fun n (x : Launch) =>
    if mine x then { x with seq := seqs.getD (turn n + 1) x.seq } else x
  ls.filter (fun x => !later x) ++ new

/-- Whether the queue of a record's priority at a tile has an entry free (R271). -/
def State.launchRoom (s : State) (tile : Nat) (r : List Byte) : Bool :=
  decide ((s.launches.filter fun l => l.tile == tile && l.prio == launchPrio r).length < 64)

/-- A record accepted from a source into the queue of its priority at a tile (R271). -/
def State.acceptLaunch (s : State) (ctx tile src : Nat) (r : List Byte) (digest : Option (List Byte)) : State :=
  let seq := (match s.ctxAt ctx with | some c => c.seq | none => 0) + 1
  let s := s.modCtx ctx fun c => { c with seq := seq }
  let id := s.nextId
  let (x, y, z) := launchGrid r
  let l : Launch := { id := id, ctx := ctx, tile := tile, prio := launchPrio r, seq := seq, record := r, digest := digest,
                      state := .waiting, header := [], next := 0, total := x * y * z, ended := 0, boosted := 0, hold := false,
                      readyAt := 0, movedAt := 0, src := src, cyc := (s.coreAt (4 * tile)).cyc / 2 }
  State.pollWait { s with nextId := id + 1, launches := insertLaunch s.launches l } id

/-- The width in lanes of a width code (R245). -/
def widthOf (c : Nat) : Nat := 16 * 2 ^ c

/-- The role entry r of a kernel header (R245). -/
def roleEntry (h : List Byte) (r : Nat) : List Byte := (h.drop (48 + 20 * r)).take 20

/-- The roles that a kernel header declares (R245). -/
def headerRoles (h : List Byte) : List Role :=
  (List.range (fieldAt h 26 1)).map fun r =>
    let e := roleEntry h r
    let c := BitVec.ofNat 8 (fieldAt e 8 1)
    { entry := BitVec.ofNat 32 (fieldAt e 0 4), threads := fieldAt e 4 2, allot := fieldAt e 6 2,
      minW := widthOf (bitsOf c 5 4), prefW := widthOf (bitsOf c 3 2), cls := bitsOf c 1 0,
      pmask := BitVec.ofNat 4 (fieldAt e 9 1), grant := 0, request := none, locked := false, coll := [] }

/-- Whether a role entry keeps the limits of R245. -/
def roleOk (h : List Byte) (r : Nat) : Bool :=
  let e := roleEntry h r
  let d := fieldAt h 25 1
  let c := BitVec.ofNat 8 (fieldAt e 8 1)
  let t := fieldAt e 4 2
  let a := fieldAt e 6 2
  fieldAt e 0 4 % 4 == 0 && t % 64 == 0 && decide (64 ≤ t) && decide (t ≤ 2048) &&
  a % 8 == 0 && decide ((d + 7) / 8 * 8 + 8 ≤ a) && decide (a ≤ 256) &&
  bitsOf c 7 6 == 0 && bitsOf c 5 4 != 3 && bitsOf c 3 2 != 3 && decide (bitsOf c 5 4 ≤ bitsOf c 3 2) &&
  fieldAt e 9 1 != 0 && decide (fieldAt e 9 1 < 16) && (e.drop 10).all (· == 0) &&
  (fieldAt h 6 1 != 0 || (bitsOf c 5 4 == 1 && bitsOf c 3 2 == 1))

/-- Whether a kernel header keeps R245, R141 and R329. -/
def headerOk (h : List Byte) : Bool :=
  let n := fieldAt h 26 1
  let flags := fieldAt h 8 4
  let irev := fieldAt h 6 1
  let scr := fieldAt h 12 4
  let priv := fieldAt h 20 4
  let pq := fieldAt h 24 1
  fieldAt h 0 4 == 0x0008C5D1 && fieldAt h 4 2 == 128 && decide (irev < 2) && decide (fieldAt h 7 1 < 2) &&
  decide (flags < 4) && scr % 1024 == 0 && decide (scr ≤ 0x100000) && decide (fieldAt h 16 4 ≤ 4096) &&
  priv % 16 == 0 && decide (priv ≤ 65536) && (decide (pq ≤ 128) || pq == 255) && decide (fieldAt h 25 1 ≤ 64) &&
  decide (1 ≤ n) && decide (n ≤ 4) && fieldAt h 27 1 == 0 && (flags % 2 == 1 || fieldAt h 28 4 == 0) &&
  (flags % 2 == 0 || (decide (16 ≤ priv) && fieldAt h 28 4 % 4 == 0)) && fieldAt h 40 8 == 0 &&
  (List.range n).all (roleOk h) && ((h.drop (48 + 20 * n)).take (80 - 20 * n)).all (· == 0) &&
  decide (((headerRoles h).map Role.threads).sum ≤ 2048) && (irev == 1 || (n == 1 && decide (flags < 2)))

/-- Roles granted in role order on some partitions' use (R237). -/
def grantAll (maxg : Nat) : List Role → List PartUse → Option (List (Role × List (Nat × Nat)))
  | [], _ => some []
  | r :: rs, us =>
    match grantRole maxg r r.prefW us with
    | none => none
    | some (g, places, us) =>
      match grantAll maxg rs us with
      | none => none
      | some out => some (({ r with grant := g }, places) :: out)

/-- The use of an empty core. -/
def emptyUse : List PartUse := List.replicate 4 { slots := [], bytes := 0, own := 0 }

/-- The bytes of a partition's column for each core (R165). -/
def State.columnBytes (s : State) (tile : Nat) : Nat := (s.isoAt (s.partOf tile)).column * 2 ^ 28

/-- Whether a header's block fits a core of the partition of a tile when that core is empty (R272). -/
def State.fitsSome (s : State) (tile ctx : Nat) (h : List Byte) : Bool :=
  let q := match s.ctxAt ctx with | some c => c.quota | none => 0
  (List.range 80).any fun c =>
    s.partOf (tileOf c) == s.partOf tile && (grantAll (s.coreAt c).maxG (headerRoles h) emptyUse).isSome &&
      decide (fieldAt h 16 4 * 2 ^ 20 ≤ s.columnBytes (tileOf c)) && decide (q ≤ 128)

/-- The 128 bytes of a kernel header, read in 16-byte pieces; the fault of the read, with its address, otherwise (R272). -/
def State.readHeader (s : State) (tile ctx va : Nat) : Except (Nat × Nat) (List Byte) × State :=
  (List.range 8).foldl (fun (acc : Except (Nat × Nat) (List Byte) × State) k =>
    match acc.1 with
    | .error e => (.error e, acc.2)
    | .ok bs =>
      match acc.2.readVa tile ctx (va + 16 * k) 16 with
      | (.error c, s) => (.error (c, va + 16 * k), s)
      | (.ok b, s) => (.ok (bs ++ b), s)) (.ok [], s)

/-- Whether the object that a launch names is one of its context's whose digest is what its tenant may launch (R270). -/
def State.digestOk (s : State) (l : Launch) : Bool :=
  match l.digest, s.ctxAt l.ctx with
  | none, _ => true
  | some _, none => false
  | some d, some c => c.objs.any fun o => o.base.toNat == launchKhdr l.record / 2 ^ 32 * 2 ^ 32 && o.digest == d

/-- A launch whose wait is met reads its header, once its object's digest has been checked; it becomes ready, or is dropped (R270, R272).
R270 has a wrong digest dropped as a failed header and gives the record no CODE: the model gives 0x51, with KHDR as ADDR (log 79). -/
def State.headerRead (s : State) (n : Nat) : State :=
  match s.launchAt n with
  | none => s
  | some l =>
    if l.state != .met then s
    else
      let k := launchKhdr l.record
      if !s.digestOk l then s.dropLaunch l 0x51 k
      else match s.readHeader l.tile l.ctx k with
      | (.error (c, a), s) => s.dropLaunch l c a
      | (.ok h, s) =>
        if headerOk h && s.fitsSome l.tile l.ctx h then
          (s.traceLaunch l 2).modLaunch n fun l => { l with
            state := .ready, header := h, readyAt := (s.coreAt (4 * l.tile)).cyc, movedAt := (s.coreAt (4 * l.tile)).cyc }
        else s.dropLaunch l 0x51 k

/-- The lowest base at which n bytes lie free between some ranges below a limit. -/
def freeRange (used : List (Nat × Nat)) (limit n : Nat) : Option Nat :=
  ((0 :: used.map fun u => u.1 + u.2).filter fun b =>
    decide (b + n ≤ limit) && used.all fun u => decide (b + n ≤ u.1) || decide (u.1 + u.2 ≤ b)).min?

/-- Resident threads of a core (R273). -/
def State.residentThreads (s : State) (core : Nat) : Nat := ((s.blocks.filter fun b => b.core == core).map Block.threads).sum

/-- The contexts admitted to a core (R147). -/
def State.admitted (s : State) (core : Nat) : List Nat :=
  dedup (((s.blocks.filter fun b => b.core == core).map Block.ctx) ++ ((s.slots.filter fun k => k.core == core).map Slot.ctx))

/-- The sum of the quotas of some contexts. -/
def State.quotas (s : State) (cs : List Nat) : Nat := (cs.map fun c => match s.ctxAt c with | some x => x.quota | none => 0).sum

/-- What a block takes on a core: its roles with their places, scratchpad and column bases (R273). -/
structure Fit where
  core : Nat
  roles : List (Role × List (Nat × Nat))
  scr : Nat
  col : Nat

/-- The column ranges of a core that are given: those of resident blocks and those of saved ones (R165, R166). -/
def State.columnRanges (s : State) (core : Nat) : List (Nat × Nat) :=
  ((s.blocks ++ (s.images.map Image.blocks).flatten).filter fun b => b.core == core).map fun b => (b.colBase, b.colSize)

/-- Whether a core can take a block of a context, and how (R273, the budgets apart). -/
def State.fitOn (s : State) (ctx : Nat) (h : List Byte) (core : Nat) : Option Fit :=
  let bs := s.blocks.filter fun b => b.core == core
  let us := (List.range 4).map (s.partUse core s.nextId fun _ => false)
  let n := ((headerRoles h).map Role.threads).sum
  if 16 ≤ bs.length ∨ 4096 < s.residentThreads core + n ∨ 128 < s.quotas (dedup (ctx :: s.admitted core)) then none
  else
    match grantAll (s.coreAt core).maxG (headerRoles h) us,
      freeRange (bs.map fun b => (b.scrBase, b.scrSize)) 0x100000 (fieldAt h 12 4),
      freeRange (s.columnRanges core) (s.columnBytes (tileOf core)) (fieldAt h 16 4 * 2 ^ 20) with
    | some rs, some sc, some co => some ⟨core, rs, sc, co⟩
    | _, _, _ => none

/-- The use of a VF with a placement on some cores, and its limit, for CORES, BW over 10 µs in bytes, and POWER (R274). -/
def State.budgets (s : State) (vf : Nat) (cores : List Nat) : List (Nat × Nat) :=
  let v := s.vfAt vf
  let held := dedup (cores ++ ((s.blocks.filter fun b => match s.ctxAt b.ctx with | some c => c.vf == vf | none => false).map Block.core))
  [(held.length, bitsOf v.plbud 6 0), (v.measured, bitsOf v.plbud 47 24 * 10000), (v.power, bitsOf v.plbud 63 48)]

/-- Whether some budget refuses a placement on some cores (R274). A budget of 0 is none. -/
def State.overBudget (s : State) (vf : Nat) (cores : List Nat) : Bool :=
  (s.budgets vf cores).any fun b => b.2 != 0 && decide (b.2 < b.1)

/-- The budget with the highest ratio of use to limit: 0 CORES, 1 BW, 2 POWER (R274). -/
def tightest (bs : List (Nat × Nat)) : Nat :=
  let on := (List.range bs.length).filterMap fun n => match bs[n]? with | some b => if b.2 = 0 then none else some (n, b) | none => none
  ((on.find? fun x => on.all fun y => decide (y.2.1 * x.2.2 ≤ x.2.1 * y.2.2)).map Prod.fst).getD 0

/-- A refusal charged to the tightest budget of a VF (R274). -/
def State.chargeRefusal (s : State) (l : Launch) (vf : Nat) (cores : List Nat) : State :=
  let n := tightest (s.budgets vf cores)
  (s.modVf vf fun v => { v with refused := modAt v.refused n (· + 1) }).count ⟨false, cores.headD 0, 0, l.ctx, vf, l.seq⟩ 9 2 1

/-- A thread at its start (R231). -/
def startThread (entry : Word) : Thread :=
  { pc := entry, meet := noMeet, stack := [], tmo := none, live := true, trapfp := 0, x := List.replicate 8 0, xmark := 0,
    pos := 0, tail := false, via := true, wait := .none }

/-- The launch arguments in the s registers of a group formed at admission (R231, R267). -/
def launchSregs (r : List Byte) : List Word :=
  (List.range 16).map fun k => if k < fieldAt r 42 1 then BitVec.ofNat 32 (fieldAt r (44 + 4 * k) 4) else 0

/-- A group formed at a block's admission (R230, R231). -/
def startGroup (r : List Byte) (core ctx block role : Nat) (ro : Role) (k : Nat) (at_ : Nat × Nat) : Group :=
  { core := core, part := at_.1, slot := at_.2, ctx := ctx, block := block, role := role, gix := k, grant := ro.grant,
    threads := List.replicate ro.grant (startThread ro.entry),
    regs := List.replicate 256 (.val (List.replicate ro.grant 0)), sregs := launchSregs r, preds := List.replicate 7 0, win := 0,
    gang := 0, regrant := false, mto := false, stepBit := false, ptr := 0, cychi := 0, cntLatch := 0, status := .eligible,
    iset := 0, cont := false, again := false, stall := 0, pos := 0, pfx := Pfx.none, sb := [], cls := ro.cls, skip := 0, yielded := false, timers := [],
    records := 0, refused := none, resumed := none, trap := none, busy := 0, through := false, stopped := false, rpoison := [] }

/-- A barrier at the start of a block or a cluster (R254). -/
def Barrier.init : Barrier := { phase := false, arrived := 0, expect := none, opens := [] }

/-- Whether an offset of a core's column is in a range that was given last to a context (R166). -/
def Core.colOwner (k : Core) (ctx off : Nat) : Bool :=
  match k.colUse.find? fun u => decide (u.2.1 ≤ off) && decide (off < u.2.1 + u.2.2) with | some u => u.1 == ctx | none => false

/-- A column range given to a context: the bytes that were not the context's already are zeroed (R166; log 29). -/
def State.giveColumn (s : State) (core ctx base n : Nat) : State :=
  if n = 0 then s
  else
    let old := fun (pa : Nat) => !(decide (colPa core base ≤ pa) && decide (pa < colPa core base + n)) ||
      (s.coreAt core).colOwner ctx (pa - colPa core 0)
    State.modCore { s with mem := s.mem.filter (fun e => old e.1), poison := s.poison.filter fun k => old (128 * k) } core
      fun (k : Core) => { k with
        colUse := (ctx, base, n) :: k.colUse.filter fun u => !(u.2 == (base, n))
        colPoison := k.colPoison.filter fun g => old (colPa core (8 * g)) }

/-- One block placed where it fits: its column range given, and its core's L1 made fresh for what the launch's record and wait word
were released after (R162, R230, R231, R243, R254, R267). -/
def State.placeBlock (s : State) (l : Launch) (lin cluster : Nat) (f : Fit) : State :=
  let h := l.header
  let id := s.nextId
  let (gx, gy, gz) := launchGrid l.record
  let cs := launchCsize l.record
  let x := lin % gx
  let trap := if fieldAt h 8 4 % 2 = 1 then some (BitVec.ofNat 32 (fieldAt h 28 4)) else none
  let b : Block := { id := id, ctx := l.ctx, launch := l.id, core := f.core, lin := lin,
                     coord := (x, lin / gx % gy, lin / gx / gy), dim := (gx, gy, gz), csize := cs, rank := x % cs,
                     cluster := cluster, cluIdx := lin / cs, base := BitVec.ofNat 64 (launchKhdr l.record / 2 ^ 32 * 2 ^ 32),
                     irev := fieldAt h 6 1, mmrev := fieldAt h 7 1, depth := fieldAt h 25 1, scrBase := f.scr,
                     scrSize := fieldAt h 12 4, colBase := f.col, colSize := fieldAt h 16 4 * 2 ^ 20, privSize := fieldAt h 20 4,
                     trapEnt := trap, drain := fieldAt h 8 4 / 2 % 2 == 1, roles := f.roles.map Prod.fst, scratch := [],
                     absent := [], spoison := [], unfenced := [], priv := [], ppoison := [], bars := List.replicate 16 Barrier.init,
                     spare := [0, 0, 0, 0] }
  let gs := (f.roles.mapIdx fun r q => q.2.mapIdx fun k at_ => startGroup l.record f.core l.ctx id r q.1 k at_).flatten
  let s := (s.giveColumn f.core l.ctx f.col b.colSize).acquireCore f.core l.ctx 4
  let s := { s with nextId := id + 1, blocks := s.blocks ++ [b], groups := s.groups ++ gs }
  s.trace { s.launchLoc l with idx := tileOf f.core }
    { cmdseq := l.seq, taskq := l.taskq, engine := 128, kind := 4, val := lin, ctx := l.ctx, core := f.core }

/-- The cores of a tile for the blocks of a cluster in rank order: the qualifying core with the fewest resident threads, the
lowest on a tie, each core once (R273); a test on the cores chosen with it stands for the budgets. -/
def State.chooseCores (s : State) (tile ctx : Nat) (h : List Byte) (ok : List Nat → Bool) : Nat → List Fit → Option (List Fit)
  | 0, acc => some acc
  | n + 1, acc =>
    let fs := ((List.range 4).map fun k => 4 * tile + k).filterMap fun c =>
      if (acc.any fun f => f.core == c) || !ok (c :: acc.map Fit.core) then none else s.fitOn ctx h c
    match fs.find? fun f => fs.all fun g => decide (s.residentThreads f.core ≤ s.residentThreads g.core) with
    | none => none
    | some f => s.chooseCores tile ctx h ok n (acc ++ [f])

/-- A launch's priority with its boost (R275). -/
def Launch.effective (l : Launch) : Nat := min 3 (l.prio + l.boosted)

/-- Whether blocks of a context may be placed now (R271, R318, R336, R367). -/
def State.mayPlace (s : State) (l : Launch) : Bool :=
  match s.ctxAt l.ctx with
  | some c => c.run == .running && c.ending.isNone && !c.drained && !c.mm0Wait && c.quotaWait == 0 && !(c.debugStop && l.next == 0)
  | none => false

/-- The next block or cluster of a launch placed on a tile's cores: none when it fits nowhere there or a budget refuses it. -/
def State.placeNext (s : State) (tile : Nat) (l : Launch) : Option State × State :=
  let cs := launchCsize l.record
  let vf := match s.ctxAt l.ctx with | some c => c.vf | none => 0
  match s.chooseCores tile l.ctx l.header (fun cores => !s.overBudget vf cores) cs [] with
  | none =>
    match s.chooseCores tile l.ctx l.header (fun _ => true) cs [] with
    | none => (none, s)
    | some fs => (none, s.chargeRefusal l vf (fs.map Fit.core))
  | some fs =>
    let clu := s.nextId
    let s := { s with nextId := clu + 1, clusters := s.clusters ++ [⟨clu, List.replicate 8 Barrier.init⟩] }
    let (s, _) := fs.foldl (fun (p : State × Nat) f => (p.1.placeBlock l (l.next + p.2) clu f, p.2 + 1)) (s, 0)
    let s := s.modLaunch l.id fun l => { l with next := l.next + cs, hold := false, movedAt := (s.coreAt (4 * l.tile)).cyc }
    (some s, s)

/-- Settings that a load has asked for take effect once no block of the context is resident and, for the quota, it holds no slot;
a load that waits for neither is complete (R142, R367). -/
def State.settleLoads (s : State) : State :=
  let home := fun (c : Context) => s.blocks.any fun b => b.ctx == c.id
  let slots := fun (c : Context) => s.slots.any fun k => k.ctx == c.id
  { s with contexts := s.contexts.map fun (c : Context) =>
      let c := if c.mm0Wait && !home c then { c with mm0 := true, mm0Wait := false } else c
      let c := if home c || slots c then c else { c with quota := max c.quota c.quotaWait, quotaWait := 0 }
      if c.quotaWait = 0 ∧ c.mm0Wait = false then { c with loadAnswer := some (c.loadAnswer.getD 0) } else c }

/-- A dispatcher places one block or cluster on its own tile (R273, R275). -/
def State.dispatch (s : State) (tile : Nat) : State :=
  let mine := s.launches.filter fun l => s.partOf l.tile == s.partOf tile
  let free := fun (l : Launch) => !((mine.takeWhile fun h => h.id != l.id).any fun h => h.hold && decide (l.effective ≤ h.effective))
  let can := mine.filter fun l => l.state == .ready && decide (l.next < l.total) && s.mayPlace l && free l
  let order := ([3, 2, 1, 0].map fun p => can.filter fun l => l.effective == p).flatten
  (order.foldl (fun (acc : Bool × State) l =>
    if acc.1 then acc
    else match acc.2.placeNext tile l with
      | (some s, _) => (true, s)
      | (none, s) => (false, s)) (false, s)).2

/-- A release at .sys that covers every write of a context (R228). -/
def State.publish (s : State) (ctx : Nat) : State :=
  let cores := dedup ((s.homeq.filter fun o => o.ctx == ctx).map HomeOp.core)
  let s := cores.foldl State.drainHomes s
  let s := s.drainFlight fun _ => true
  (List.range 80).foldl (fun s c => (s.drainWc c fun w => w.ctx == ctx).cleanL1 c fun _ => true) s

/-- A write of bytes in one page by a unit of a tile, at the L2 slice (R156, R157, R228). -/
def State.writeVa (s : State) (tile ctx va : Nat) (bs : List Byte) : Except Nat Unit × State :=
  match s.reach tile ctx (BitVec.ofNat 64 va) .write with
  | (.bad c _ _, s) => (.error c, s)
  | (.ok pa w, s) => (.ok (), s.agentWrite tile ctx pa w bs)

/-- The target of a drain migration told that the work here has completed, once no launch and no block is left (R339). -/
def State.reportDrain (s : State) (ctx : Nat) : State :=
  if (s.launches.any fun l => l.ctx == ctx) || s.blocks.any fun b => b.ctx == ctx then s
  else s.modCtx ctx fun c => if c.drained then { c with reported := true } else c

/-- A grid whose blocks have all ended: the completion word written, or its failure recorded; the entry frees (R228, R271).
Of a context that is drain-migrated the target writes the word, once it has been told (R339). -/
def State.completeLaunch (s : State) (n : Nat) : State :=
  match s.launchAt n with
  | none => s
  | some l =>
    if l.state != .ready || decide (l.next < l.total) || decide (l.ended < l.total) then s
    else
      let vf := match s.ctxAt l.ctx with | some c => c.vf | none => 0
      let s := s.publish l.ctx
      let s := { s with launches := s.launches.filter fun x => x.id != n }
      let c := launchCtl l.record
      let s := s.traceLaunch l 3
      let gone := match s.ctxAt l.ctx with | some x => x.drained | none => true
      if !c.getLsbD 3 || gone then s.reportDrain l.ctx
      else
        match s.writeVa l.tile l.ctx (launchCpl l.record) (leBytes 4 (fieldAt l.record 28 4)) with
        | (.error code, s) => ((s.traceLaunch l 6 code (launchCpl l.record)).faultRecord vf ⟨launchCpl l.record, 0, l.ctx, 9, code, 0, 0, 0, 0, 0, l.seq⟩).2
        | (.ok _, s) =>
          let s := if c.getLsbD 4 then s.irq vf 3 else s
          (s.launches.map Launch.id).foldl State.pollWait s

end Sys2Proof.Machine
end

