-- ==== Sys2Proof/Machine/Special.lean ====
section
/-! DEFINITION. Meanings of the special-register instructions and of LAUNCH (R21, R141, R261 to R264). -/

namespace Sys2Proof.Machine

/-- CORECAP (R21, R22): a harvested core lacks the lane quarter that `harv` names. -/
def corecap (core : Nat) (c : Core) : Word :=
  BitVec.ofNat 32 (core * 65536 + tileOf core * 2048 + match c.harv with
    | some q => 1024 + 256 + (15 - 2 ^ (q % 4))
    | none => 512 + 15)

/-- The width code of a grant or a width (R245, R262). -/
def widthCode (g : Nat) : Nat := if g = 16 then 0 else if g = 32 then 1 else 2

/-- GSTAT (R262). -/
def Iss.gstat (i : Iss) : Word :=
  BitVec.ofNat 32 ((if i.g.stepBit then 65536 else 0) + 256 * widthCode i.r.grant + (if i.r.locked then 4 else 0) +
    (if i.g.mto then 2 else 0) + (if i.g.regrant then 1 else 0))

/-- ROLEINFO (R262). -/
def Iss.roleinfo (i : Iss) : Word :=
  BitVec.ofNat 32 (i.g.role * 2 ^ 30 + widthCode i.r.minW * 2 ^ 28 + widthCode i.r.prefW * 2 ^ 26 + i.r.allot * 2 ^ 17 + i.r.threads)

/-- The special register n as a lane sees it (R262); an unassigned number has none. -/
def State.special (s : State) (i : Iss) (n l : Nat) : Option Word :=
  let t := i.g.threadAt l
  let w := fun (x : Nat) => some (BitVec.ofNat 32 x)
  match n with
  | 0x000 => some (corecap i.g.core (s.coreAt i.g.core))
  | 0x001 => w i.g.gslot
  | 0x002 => w i.b.coord.1
  | 0x003 => w i.b.coord.2.1
  | 0x004 => w i.b.coord.2.2
  | 0x005 => w i.b.dim.1
  | 0x006 => w i.b.dim.2.1
  | 0x007 => w i.b.dim.2.2
  | 0x008 => w (4 * (i.b.csize - 1) + i.b.rank)
  | 0x009 => w i.b.cluIdx
  | 0x00A => w (i.g.gix * i.g.grant + l)
  | 0x00B => w (i.thread l)
  | 0x00C => w i.g.ctx
  | 0x100 => some t.meet
  | 0x101 => w t.stack.length
  | 0x102 => w i.g.win.toNat
  | 0x103 => some i.g.gang
  | 0x104 => some i.gstat
  | 0x200 => w (match s.ctxAt i.g.ctx with | some c => c.quota | none => 0)
  | 0x201 => w (s.acct i.g.core i.g.ctx).pol.toNat
  | 0x202 => w (i.b.spare.getD i.g.part 0)
  | 0x203 => some i.roleinfo
  | 0x204 => w (s.coreAt i.g.core).cyc
  | 0x205 => some i.g.cychi
  | 0x210 => some t.trapfp
  | 0x300 => w i.seq
  | 0x301 => w (i.seq / 2 ^ 32)
  | 0x302 => w (s.taskqOf i.b.id)
  | _ => none

/-- SRD (R261, R263). -/
def execSrd (d : BitVec 7) (n : BitVec 12) (s : State) : Host.Outcome State Fault Refusal :=
  issue s { writes := [(d, 1)], guard := false } noTarget fun s i =>
    match s.special i n.toNat 0 with
    | none => .fault { code := 0x01 }
    | some _ =>
      let v := fun l => (s.special i n.toNat l).getD 0
      let hi : Word := BitVec.ofNat 32 ((s.coreAt i.g.core).cyc / 2 ^ 32)
      let s := if n = 0x204 then s.modIss i fun g => { g with cychi := hi } else s
      s.writeRegs i [⟨d, 0, i.act, v⟩]

/-- PXPOL of a context, which every core holds (R141, R263). -/
def State.setPol (s : State) (ctx : Nat) (p : BitVec 1) : State :=
  (List.range 80).foldl (fun s c => s.modAcct c ctx fun a => { a with pol := p }) s

/-- SWR (R261, R263). -/
def execSwr (d : BitVec 7) (n : BitVec 12) (s : State) : Host.Outcome State Fault Refusal :=
  let ahead := fun (i : Iss) =>
    if n = 0x100 then (i.lanes.map fun l => if i.rd d 0 l = noMeet then [] else i.startWords (i.rd d 0 l)).flatten else []
  issue s { reads := [(d, 1)], dsrc := true, guard := false, p6 := n != 0x103,
            from_ := if n = 0x100 then fun _ _ l _ => laneBit l else fromLow, ahead := ahead } noTarget fun s i =>
    let v := i.rd d 0 i.low
    match n.toNat with
    | 0x100 =>
      match i.lanes.findSome? fun l => if i.rd d 0 l = noMeet then none else s.runStart i (i.rd d 0 l) with
      | some f => .fault f
      | none => .done (s.modIss i fun g => { g with
          threads := g.threads.mapIdx fun l (t : Thread) =>
            if i.act.getLsbD l then { t with meet := i.rd d 0 l, tmo := none } else t })
    | 0x103 => s.setGang i v
    | 0x104 => .done (s.modIss i fun g => { g with mto := g.mto && !v.getLsbD 1, regrant := g.regrant && !v.getLsbD 0 })
    | 0x201 => .done (s.setPol i.g.ctx (v.setWidth 1))
    | _ => .fault { code := 0x01 }

/-- LAUNCH (R264): in the first core cycle of a base-die cycle its record reaches the dispatcher, and until then the group is held at it
(R271; log 71); a refused one performs no release. R264 does not say what a poisoned granule of the record does: the model takes the
bytes that are stored (log 79). -/
def execLaunch (d : BitVec 7) (p : BitVec 3) (s : State) : Host.Outcome State Fault Refusal :=
  issue s { reads := [(d, 1)], dsrc := true, from_ := fromLow, preds := [p], guard := false } noTarget fun s i =>
    let o := (i.rd d 0 i.low).toNat
    let answer := fun (s : State) (v : Mask) => Act.done (s.modIss i fun g => g.putPred i.set p.toNat v)
    if o % 64 ≠ 0 then .fault { code := 0x25 }
    else if i.b.scrSize < o + 64 then .fault { code := 0x24 }
    else
      match i.b.absentOf [o / 128] with
      | l :: ls => .park (s.count i.loc 5 3 1) (.presence (l :: ls))
      | [] =>
        let r := rdBytes i.b.scratch o 64
        if malformedLaunch r then .fault { code := 0x12 }
        else if (s.coreAt i.g.core).cyc % 2 = 1 then .settled (s.modIss i fun g => { g with again := true })
        else if s.launchRoom i.tile r then answer ((s.release_ i 3).acceptLaunch i.g.ctx i.tile (1 + i.g.core % 4) r none) (~~~0)
        else answer s 0

end Sys2Proof.Machine
end

