-- ==== Sys2Proof/Machine/Counter.lean ====
section
/-! DEFINITION. Counter banks and trace units: their records, claims and releases, and the meanings of the counter instructions
(R304 to R315). -/

namespace Sys2Proof.Machine

/-- A unit that nobody has claimed. -/
def CUnit.init (r : UnitRef) : CUnit :=
  { ref := r, owner := .free, filter := .all, pend := none, pfrec := List.replicate 32 0, pfctl := 0, lost := false, froze := [], ovf := 0,
    record := List.replicate 32 0, cnt := List.replicate 8 0, snap := List.replicate 8 0,
    pub := List.replicate 8 0, share := [], least := List.replicate 8 3, minw := 1024, from_ := 0, written := 0, dropped := 0,
    missed := 0, woff := 0, ack := 0 }

/-- A unit, by its number. -/
def State.unitAt (s : State) (r : UnitRef) : CUnit := (s.units.find? fun u => u.ref == r).getD (CUnit.init r)

/-- The state with a unit replaced. -/
def State.setUnit (s : State) (u : CUnit) : State :=
  { s with units := if s.units.any fun v => v.ref == u.ref then s.units.map fun v => if v.ref = u.ref then u else v
                    else s.units ++ [u] }

/-- The state with a unit replaced by one that begins anew: the reuse tags of the old one are freed (R308, R317). -/
def State.renew (s : State) (u : CUnit) : State :=
  let s := s.setUnit u
  if u.ref.tile then
    s.modTile u.ref.idx fun t => { t with tags := t.tags.filter (fun g => g.unit != u.ref.unit), sampled := tset 0 t.sampled u.ref.unit 0 }
  else s

/-- Whether a unit can select an event of a class (R305). -/
def eventOk (tile pf : Bool) (cls ev : Nat) : Bool :=
  match cls with
  | 0 => !tile && decide (ev ≤ 22)
  | 1 => !tile && decide (ev ≤ 4)
  | 2 => if tile then decide (3 ≤ ev ∧ ev ≤ 6) else decide (ev ≤ 2)
  | 3 => tile && decide (ev ≤ 3)
  | 4 => !tile && decide (ev ≤ 7)
  | 5 => !tile && decide (ev ≤ 4)
  | 6 => !tile && decide (ev ≤ 4)
  | 7 => tile && decide (ev ≤ 2)
  | 8 => !tile && decide (ev ≤ 4)
  | 9 => !tile && decide (ev ≤ 2)
  | 10 => tile && decide (ev ≤ 15)
  | 11 => tile && decide (ev ≤ 1)
  | 15 => tile && pf && decide (ev ≤ 5)
  | _ => false

/-- Whether a selector is one that a unit may hold (R305). -/
def selectorOk (tile pf : Bool) (e : BitVec 16) : Bool :=
  !e.getLsbD 15 || (eventOk tile pf (bitsOf e 14 11) (bitsOf e 6 0) && (decide (bitsOf e 14 11 ≤ 1) || bitsOf e 10 7 == 0))

/-- Whether a unit's configuration record keeps R306; the physical function's FILT byte is not looked at (R309). -/
def unitRecordOk (r : UnitRef) (pf : Bool) (bs : List Byte) : Bool :=
  (pf || decide (fieldAt bs 17 1 ≤ 1)) && fieldAt bs 18 6 == 0 &&
  if r.unit < 4 then (List.range 8).all fun i => selectorOk r.tile pf (selector bs i)
  else
    let buf := fieldAt bs 0 8
    let size := fieldAt bs 8 4
    let per := fieldAt bs 14 1
    buf % 32 == 0 && (if pf then pfRange buf size else globalAddr buf) && size % 32 == 0 && decide (4096 ≤ size) && decide (size ≤ 2 ^ 30) &&
    (per == 0 || decide (8 ≤ per ∧ per ≤ 24)) && fieldAt bs 15 2 == 0

/-- The core cycle count that a unit's windows are counted in (R303): that of its core, or of its tile's first core. -/
def State.unitCycle (s : State) (r : UnitRef) : Nat := (s.coreAt (if r.tile then 4 * r.idx else r.idx)).cyc

/-- A unit granted to an owner: configured, its counts cleared, its window started (R308, R312). -/
def CUnit.grant (u : CUnit) (o : Owner) (f : Filter) (bs : List Byte) (cyc : Nat) : CUnit :=
  { CUnit.init u.ref with owner := o, filter := f, record := bs, from_ := cyc, pfrec := u.pfrec, pfctl := u.pfctl,
                          lost := u.lost, froze := u.froze }

/-- The fields of PFCTL that are kept, with a status in OP (R309). -/
def pfctlWord (v : Addr) (status : Nat) : Addr := (v &&& 0x3FFFFC00FFFFFFFF) ||| BitVec.ofNat 64 (status * 2 ^ 62)

/-- A unit that its context gives up: free, or passed to the pending claim of the physical function, which is pending no more (R308,
R309). -/
def State.freeUnit (s : State) (u : CUnit) : State :=
  match u.pend with
  | some c =>
    s.renew { u.grant .pf c.filter c.record (s.unitCycle u.ref) with
      pfctl := if bitsOf u.pfctl 63 62 = 1 then pfctlWord u.pfctl 0 else u.pfctl }
  | none => s.renew { CUnit.init u.ref with pfrec := u.pfrec, pfctl := u.pfctl, lost := u.lost, froze := u.froze }

/-- The units of a context that stay frozen in its save image (R310). -/
def State.frozenUnit (s : State) (ctx : Nat) (r : UnitRef) : Option CUnit :=
  match s.images.find? fun m => m.ctx == ctx with
  | some m => m.units.find? fun u => u.ref == r
  | none => none

/-- The unit that a counter instruction names (R312). -/
def Iss.unit (i : Iss) (t : BitVec 1) (u : BitVec 3) : UnitRef :=
  ⟨t == 1, if t = 1 then i.tile else i.g.core, u.toNat⟩

/-- CNTCLM (R308, R312, R313). -/
def execCntclm (d : BitVec 7) (t : BitVec 1) (u p : BitVec 3) (s : State) : Host.Outcome State Fault Refusal :=
  issue s { reads := [(d, 1)], dsrc := true, from_ := fromLow, preds := [p], guard := false } noTarget fun s i =>
    let o := (i.rd d 0 i.low).toNat
    let r := i.unit t u
    let answer := fun (s : State) (v : Mask) => Act.done (s.modIss i fun g => g.putPred i.set p.toNat v)
    if o % 32 ≠ 0 then .fault { code := 0x25 }
    else if i.b.scrSize < o + 32 then .fault { code := 0x24 }
    else
      match i.b.absentOf [o / 128] with
      | l :: ls => .park (s.count i.loc 5 3 1) (.presence (l :: ls))
      | [] =>
        let bs := rdBytes i.b.scratch o 32
        if !unitRecordOk r false bs then .fault { code := 0x40 }
        else
          let x := s.unitAt r
          if x.owner = .free ∨ x.owner = .ctx i.g.ctx then
            let f := if fieldAt bs 17 1 = 0 then Filter.ctx i.g.ctx else Filter.vf i.vf
            answer (s.renew { x.grant (.ctx i.g.ctx) f bs (s.unitCycle r) with pend := x.pend }) (~~~0)
          else answer s 0

/-- What CNTRD reads of a unit (R312). -/
def CUnit.value (u : CUnit) (c : Nat) : Nat :=
  if u.ref.unit < 4 then u.cnt.getD c 0
  else match c with | 0 => u.written | 1 => u.dropped | 2 => u.woff | _ => 0

/-- CNTRD (R310, R312). -/
def execCntrd (d : BitVec 7) (h t : BitVec 1) (u c : BitVec 3) (s : State) : Host.Outcome State Fault Refusal :=
  issue s { writes := [(d, 1)], guard := false } noTarget fun s i =>
    let r := i.unit t u
    let x := s.unitAt r
    let v := if x.owner = .ctx i.g.ctx then x.value c.toNat
      else match s.frozenUnit i.g.ctx r with | some y => y.value c.toNat | none => 0
    if h = 1 then s.writeRegs i [⟨d, 0, i.act, fun _ => i.g.cntLatch⟩]
    else
      let s := s.modIss i fun g => { g with cntLatch := BitVec.ofNat 32 (v / 2 ^ 32 % 2 ^ 16) }
      s.writeRegs i [⟨d, 0, i.act, fun _ => BitVec.ofNat 32 v⟩]

/-- CNTREL (R308, R310, R312, R315). -/
def execCntrel (t : BitVec 1) (u : BitVec 3) (s : State) : Host.Outcome State Fault Refusal :=
  issue s { guard := false } noTarget fun s i =>
    let r := i.unit t u
    let x := s.unitAt r
    if x.owner = .ctx i.g.ctx then
      let s := s.freeUnit x
      .done (if r.unit = 4 then s.acquireAt i 3 else s)
    else
      .done { s with images := s.images.map fun (m : Image) =>
        if m.ctx = i.g.ctx then { m with units := m.units.filter fun y => y.ref != r } else m }

/-- TRMARK (R312, R314). -/
def execTrmark (d : BitVec 7) (t : BitVec 8) (s : State) : Host.Outcome State Fault Refusal :=
  issue s { reads := [(d, 1)], dsrc := true, from_ := fromLow, guard := false } noTarget fun s i =>
    let x := s.unitAt ⟨false, i.g.core, 4⟩
    if x.owner = .ctx i.g.ctx ∧ fieldAt x.record 12 2 % 2 = 1 ∧ x.takes i.loc then
      .done (s.traceTo x { tstamp := (s.coreAt i.g.core).cyc, cmdseq := i.seq, taskq := s.taskqOf i.b.id, engine := 4 * (i.g.core % 4) + i.g.part,
                           kind := 0, tag := t.toNat, pc := i.pc.toNat, val := (i.rd d 0 i.low).toNat, ctx := i.g.ctx,
                           core := i.g.core, slot := i.g.gslot })
    else .done s

end Sys2Proof.Machine
end

