-- ==== Sys2Proof/WellFormed.lean ====
section
/-! DEFINITION. Which instruction words are legal encodings (R25 to R28, R46): the checks of a word's own fields. -/

namespace Sys2Proof

/-- An operand field that can be read: every field but 127 (R28). -/
def srcOk (a : BitVec 7) : Bool := a.toNat != 127

/-- An operand field that can be written: 0 to 120 (R28). -/
def dstOk (d : BitVec 7) : Bool := d.toNat ≤ 120

/-- A wide source of 2^w registers: aligned, or field 120 or 126 (R25). -/
def srcWide (w : Nat) (a : BitVec 7) : Bool :=
  if w = 0 then srcOk a
  else a.toNat == 120 || a.toNat == 126 || (decide (a.toNat < 120) && a.toNat % 2 ^ w == 0)

/-- A wide destination of 2^w registers: aligned, or field 120 (R25, R28). -/
def dstWide (w : Nat) (d : BitVec 7) : Bool :=
  decide (d.toNat ≤ 120) && d.toNat % 2 ^ w == 0

/-- A field that must name a vector register v (R148, R150). -/
def vecOk (a : BitVec 7) : Bool := a.toNat ≤ 95

/-- A condition of an integer compare (R27, R89). -/
def icondOk (c : BitVec 3) : Bool := c.toNat ≤ 5

/-- A scope code (R45). -/
def scopeOk (c : BitVec 3) : Bool := c.toNat ≤ 4

/-- A format-M access with a 64-bit base (R27). -/
def baseOk (a : BitVec 7) : Bool := srcWide 1 a

/-- The pairs of type codes that CVT converts, with the widths of source and destination operands (R96). -/
def cvtShape (src dst : Nat) : Option (Nat × Nat) :=
  if src = dst then none
  else if src ≤ 8 ∧ dst ≤ 8 then some (0, 0)
  else if src = 0 ∧ (dst = 9 ∨ dst = 10) then some (1, 0)
  else if src = 0 ∧ (dst = 11 ∨ dst = 12) then some (2, 0)
  else if (src = 9 ∨ src = 10) ∧ dst = 0 then some (0, 1)
  else if (src = 11 ∨ src = 12) ∧ dst = 0 then some (0, 2)
  else if src = 0 ∧ dst = 13 then some (0, 0)
  else none

/-- The numbers of the special registers (R262). -/
def sregAssigned (n : Nat) : Bool :=
  n ≤ 0x00C || (0x100 ≤ n && n ≤ 0x104) || (0x200 ≤ n && n ≤ 0x205) || n == 0x210 || (0x300 ≤ n && n ≤ 0x302)

/-- The special registers with an RW or W1C field (R261, R262). -/
def sregWritable (n : Nat) : Bool := n == 0x100 || n == 0x103 || n == 0x104 || n == 0x201

/-- The await range of END lies in 0 to 95 or in 96 to 111, and is zero when empty (R34). -/
def awaitOk (awb awn : Nat) : Bool :=
  if awn = 0 then awb == 0
  else decide (awb + awn ≤ 96) || (decide (96 ≤ awb) && decide (awb + awn ≤ 112))

/-- Two sources and a destination, all single. -/
def dab (d a b : BitVec 7) : Bool := dstOk d && srcOk a && srcOk b

/-- A source and a destination, both single. -/
def da (d a : BitVec 7) : Bool := dstOk d && srcOk a

/-- The checks that make a word a legal encoding (R46); an event has no encoding, and none of these checks. -/
def Instr.wf (i : Instr) : Bool :=
  match i with
  | .iadd w d a b | .isub w d a b =>
    decide (w.toNat ≤ 1) && dstWide w.toNat d && srcWide w.toNat a && srcWide w.toNat b
  | .iaddImm w d a _ | .isubImm w d a _ => decide (w.toNat ≤ 1) && dstWide w.toNat d && srcWide w.toNat a
  | .imul d a b | .imulhS32 d a b | .iminS32 d a b | .imaxS32 d a b | .imad d a b | .idp4S8 d a b
  | .imulhUi32 d a b | .iminUi32 d a b | .imaxUi32 d a b | .idp4Ui8 d a b
  | .and d a b | .or d a b | .xor d a b | .andn d a b | .shl d a b | .shr d a b | .sar d a b | .shf d a b
  | .bfxS32 d a b | .bfxUi32 d a b | .bfi d a b | .prmt d a b
  | .fmin d a b | .fmax d a b | .rng d a b
  | .shfl d a b | .shflx d a b | .shflup d a b | .shfldn d a b | .qswz d a b | .qbc d a b | .lbc d a b => dab d a b
  | .imulImm d a _ | .imulhS32Imm d a _ | .iminS32Imm d a _ | .imaxS32Imm d a _ | .imadImm d a _
  | .andImm d a _ | .orImm d a _ | .xorImm d a _ | .andnImm d a _ | .shlImm d a _ | .shrImm d a _ | .sarImm d a _
  | .shfImm d a _ | .bfxS32Imm d a _ | .bfxUi32Imm d a _ | .bfiImm d a _ | .prmtImm d a _
  | .fminImm d a _ | .fmaxImm d a _
  | .shflImm d a _ | .shflxImm d a _ | .shflupImm d a _ | .shfldnImm d a _ | .lbcImm d a _ => da d a
  | .iabs d a | .popc d a | .clz d a | .brev d a | .fclass d a
  | .rsq d a | .ex2 d a | .lg2 d a | .sin d a | .cos d a | .tanh d a => da d a
  | .lea _ d a b => dstWide 1 d && srcWide 1 a && srcOk b
  | .icmpS32 c _ a b | .icmpUi32 c _ a b => icondOk c && srcOk a && srcOk b
  | .icmpS32Imm c _ a _ | .icmpUi32Imm c _ a _ => icondOk c && srcOk a
  | .fcmp _ _ a b => srcOk a && srcOk b
  | .fcmpImm _ _ a _ => srcOk a
  | .plop _ _ _ _ _ _ => true
  | .pmovToPred _ a => srcOk a
  | .pmovToReg d _ => dstOk d
  | .sel _ d a b => dab d a b
  | .mov w d a => dstWide w.toNat d && srcWide w.toNat a
  | .movi d _ => dstOk d
  | .moviX2 d _ => dstWide 1 d
  | .fadd _ d a b | .fsub _ d a b | .fmul _ d a b | .ffma _ d a b => dab d a b
  | .faddImm _ d a _ | .fsubImm _ d a _ | .fmulImm _ d a _ | .ffmaImm _ d a _ => da d a
  | .hadd2 _ _ d a b | .hmul2 _ _ d a b | .hfma2 _ _ d a b => dab d a b
  | .hmax2 _ d a b => dab d a b
  | .rcp _ d a | .sqrt _ d a => da d a
  | .cvt _ s d a t h _ =>
    match cvtShape (h.toNat * 8 + s.toNat) t.toNat with
    | some (sw, dw) => srcWide sw a && dstWide dw d
    | none => false
  | .cvtsr _ _ d a b => dab d a b
  | .qswzImm d a i => da d a && decide (i.toNat ≤ 23)
  | .qbcImm d a i => da d a && decide (i.toNat ≤ 3)
  | .voteAll d _ | .voteAny d _ => dstOk d
  | .voteBallot d _ => dstWide 1 d
  | .matchLanes d a => dstWide 1 d && srcOk a
  | .trn8B8 d a => dstWide 1 d && srcWide 1 a
  | .trn8B16 d a => dstWide 2 d && srcWide 2 a
  | .trn8B32 d a => dstWide 3 d && srcWide 3 a
  | .lredAddI32 d a | .lredMinF32 d a | .lredMaxF32 d a | .lscanAddI32 d a | .lredMinI32 d a | .lredMaxI32 d a => da d a
  | .lredAddF32 _ d a | .lscanAddF32 _ d a => da d a
  | .ldp _ d a _ => vecOk d && baseOk a
  | .stp d a _ => srcOk d && baseOk a
  | .mat d a => dstOk d && vecOk a
  | .pdrop a => vecOk a
  | .pqry d a => dstOk d && vecOk a
  | .pqryPred _ a => vecOk a
  | .pmigr d a b => vecOk d && vecOk a && srcOk b
  | .ld w f d a _ =>
    decide (f.toNat ≤ 5) && (decide (4 ≤ f.toNat) || w.toNat == 0) && dstWide w.toNat d && baseOk a
  | .st w f d a _ =>
    (f.toNat == 0 || f.toNat == 2 || (decide (4 ≤ f.toNat) && decide (f.toNat ≤ 6)))
      && (decide (4 ≤ f.toNat) || w.toNat == 0) && srcWide w.toNat d && baseOk a
  | .ldq w _ d a _ => dstWide w.toNat d && baseOk a
  | .ldsB32 w d a _ => dstWide w.toNat d && srcOk a
  | .stsB32 w d a _ => srcWide w.toNat d && srcOk a
  | .ldsUi16 d a _ | .ldsS16 d a _ | .ldsUi8 d a _ | .ldsS8 d a _ => da d a
  | .stsB16 d a _ | .stsB8 d a _ => srcOk d && srcOk a
  | .lda w s d a _ => decide (w.toNat ≤ 1) && scopeOk s && dstWide w.toNat d && baseOk a
  | .stl w s d a _ => decide (w.toNat ≤ 1) && scopeOk s && srcWide w.toNat d && baseOk a
  | .atom w f d a s _ | .atoms w f d a s _ =>
    (w.toNat == if f.toNat = 7 then 1 else 0) && dstWide w.toNat d && baseOk a && scopeOk s
  | .atomn w f d a s _ =>
    (w.toNat == if f.toNat = 7 then 1 else 0) && srcWide w.toNat d && baseOk a && scopeOk s
  | .fence k s => decide (1 ≤ k.toNat) && scopeOk s
  | .wcdrain | .nfence | .wswap | .opfence | .ret | .mpush | .mpop | .exit | .yield | .wlock | .wfree | .tret => true
  | .pref a _ => srcWide 1 a
  | .cvta d a m => dstWide 1 d && srcWide 1 a && decide (m.toNat ≤ 4)
  | .cpkick a b | .boinit a b | .boarr a b => srcOk a && srcOk b
  | .bowait d a => da d a
  | .stn w d a _ => dstWide 1 d && srcWide w.toNat a
  | .relq a b => srcWide 1 a && srcOk b
  | .pgreq d a b | .rzero d a b => dstOk d && srcWide 1 a && srcOk b
  | .rcopy d a b => dstOk d && srcWide 2 a && srcOk b
  | .wload d a | .wloadT d a => dstOk d && srcWide 1 a
  | .accz a | .gang a | .mwait a => srcOk a
  | .accld w d a => dstWide w.toNat d && d.toNat != 120 && srcOk a
  | .accst w d a => srcWide w.toNat d && d.toNat != 120 && srcOk a
  | .accldScr a b | .accstScr a b => srcOk a && srcOk b
  | .mmaC8 d a | .mmaBf16 d a => dstOk d && srcWide 2 a
  | .mmao d a b => dstOk d && srcWide 2 a && srcOk b
  | .bra _ _ _ | .call _ _ _ => true
  | .brt a n | .callt a n => srcOk a && decide (1 ≤ n.toNat)
  | .meet _ => true
  | .meetw d _ => srcOk d
  | .nap _ => true
  | .bar d _ | .bara d _ => srcOk d
  | .barw _ => true
  | .cbar d _ => srcOk d
  | .width w => decide (w.toNat ≤ 2)
  | .rclaim _ | .rgive _ | .win _ => true
  | .srd d s => dstOk d && sregAssigned s.toNat
  | .swr d s => srcOk d && sregWritable s.toNat
  | .launch d _ => srcOk d
  | .trap _ | .bkpt _ => true
  | .cntclm d _ u _ => srcOk d && decide (u.toNat ≤ 4)
  | .cntrd d _ _ u _ => dstOk d && decide (u.toNat ≤ 4)
  | .cntrel _ u => decide (u.toNat ≤ 4)
  | .trmark d _ => srcOk d
  | .endRun _ _ a n => awaitOk a.toNat n.toNat
  | .xi _ | .guard _ _ => true
  | _ => true

/-- The rows that are instruction words; every other row is an event. -/
def Instr.isEvent (i : Instr) : Bool :=
  match i with
  | .runSelect _ _ | .skipCountBoost _ | .gapExpire _ | .scoreboardWriteComplete _ _ | .napExpire _
  | .meetTimeout _ _ | .homeOperation _ | .homeAnswerArrival _ | .creditAckArrival _ | .matrixOpStart _ _ _
  | .wswapTakeEffect _ _ _ | .matrixOpComplete _ _ _ _ | .copyRequestStart _ | .copyLineLand _ _ _
  | .copyOutwardWrite _ _ | .wcBufferTimeout _ _ | .stnNameReturn _ _ | .relqInvalidate _ | .rowOpStep _
  | .rowOpComplete _ | .dramRefresh _ _ | .scrubRead _ _ | .launchWindowDmwr _ _ _
  | .launchWindowPostedWrite _ | .fabricLaunch _ _ _ _ | .tokenRefill _ _ | .fabricMemoryPacket _
  | .waitWordPoll _ | .launchHeaderRead _ | .launchPriorityBoost _ | .launchStarvationHold _ | .blockPlace _
  | .launchComplete _ | .meshForeignPacket _ _ | .linkReadCompletion _ _ | .linkReadTimeout _
  | .partidWrite _ _ | .ctxdescWrite _ _ _ | .resctlWrite _ _ _ | .invPages _ _ | .invContext _ _
  | .invPartition _ _ | .invCommandExecute _ | .invCommandComplete _ | .fqResolve _ _ | .fqRefuse _ _
  | .fqResumePxexh _ _ | .fqheadWrite _ _ | .fqctlWrite _ _ | .victimWrite _ _ | .vfFrameCountWrite _ _ _
  | .frameAgingTick | .mapReadSector _ _ | .mapDonateUnit _ _ | .mapReclaimUnit _ _ | .mapWriteFrame _ _
  | .mapCommandDone _ | .flushFrame _ _ | .flushFrameDone _ | .pfClaimUnit _ _ | .pfReleaseUnit _
  | .pfAckTrace _ _ | .tenantEntryWrite _ _ _ _ | .registerWrite _ _ _ | .snapshotWindow _
  | .tracePcSample _ | .reuseTagExpire _ _ | .heatChargeWindow _ | .coneSample _ _ _ _ | .damperEvaluate _
  | .thermalPowerOff | .powerFloorUpdate _ | .vfCapUpdate _ _ | .voltageUpdate _ | .unitGate _ | .unitWake _
  | .powerOnReset _ | .packageReset | .vfFlr _ | .recoveryImageWrite _ | .lifetimeRecordWrite
  | .orderlyShutdown | .attestRequest _ | .attestReportReady _ | .bindTenantKey _ _ _
  | .contextCreate _ _ _ _ | .preempt _ | .contextSave _ | .restore _ _ | .restoreComplete _
  | .flattenContext _ | .liveMigrate _ _ _ | .drainMigrate _ | .debugAttach _ _ | .debugStop _
  | .debugResume _ _ | .debugStepSet _ _ | .debugDump _ _ | .setColumnSize _ _ | .setLowWater _ _
  | .setAgingPeriod _ | .loadCodeObject _ _ | .unloadCodeObject _ _ | .illegalEncoding _ | .writePerformed _
  | .powerFailure | .voltageDroop _ | .contextDestroy _ => true
  | _ => false

end Sys2Proof
end

