-- ==== Sys2Proof/Decode.lean ====
section
/-! DEFINITION. The decoder and the encoder of instruction words, from the opcode map (R24, R44, R45). -/

namespace Sys2Proof

/-- Bits [lo+len-1 : lo] of a word (R2). -/
def bits (n lo len : Nat) : Nat := n / 2 ^ lo % 2 ^ len

/-- A field of a word. -/
def field (n lo len : Nat) : BitVec len := BitVec.ofNat len (n / 2 ^ lo)

/-- The rows of major opcode 0x00 (R44). -/
def decodeMajor00 (n : Nat) : Option Instr :=
  if bits n 21 3 = 0 then some (.iadd (field n 24 2) (field n 14 7) (field n 7 7) (field n 0 7))
  else if bits n 21 3 = 1 then some (.isub (field n 24 2) (field n 14 7) (field n 7 7) (field n 0 7))
  else if bits n 24 2 = 0 ∧ bits n 21 3 = 2 then some (.imul (field n 14 7) (field n 7 7) (field n 0 7))
  else if bits n 24 2 = 0 ∧ bits n 21 3 = 3 then some (.imulhS32 (field n 14 7) (field n 7 7) (field n 0 7))
  else if bits n 24 2 = 0 ∧ bits n 21 3 = 4 then some (.iminS32 (field n 14 7) (field n 7 7) (field n 0 7))
  else if bits n 24 2 = 0 ∧ bits n 21 3 = 5 then some (.imaxS32 (field n 14 7) (field n 7 7) (field n 0 7))
  else if bits n 24 2 = 0 ∧ bits n 21 3 = 6 then some (.imad (field n 14 7) (field n 7 7) (field n 0 7))
  else if bits n 24 2 = 0 ∧ bits n 21 3 = 7 then some (.idp4S8 (field n 14 7) (field n 7 7) (field n 0 7))
  else none

/-- The rows of major opcode 0x01 (R44). -/
def decodeMajor01 (n : Nat) : Option Instr :=
  if bits n 21 3 = 0 then some (.iaddImm (field n 24 2) (field n 14 7) (field n 7 7) (field n 0 7))
  else if bits n 21 3 = 1 then some (.isubImm (field n 24 2) (field n 14 7) (field n 7 7) (field n 0 7))
  else if bits n 24 2 = 0 ∧ bits n 21 3 = 2 then some (.imulImm (field n 14 7) (field n 7 7) (field n 0 7))
  else if bits n 24 2 = 0 ∧ bits n 21 3 = 3 then some (.imulhS32Imm (field n 14 7) (field n 7 7) (field n 0 7))
  else if bits n 24 2 = 0 ∧ bits n 21 3 = 4 then some (.iminS32Imm (field n 14 7) (field n 7 7) (field n 0 7))
  else if bits n 24 2 = 0 ∧ bits n 21 3 = 5 then some (.imaxS32Imm (field n 14 7) (field n 7 7) (field n 0 7))
  else if bits n 24 2 = 0 ∧ bits n 21 3 = 6 then some (.imadImm (field n 14 7) (field n 7 7) (field n 0 7))
  else none

/-- The rows of major opcode 0x02 (R44). -/
def decodeMajor02 (n : Nat) : Option Instr :=
  if bits n 24 2 = 0 ∧ bits n 21 3 = 0 ∧ bits n 0 7 = 0 then some (.iabs (field n 14 7) (field n 7 7))
  else if bits n 24 2 = 0 ∧ bits n 21 3 = 1 then some (.imulhUi32 (field n 14 7) (field n 7 7) (field n 0 7))
  else if bits n 24 2 = 0 ∧ bits n 21 3 = 2 then some (.iminUi32 (field n 14 7) (field n 7 7) (field n 0 7))
  else if bits n 24 2 = 0 ∧ bits n 21 3 = 3 then some (.imaxUi32 (field n 14 7) (field n 7 7) (field n 0 7))
  else if bits n 24 2 = 0 ∧ bits n 21 3 = 4 then some (.idp4Ui8 (field n 14 7) (field n 7 7) (field n 0 7))
  else none

/-- The rows of major opcode 0x03 (R44). -/
def decodeMajor03 (n : Nat) : Option Instr :=
  if bits n 24 2 = 1 then some (.lea (field n 21 3) (field n 14 7) (field n 7 7) (field n 0 7))
  else none

/-- The rows of major opcode 0x04 (R44). -/
def decodeMajor04 (n : Nat) : Option Instr :=
  if bits n 24 2 = 0 ∧ bits n 21 3 = 0 then some (.and (field n 14 7) (field n 7 7) (field n 0 7))
  else if bits n 24 2 = 0 ∧ bits n 21 3 = 1 then some (.or (field n 14 7) (field n 7 7) (field n 0 7))
  else if bits n 24 2 = 0 ∧ bits n 21 3 = 2 then some (.xor (field n 14 7) (field n 7 7) (field n 0 7))
  else if bits n 24 2 = 0 ∧ bits n 21 3 = 3 then some (.andn (field n 14 7) (field n 7 7) (field n 0 7))
  else if bits n 24 2 = 0 ∧ bits n 21 3 = 4 then some (.shl (field n 14 7) (field n 7 7) (field n 0 7))
  else if bits n 24 2 = 0 ∧ bits n 21 3 = 5 then some (.shr (field n 14 7) (field n 7 7) (field n 0 7))
  else if bits n 24 2 = 0 ∧ bits n 21 3 = 6 then some (.sar (field n 14 7) (field n 7 7) (field n 0 7))
  else if bits n 24 2 = 0 ∧ bits n 21 3 = 7 then some (.shf (field n 14 7) (field n 7 7) (field n 0 7))
  else none

/-- The rows of major opcode 0x05 (R44). -/
def decodeMajor05 (n : Nat) : Option Instr :=
  if bits n 24 2 = 0 ∧ bits n 21 3 = 0 then some (.andImm (field n 14 7) (field n 7 7) (field n 0 7))
  else if bits n 24 2 = 0 ∧ bits n 21 3 = 1 then some (.orImm (field n 14 7) (field n 7 7) (field n 0 7))
  else if bits n 24 2 = 0 ∧ bits n 21 3 = 2 then some (.xorImm (field n 14 7) (field n 7 7) (field n 0 7))
  else if bits n 24 2 = 0 ∧ bits n 21 3 = 3 then some (.andnImm (field n 14 7) (field n 7 7) (field n 0 7))
  else if bits n 24 2 = 0 ∧ bits n 21 3 = 4 then some (.shlImm (field n 14 7) (field n 7 7) (field n 0 7))
  else if bits n 24 2 = 0 ∧ bits n 21 3 = 5 then some (.shrImm (field n 14 7) (field n 7 7) (field n 0 7))
  else if bits n 24 2 = 0 ∧ bits n 21 3 = 6 then some (.sarImm (field n 14 7) (field n 7 7) (field n 0 7))
  else if bits n 24 2 = 0 ∧ bits n 21 3 = 7 then some (.shfImm (field n 14 7) (field n 7 7) (field n 0 7))
  else none

/-- The rows of major opcode 0x06 (R44). -/
def decodeMajor06 (n : Nat) : Option Instr :=
  if bits n 24 2 = 0 ∧ bits n 21 3 = 0 ∧ bits n 0 7 = 0 then some (.popc (field n 14 7) (field n 7 7))
  else if bits n 24 2 = 0 ∧ bits n 21 3 = 1 ∧ bits n 0 7 = 0 then some (.clz (field n 14 7) (field n 7 7))
  else if bits n 24 2 = 0 ∧ bits n 21 3 = 2 ∧ bits n 0 7 = 0 then some (.brev (field n 14 7) (field n 7 7))
  else if bits n 24 2 = 0 ∧ bits n 21 3 = 3 then some (.bfxS32 (field n 14 7) (field n 7 7) (field n 0 7))
  else if bits n 24 2 = 0 ∧ bits n 21 3 = 4 then some (.bfxUi32 (field n 14 7) (field n 7 7) (field n 0 7))
  else if bits n 24 2 = 0 ∧ bits n 21 3 = 5 then some (.bfi (field n 14 7) (field n 7 7) (field n 0 7))
  else if bits n 24 2 = 0 ∧ bits n 21 3 = 6 then some (.prmt (field n 14 7) (field n 7 7) (field n 0 7))
  else none

/-- The rows of major opcode 0x07 (R44). -/
def decodeMajor07 (n : Nat) : Option Instr :=
  if bits n 24 2 = 0 ∧ bits n 21 3 = 3 then some (.bfxS32Imm (field n 14 7) (field n 7 7) (field n 0 7))
  else if bits n 24 2 = 0 ∧ bits n 21 3 = 4 then some (.bfxUi32Imm (field n 14 7) (field n 7 7) (field n 0 7))
  else if bits n 24 2 = 0 ∧ bits n 21 3 = 5 then some (.bfiImm (field n 14 7) (field n 7 7) (field n 0 7))
  else if bits n 24 2 = 0 ∧ bits n 21 3 = 6 then some (.prmtImm (field n 14 7) (field n 7 7) (field n 0 7))
  else none

/-- The rows of major opcode 0x08 (R44). -/
def decodeMajor08 (n : Nat) : Option Instr :=
  if bits n 24 2 = 0 ∧ bits n 17 4 = 0 then some (.icmpS32 (field n 21 3) (field n 14 3) (field n 7 7) (field n 0 7))
  else none

/-- The rows of major opcode 0x09 (R44). -/
def decodeMajor09 (n : Nat) : Option Instr :=
  if bits n 24 2 = 0 ∧ bits n 17 4 = 0 then some (.icmpS32Imm (field n 21 3) (field n 14 3) (field n 7 7) (field n 0 7))
  else none

/-- The rows of major opcode 0x0A (R44). -/
def decodeMajor0A (n : Nat) : Option Instr :=
  if bits n 24 2 = 0 ∧ bits n 17 4 = 0 then some (.icmpUi32 (field n 21 3) (field n 14 3) (field n 7 7) (field n 0 7))
  else none

/-- The rows of major opcode 0x0B (R44). -/
def decodeMajor0B (n : Nat) : Option Instr :=
  if bits n 24 2 = 0 ∧ bits n 17 4 = 0 then some (.icmpUi32Imm (field n 21 3) (field n 14 3) (field n 7 7) (field n 0 7))
  else none

/-- The rows of major opcode 0x0C (R44). -/
def decodeMajor0C (n : Nat) : Option Instr :=
  if bits n 24 2 = 0 ∧ bits n 17 4 = 0 then some (.plop (field n 21 3) (field n 14 3) (field n 10 4) (field n 7 3) (field n 3 4) (field n 0 3))
  else if bits n 24 2 = 1 ∧ bits n 21 3 = 0 ∧ bits n 17 4 = 0 ∧ bits n 0 7 = 0 then some (.pmovToPred (field n 14 3) (field n 7 7))
  else if bits n 24 2 = 2 ∧ bits n 21 3 = 0 ∧ bits n 10 4 = 0 ∧ bits n 0 7 = 0 then some (.pmovToReg (field n 14 7) (field n 7 3))
  else none

/-- The rows of major opcode 0x0D (R44). -/
def decodeMajor0D (n : Nat) : Option Instr :=
  if bits n 24 2 = 0 then some (.sel (field n 21 3) (field n 14 7) (field n 7 7) (field n 0 7))
  else none

/-- The rows of major opcode 0x0E (R44). -/
def decodeMajor0E (n : Nat) : Option Instr :=
  if bits n 21 3 = 0 ∧ bits n 0 7 = 0 then some (.mov (field n 24 2) (field n 14 7) (field n 7 7))
  else none

/-- The rows of major opcode 0x0F (R44). -/
def decodeMajor0F (n : Nat) : Option Instr :=
  if bits n 24 2 = 0 ∧ bits n 21 3 = 0 then some (.movi (field n 14 7) (field n 0 14))
  else if bits n 24 2 = 0 ∧ bits n 21 3 = 1 then some (.moviX2 (field n 14 7) (field n 0 14))
  else none

/-- The rows of major opcode 0x10 (R44). -/
def decodeMajor10 (n : Nat) : Option Instr :=
  if bits n 21 3 = 0 then some (.fadd (field n 24 2) (field n 14 7) (field n 7 7) (field n 0 7))
  else if bits n 21 3 = 1 then some (.fsub (field n 24 2) (field n 14 7) (field n 7 7) (field n 0 7))
  else if bits n 21 3 = 2 then some (.fmul (field n 24 2) (field n 14 7) (field n 7 7) (field n 0 7))
  else if bits n 21 3 = 3 then some (.ffma (field n 24 2) (field n 14 7) (field n 7 7) (field n 0 7))
  else if bits n 24 2 = 0 ∧ bits n 21 3 = 4 then some (.fmin (field n 14 7) (field n 7 7) (field n 0 7))
  else if bits n 24 2 = 0 ∧ bits n 21 3 = 5 then some (.fmax (field n 14 7) (field n 7 7) (field n 0 7))
  else if bits n 24 2 = 0 ∧ bits n 21 3 = 6 ∧ bits n 0 7 = 0 then some (.fclass (field n 14 7) (field n 7 7))
  else none

/-- The rows of major opcode 0x11 (R44). -/
def decodeMajor11 (n : Nat) : Option Instr :=
  if bits n 21 3 = 0 then some (.faddImm (field n 24 2) (field n 14 7) (field n 7 7) (field n 0 7))
  else if bits n 21 3 = 1 then some (.fsubImm (field n 24 2) (field n 14 7) (field n 7 7) (field n 0 7))
  else if bits n 21 3 = 2 then some (.fmulImm (field n 24 2) (field n 14 7) (field n 7 7) (field n 0 7))
  else if bits n 21 3 = 3 then some (.ffmaImm (field n 24 2) (field n 14 7) (field n 7 7) (field n 0 7))
  else if bits n 24 2 = 0 ∧ bits n 21 3 = 4 then some (.fminImm (field n 14 7) (field n 7 7) (field n 0 7))
  else if bits n 24 2 = 0 ∧ bits n 21 3 = 5 then some (.fmaxImm (field n 14 7) (field n 7 7) (field n 0 7))
  else none

/-- The rows of major opcode 0x12 (R44). -/
def decodeMajor12 (n : Nat) : Option Instr :=
  if bits n 24 2 = 0 ∧ bits n 17 4 = 0 then some (.fcmp (field n 21 3) (field n 14 3) (field n 7 7) (field n 0 7))
  else none

/-- The rows of major opcode 0x13 (R44). -/
def decodeMajor13 (n : Nat) : Option Instr :=
  if bits n 24 2 = 0 ∧ bits n 17 4 = 0 then some (.fcmpImm (field n 21 3) (field n 14 3) (field n 7 7) (field n 0 7))
  else none

/-- The rows of major opcode 0x14 (R44). -/
def decodeMajor14 (n : Nat) : Option Instr :=
  if bits n 21 2 = 0 then some (.hadd2 (field n 24 2) (field n 23 1) (field n 14 7) (field n 7 7) (field n 0 7))
  else if bits n 21 2 = 1 then some (.hmul2 (field n 24 2) (field n 23 1) (field n 14 7) (field n 7 7) (field n 0 7))
  else if bits n 21 2 = 2 then some (.hfma2 (field n 24 2) (field n 23 1) (field n 14 7) (field n 7 7) (field n 0 7))
  else if bits n 24 2 = 0 ∧ bits n 21 2 = 3 then some (.hmax2 (field n 23 1) (field n 14 7) (field n 7 7) (field n 0 7))
  else none

/-- The rows of major opcode 0x18 (R44). -/
def decodeMajor18 (n : Nat) : Option Instr :=
  if bits n 21 3 = 0 ∧ bits n 0 7 = 0 then some (.rcp (field n 24 2) (field n 14 7) (field n 7 7))
  else if bits n 24 2 = 0 ∧ bits n 21 3 = 1 ∧ bits n 0 7 = 0 then some (.rsq (field n 14 7) (field n 7 7))
  else if bits n 21 3 = 2 ∧ bits n 0 7 = 0 then some (.sqrt (field n 24 2) (field n 14 7) (field n 7 7))
  else if bits n 24 2 = 0 ∧ bits n 21 3 = 3 ∧ bits n 0 7 = 0 then some (.ex2 (field n 14 7) (field n 7 7))
  else if bits n 24 2 = 0 ∧ bits n 21 3 = 4 ∧ bits n 0 7 = 0 then some (.lg2 (field n 14 7) (field n 7 7))
  else if bits n 24 2 = 0 ∧ bits n 21 3 = 5 ∧ bits n 0 7 = 0 then some (.sin (field n 14 7) (field n 7 7))
  else if bits n 24 2 = 0 ∧ bits n 21 3 = 6 ∧ bits n 0 7 = 0 then some (.cos (field n 14 7) (field n 7 7))
  else if bits n 24 2 = 0 ∧ bits n 21 3 = 7 ∧ bits n 0 7 = 0 then some (.tanh (field n 14 7) (field n 7 7))
  else none

/-- The rows of major opcode 0x19 (R44). -/
def decodeMajor19 (n : Nat) : Option Instr :=
  if bits n 0 1 = 0 then some (.cvt (field n 24 2) (field n 21 3) (field n 14 7) (field n 7 7) (field n 3 4) (field n 2 1) (field n 1 1))
  else none

/-- The rows of major opcode 0x1A (R44). -/
def decodeMajor1A (n : Nat) : Option Instr :=
  if bits n 25 1 = 0 ∧ bits n 23 1 = 0 then some (.cvtsr (field n 24 1) (field n 21 2) (field n 14 7) (field n 7 7) (field n 0 7))
  else none

/-- The rows of major opcode 0x1B (R44). -/
def decodeMajor1B (n : Nat) : Option Instr :=
  if bits n 24 2 = 0 ∧ bits n 21 3 = 0 then some (.rng (field n 14 7) (field n 7 7) (field n 0 7))
  else none

/-- The rows of major opcode 0x1C (R44). -/
def decodeMajor1C (n : Nat) : Option Instr :=
  if bits n 24 2 = 0 ∧ bits n 21 3 = 0 then some (.shfl (field n 14 7) (field n 7 7) (field n 0 7))
  else if bits n 24 2 = 0 ∧ bits n 21 3 = 1 then some (.shflx (field n 14 7) (field n 7 7) (field n 0 7))
  else if bits n 24 2 = 0 ∧ bits n 21 3 = 2 then some (.shflup (field n 14 7) (field n 7 7) (field n 0 7))
  else if bits n 24 2 = 0 ∧ bits n 21 3 = 3 then some (.shfldn (field n 14 7) (field n 7 7) (field n 0 7))
  else if bits n 24 2 = 0 ∧ bits n 21 3 = 4 then some (.qswz (field n 14 7) (field n 7 7) (field n 0 7))
  else if bits n 24 2 = 0 ∧ bits n 21 3 = 5 then some (.qbc (field n 14 7) (field n 7 7) (field n 0 7))
  else if bits n 24 2 = 0 ∧ bits n 21 3 = 6 then some (.lbc (field n 14 7) (field n 7 7) (field n 0 7))
  else none

/-- The rows of major opcode 0x1D (R44). -/
def decodeMajor1D (n : Nat) : Option Instr :=
  if bits n 24 2 = 0 ∧ bits n 21 3 = 0 then some (.shflImm (field n 14 7) (field n 7 7) (field n 0 7))
  else if bits n 24 2 = 0 ∧ bits n 21 3 = 1 then some (.shflxImm (field n 14 7) (field n 7 7) (field n 0 7))
  else if bits n 24 2 = 0 ∧ bits n 21 3 = 2 then some (.shflupImm (field n 14 7) (field n 7 7) (field n 0 7))
  else if bits n 24 2 = 0 ∧ bits n 21 3 = 3 then some (.shfldnImm (field n 14 7) (field n 7 7) (field n 0 7))
  else if bits n 24 2 = 0 ∧ bits n 21 3 = 4 then some (.qswzImm (field n 14 7) (field n 7 7) (field n 0 7))
  else if bits n 24 2 = 0 ∧ bits n 21 3 = 5 then some (.qbcImm (field n 14 7) (field n 7 7) (field n 0 7))
  else if bits n 24 2 = 0 ∧ bits n 21 3 = 6 then some (.lbcImm (field n 14 7) (field n 7 7) (field n 0 7))
  else none

/-- The rows of major opcode 0x1E (R44). -/
def decodeMajor1E (n : Nat) : Option Instr :=
  if bits n 24 2 = 0 ∧ bits n 21 3 = 0 ∧ bits n 10 4 = 0 ∧ bits n 0 7 = 0 then some (.voteAll (field n 14 7) (field n 7 3))
  else if bits n 24 2 = 0 ∧ bits n 21 3 = 1 ∧ bits n 10 4 = 0 ∧ bits n 0 7 = 0 then some (.voteAny (field n 14 7) (field n 7 3))
  else if bits n 24 2 = 1 ∧ bits n 21 3 = 2 ∧ bits n 10 4 = 0 ∧ bits n 0 7 = 0 then some (.voteBallot (field n 14 7) (field n 7 3))
  else if bits n 24 2 = 1 ∧ bits n 21 3 = 3 ∧ bits n 0 7 = 0 then some (.matchLanes (field n 14 7) (field n 7 7))
  else if bits n 24 2 = 1 ∧ bits n 21 3 = 4 ∧ bits n 0 7 = 0 then some (.trn8B8 (field n 14 7) (field n 7 7))
  else if bits n 24 2 = 2 ∧ bits n 21 3 = 5 ∧ bits n 0 7 = 0 then some (.trn8B16 (field n 14 7) (field n 7 7))
  else if bits n 24 2 = 3 ∧ bits n 21 3 = 6 ∧ bits n 0 7 = 0 then some (.trn8B32 (field n 14 7) (field n 7 7))
  else none

/-- The rows of major opcode 0x1F (R44). -/
def decodeMajor1F (n : Nat) : Option Instr :=
  if bits n 24 2 = 0 ∧ bits n 21 3 = 0 ∧ bits n 0 7 = 0 then some (.lredAddI32 (field n 14 7) (field n 7 7))
  else if bits n 21 3 = 1 ∧ bits n 0 7 = 0 then some (.lredAddF32 (field n 24 2) (field n 14 7) (field n 7 7))
  else if bits n 24 2 = 0 ∧ bits n 21 3 = 2 ∧ bits n 0 7 = 0 then some (.lredMinF32 (field n 14 7) (field n 7 7))
  else if bits n 24 2 = 0 ∧ bits n 21 3 = 3 ∧ bits n 0 7 = 0 then some (.lredMaxF32 (field n 14 7) (field n 7 7))
  else if bits n 24 2 = 0 ∧ bits n 21 3 = 4 ∧ bits n 0 7 = 0 then some (.lscanAddI32 (field n 14 7) (field n 7 7))
  else if bits n 21 3 = 5 ∧ bits n 0 7 = 0 then some (.lscanAddF32 (field n 24 2) (field n 14 7) (field n 7 7))
  else if bits n 24 2 = 0 ∧ bits n 21 3 = 6 ∧ bits n 0 7 = 0 then some (.lredMinI32 (field n 14 7) (field n 7 7))
  else if bits n 24 2 = 0 ∧ bits n 21 3 = 7 ∧ bits n 0 7 = 0 then some (.lredMaxI32 (field n 14 7) (field n 7 7))
  else none

/-- The rows of major opcode 0x20 (R44). -/
def decodeMajor20 (n : Nat) : Option Instr :=
  if bits n 24 2 = 0 then some (.ldp (field n 21 3) (field n 14 7) (field n 7 7) (field n 0 7))
  else none

/-- The rows of major opcode 0x21 (R44). -/
def decodeMajor21 (n : Nat) : Option Instr :=
  if bits n 24 2 = 0 ∧ bits n 21 3 = 0 then some (.stp (field n 14 7) (field n 7 7) (field n 0 7))
  else none

/-- The rows of major opcode 0x22 (R44). -/
def decodeMajor22 (n : Nat) : Option Instr :=
  if bits n 24 2 = 0 ∧ bits n 21 3 = 0 ∧ bits n 0 7 = 0 then some (.mat (field n 14 7) (field n 7 7))
  else if bits n 24 2 = 0 ∧ bits n 21 3 = 1 ∧ bits n 14 7 = 0 ∧ bits n 0 7 = 0 then some (.pdrop (field n 7 7))
  else if bits n 24 2 = 0 ∧ bits n 21 3 = 2 ∧ bits n 0 7 = 0 then some (.pqry (field n 14 7) (field n 7 7))
  else if bits n 24 2 = 0 ∧ bits n 21 3 = 3 ∧ bits n 17 4 = 0 ∧ bits n 0 7 = 0 then some (.pqryPred (field n 14 3) (field n 7 7))
  else if bits n 24 2 = 0 ∧ bits n 21 3 = 4 then some (.pmigr (field n 14 7) (field n 7 7) (field n 0 7))
  else none

/-- The rows of major opcode 0x24 (R44). -/
def decodeMajor24 (n : Nat) : Option Instr :=
  some (.ld (field n 24 2) (field n 21 3) (field n 14 7) (field n 7 7) (field n 0 7))

/-- The rows of major opcode 0x25 (R44). -/
def decodeMajor25 (n : Nat) : Option Instr :=
  some (.st (field n 24 2) (field n 21 3) (field n 14 7) (field n 7 7) (field n 0 7))

/-- The rows of major opcode 0x26 (R44). -/
def decodeMajor26 (n : Nat) : Option Instr :=
  some (.ldq (field n 24 2) (field n 21 3) (field n 14 7) (field n 7 7) (field n 0 7))

/-- The rows of major opcode 0x27 (R44). -/
def decodeMajor27 (n : Nat) : Option Instr :=
  if bits n 21 3 = 0 then some (.ldsB32 (field n 24 2) (field n 14 7) (field n 7 7) (field n 0 7))
  else if bits n 21 3 = 1 then some (.stsB32 (field n 24 2) (field n 14 7) (field n 7 7) (field n 0 7))
  else if bits n 24 2 = 0 ∧ bits n 21 3 = 2 then some (.ldsUi16 (field n 14 7) (field n 7 7) (field n 0 7))
  else if bits n 24 2 = 0 ∧ bits n 21 3 = 3 then some (.ldsS16 (field n 14 7) (field n 7 7) (field n 0 7))
  else if bits n 24 2 = 0 ∧ bits n 21 3 = 4 then some (.stsB16 (field n 14 7) (field n 7 7) (field n 0 7))
  else if bits n 24 2 = 0 ∧ bits n 21 3 = 5 then some (.ldsUi8 (field n 14 7) (field n 7 7) (field n 0 7))
  else if bits n 24 2 = 0 ∧ bits n 21 3 = 6 then some (.ldsS8 (field n 14 7) (field n 7 7) (field n 0 7))
  else if bits n 24 2 = 0 ∧ bits n 21 3 = 7 then some (.stsB8 (field n 14 7) (field n 7 7) (field n 0 7))
  else none

/-- The rows of major opcode 0x28 (R44). -/
def decodeMajor28 (n : Nat) : Option Instr :=
  some (.lda (field n 24 2) (field n 21 3) (field n 14 7) (field n 7 7) (field n 0 7))

/-- The rows of major opcode 0x29 (R44). -/
def decodeMajor29 (n : Nat) : Option Instr :=
  some (.stl (field n 24 2) (field n 21 3) (field n 14 7) (field n 7 7) (field n 0 7))

/-- The rows of major opcode 0x2A (R44). -/
def decodeMajor2A (n : Nat) : Option Instr :=
  if bits n 0 2 = 0 then some (.atom (field n 24 2) (field n 21 3) (field n 14 7) (field n 7 7) (field n 4 3) (field n 2 2))
  else if bits n 0 2 = 1 then some (.atomn (field n 24 2) (field n 21 3) (field n 14 7) (field n 7 7) (field n 4 3) (field n 2 2))
  else if bits n 0 2 = 2 then some (.atoms (field n 24 2) (field n 21 3) (field n 14 7) (field n 7 7) (field n 4 3) (field n 2 2))
  else none

/-- The rows of major opcode 0x2B (R44). -/
def decodeMajor2B (n : Nat) : Option Instr :=
  if bits n 24 2 = 0 ∧ bits n 21 3 = 0 ∧ bits n 14 7 = 0 ∧ bits n 12 2 = 0 ∧ bits n 0 7 = 0 then some (.fence (field n 10 2) (field n 7 3))
  else if bits n 24 2 = 0 ∧ bits n 21 3 = 1 ∧ bits n 14 7 = 0 ∧ bits n 7 7 = 0 ∧ bits n 0 7 = 0 then some (.wcdrain)
  else if bits n 24 2 = 1 ∧ bits n 21 3 = 2 ∧ bits n 14 7 = 0 ∧ bits n 1 6 = 0 then some (.pref (field n 7 7) (field n 0 1))
  else if bits n 24 2 = 1 ∧ bits n 21 3 = 3 then some (.cvta (field n 14 7) (field n 7 7) (field n 0 7))
  else none

/-- The rows of major opcode 0x2C (R44). -/
def decodeMajor2C (n : Nat) : Option Instr :=
  if bits n 24 2 = 0 ∧ bits n 21 3 = 0 ∧ bits n 14 7 = 0 then some (.cpkick (field n 7 7) (field n 0 7))
  else if bits n 24 2 = 0 ∧ bits n 21 3 = 1 ∧ bits n 14 7 = 0 then some (.boinit (field n 7 7) (field n 0 7))
  else if bits n 24 2 = 0 ∧ bits n 21 3 = 2 ∧ bits n 14 7 = 0 then some (.boarr (field n 7 7) (field n 0 7))
  else if bits n 24 2 = 0 ∧ bits n 21 3 = 3 ∧ bits n 0 7 = 0 then some (.bowait (field n 14 7) (field n 7 7))
  else none

/-- The rows of major opcode 0x2D (R44). -/
def decodeMajor2D (n : Nat) : Option Instr :=
  if bits n 21 3 = 0 ∧ bits n 3 4 = 0 then some (.stn (field n 24 2) (field n 14 7) (field n 7 7) (field n 0 3))
  else if bits n 24 2 = 0 ∧ bits n 21 3 = 1 ∧ bits n 14 7 = 0 ∧ bits n 7 7 = 0 ∧ bits n 0 7 = 0 then some (.nfence)
  else if bits n 24 2 = 1 ∧ bits n 21 3 = 2 ∧ bits n 14 7 = 0 then some (.relq (field n 7 7) (field n 0 7))
  else none

/-- The rows of major opcode 0x2E (R44). -/
def decodeMajor2E (n : Nat) : Option Instr :=
  if bits n 24 2 = 1 ∧ bits n 21 3 = 0 then some (.pgreq (field n 14 7) (field n 7 7) (field n 0 7))
  else if bits n 24 2 = 1 ∧ bits n 21 3 = 1 then some (.rzero (field n 14 7) (field n 7 7) (field n 0 7))
  else if bits n 24 2 = 2 ∧ bits n 21 3 = 2 then some (.rcopy (field n 14 7) (field n 7 7) (field n 0 7))
  else none

/-- The rows of major opcode 0x30 (R44). -/
def decodeMajor30 (n : Nat) : Option Instr :=
  if bits n 24 2 = 0 ∧ bits n 21 3 = 4 ∧ bits n 14 7 = 120 then some (.accldScr (field n 7 7) (field n 0 7))
  else if bits n 24 2 = 0 ∧ bits n 21 3 = 5 ∧ bits n 14 7 = 120 then some (.accstScr (field n 7 7) (field n 0 7))
  else if bits n 24 2 = 1 ∧ bits n 21 3 = 0 ∧ bits n 0 7 = 0 then some (.wload (field n 14 7) (field n 7 7))
  else if bits n 24 2 = 1 ∧ bits n 21 3 = 1 ∧ bits n 0 7 = 0 then some (.wloadT (field n 14 7) (field n 7 7))
  else if bits n 24 2 = 0 ∧ bits n 21 3 = 2 ∧ bits n 14 7 = 0 ∧ bits n 7 7 = 0 ∧ bits n 0 7 = 0 then some (.wswap)
  else if bits n 24 2 = 0 ∧ bits n 21 3 = 3 ∧ bits n 14 7 = 0 ∧ bits n 0 7 = 0 then some (.accz (field n 7 7))
  else if bits n 21 3 = 4 ∧ bits n 0 7 = 0 then some (.accld (field n 24 2) (field n 14 7) (field n 7 7))
  else if bits n 21 3 = 5 ∧ bits n 0 7 = 0 then some (.accst (field n 24 2) (field n 14 7) (field n 7 7))
  else if bits n 24 2 = 0 ∧ bits n 21 3 = 6 ∧ bits n 14 7 = 0 ∧ bits n 0 7 = 0 then some (.gang (field n 7 7))
  else if bits n 24 2 = 0 ∧ bits n 21 3 = 7 ∧ bits n 14 7 = 0 ∧ bits n 7 7 = 0 ∧ bits n 0 7 = 0 then some (.opfence)
  else none

/-- The rows of major opcode 0x31 (R44). -/
def decodeMajor31 (n : Nat) : Option Instr :=
  if bits n 24 2 = 2 ∧ bits n 21 3 = 0 ∧ bits n 0 7 = 0 then some (.mmaC8 (field n 14 7) (field n 7 7))
  else if bits n 24 2 = 2 ∧ bits n 21 3 = 1 ∧ bits n 0 7 = 0 then some (.mmaBf16 (field n 14 7) (field n 7 7))
  else if bits n 24 2 = 2 ∧ bits n 21 3 = 2 then some (.mmao (field n 14 7) (field n 7 7) (field n 0 7))
  else if bits n 24 2 = 0 ∧ bits n 21 3 = 3 ∧ bits n 14 7 = 0 ∧ bits n 0 7 = 0 then some (.mwait (field n 7 7))
  else none

/-- The rows of major opcode 0x34 (R44). -/
def decodeMajor34 (n : Nat) : Option Instr :=
  some (.bra (field n 23 3) (field n 22 1) (field n 0 22))

/-- The rows of major opcode 0x35 (R44). -/
def decodeMajor35 (n : Nat) : Option Instr :=
  some (.call (field n 23 3) (field n 22 1) (field n 0 22))

/-- The rows of major opcode 0x36 (R44). -/
def decodeMajor36 (n : Nat) : Option Instr :=
  if bits n 24 2 = 0 ∧ bits n 21 3 = 0 ∧ bits n 14 7 = 0 then some (.brt (field n 7 7) (field n 0 7))
  else if bits n 24 2 = 0 ∧ bits n 21 3 = 1 ∧ bits n 14 7 = 0 then some (.callt (field n 7 7) (field n 0 7))
  else if bits n 24 2 = 0 ∧ bits n 21 3 = 2 ∧ bits n 14 7 = 0 ∧ bits n 7 7 = 0 ∧ bits n 0 7 = 0 then some (.ret)
  else none

/-- The rows of major opcode 0x38 (R44). -/
def decodeMajor38 (n : Nat) : Option Instr :=
  if bits n 24 2 = 0 ∧ bits n 21 3 = 0 ∧ bits n 14 7 = 0 then some (.meet (field n 0 14))
  else if bits n 24 2 = 0 ∧ bits n 21 3 = 1 then some (.meetw (field n 14 7) (field n 0 14))
  else if bits n 24 2 = 0 ∧ bits n 21 3 = 2 ∧ bits n 14 7 = 0 ∧ bits n 7 7 = 0 ∧ bits n 0 7 = 0 then some (.mpush)
  else if bits n 24 2 = 0 ∧ bits n 21 3 = 3 ∧ bits n 14 7 = 0 ∧ bits n 7 7 = 0 ∧ bits n 0 7 = 0 then some (.mpop)
  else if bits n 24 2 = 0 ∧ bits n 21 3 = 4 ∧ bits n 14 7 = 0 ∧ bits n 7 7 = 0 ∧ bits n 0 7 = 0 then some (.exit)
  else if bits n 24 2 = 0 ∧ bits n 21 3 = 5 ∧ bits n 14 7 = 0 then some (.nap (field n 0 14))
  else if bits n 24 2 = 0 ∧ bits n 21 3 = 6 ∧ bits n 14 7 = 0 ∧ bits n 7 7 = 0 ∧ bits n 0 7 = 0 then some (.yield)
  else none

/-- The rows of major opcode 0x39 (R44). -/
def decodeMajor39 (n : Nat) : Option Instr :=
  if bits n 24 2 = 0 ∧ bits n 21 3 = 0 ∧ bits n 7 7 = 0 ∧ bits n 4 3 = 0 then some (.bar (field n 14 7) (field n 0 4))
  else if bits n 24 2 = 0 ∧ bits n 21 3 = 1 ∧ bits n 7 7 = 0 ∧ bits n 4 3 = 0 then some (.bara (field n 14 7) (field n 0 4))
  else if bits n 24 2 = 0 ∧ bits n 21 3 = 2 ∧ bits n 14 7 = 0 ∧ bits n 7 7 = 0 ∧ bits n 4 3 = 0 then some (.barw (field n 0 4))
  else if bits n 24 2 = 0 ∧ bits n 21 3 = 3 ∧ bits n 7 7 = 0 ∧ bits n 3 4 = 0 then some (.cbar (field n 14 7) (field n 0 3))
  else none

/-- The rows of major opcode 0x3A (R44). -/
def decodeMajor3A (n : Nat) : Option Instr :=
  if bits n 24 2 = 0 ∧ bits n 21 3 = 0 ∧ bits n 14 7 = 0 ∧ bits n 7 7 = 0 ∧ bits n 2 5 = 0 then some (.width (field n 0 2))
  else if bits n 24 2 = 0 ∧ bits n 21 3 = 1 ∧ bits n 14 7 = 0 ∧ bits n 7 7 = 0 ∧ bits n 0 7 = 0 then some (.wlock)
  else if bits n 24 2 = 0 ∧ bits n 21 3 = 2 ∧ bits n 14 7 = 0 ∧ bits n 7 7 = 0 ∧ bits n 0 7 = 0 then some (.wfree)
  else if bits n 24 2 = 0 ∧ bits n 21 3 = 3 ∧ bits n 14 7 = 0 ∧ bits n 8 6 = 0 then some (.rclaim (field n 0 8))
  else if bits n 24 2 = 0 ∧ bits n 21 3 = 4 ∧ bits n 14 7 = 0 ∧ bits n 8 6 = 0 then some (.rgive (field n 0 8))
  else if bits n 24 2 = 0 ∧ bits n 21 3 = 5 ∧ bits n 14 7 = 0 ∧ bits n 7 7 = 0 ∧ bits n 3 4 = 0 then some (.win (field n 0 3))
  else none

/-- The rows of major opcode 0x3C (R44). -/
def decodeMajor3C (n : Nat) : Option Instr :=
  if bits n 24 2 = 0 ∧ bits n 21 3 = 0 ∧ bits n 12 2 = 0 then some (.srd (field n 14 7) (field n 0 12))
  else if bits n 24 2 = 0 ∧ bits n 21 3 = 1 ∧ bits n 12 2 = 0 then some (.swr (field n 14 7) (field n 0 12))
  else if bits n 24 2 = 0 ∧ bits n 21 3 = 2 ∧ bits n 7 7 = 0 ∧ bits n 3 4 = 0 then some (.launch (field n 14 7) (field n 0 3))
  else if bits n 24 2 = 0 ∧ bits n 21 3 = 3 ∧ bits n 14 7 = 0 then some (.trap (field n 0 14))
  else if bits n 24 2 = 0 ∧ bits n 21 3 = 4 ∧ bits n 14 7 = 0 ∧ bits n 7 7 = 0 ∧ bits n 0 7 = 0 then some (.tret)
  else if bits n 24 2 = 0 ∧ bits n 21 3 = 5 ∧ bits n 14 7 = 0 then some (.bkpt (field n 0 14))
  else none

/-- The rows of major opcode 0x3D (R44). -/
def decodeMajor3D (n : Nat) : Option Instr :=
  if bits n 24 2 = 0 ∧ bits n 21 3 = 0 ∧ bits n 7 7 = 0 then some (.cntclm (field n 14 7) (field n 6 1) (field n 3 3) (field n 0 3))
  else if bits n 24 2 = 0 ∧ bits n 21 3 = 1 ∧ bits n 8 6 = 0 then some (.cntrd (field n 14 7) (field n 7 1) (field n 6 1) (field n 3 3) (field n 0 3))
  else if bits n 24 2 = 0 ∧ bits n 21 3 = 2 ∧ bits n 14 7 = 0 ∧ bits n 7 7 = 0 ∧ bits n 0 3 = 0 then some (.cntrel (field n 6 1) (field n 3 3))
  else if bits n 24 2 = 0 ∧ bits n 21 3 = 3 ∧ bits n 8 6 = 0 then some (.trmark (field n 14 7) (field n 0 8))
  else none

/-- The rows of major opcode 0x3F (R44). -/
def decodeMajor3F (n : Nat) : Option Instr :=
  if bits n 24 2 = 0 ∧ bits n 23 1 = 0 ∧ bits n 7 2 = 0 ∧ bits n 0 7 = 0 then some (.endRun (field n 20 3) (field n 19 1) (field n 12 7) (field n 9 3))
  else if bits n 24 2 = 0 ∧ bits n 23 1 = 1 then some (.xi (field n 0 23))
  else if bits n 24 2 = 1 ∧ bits n 23 1 = 0 ∧ bits n 14 5 = 0 ∧ bits n 7 7 = 0 ∧ bits n 0 7 = 0 then some (.guard (field n 20 3) (field n 19 1))
  else none

/-- The row of the opcode map that a word belongs to, before the checks of its operands (R44). -/
def decodeRow (n : Nat) : Option Instr :=
  match bits n 26 6 with
  | 0x00 => decodeMajor00 n
  | 0x01 => decodeMajor01 n
  | 0x02 => decodeMajor02 n
  | 0x03 => decodeMajor03 n
  | 0x04 => decodeMajor04 n
  | 0x05 => decodeMajor05 n
  | 0x06 => decodeMajor06 n
  | 0x07 => decodeMajor07 n
  | 0x08 => decodeMajor08 n
  | 0x09 => decodeMajor09 n
  | 0x0A => decodeMajor0A n
  | 0x0B => decodeMajor0B n
  | 0x0C => decodeMajor0C n
  | 0x0D => decodeMajor0D n
  | 0x0E => decodeMajor0E n
  | 0x0F => decodeMajor0F n
  | 0x10 => decodeMajor10 n
  | 0x11 => decodeMajor11 n
  | 0x12 => decodeMajor12 n
  | 0x13 => decodeMajor13 n
  | 0x14 => decodeMajor14 n
  | 0x18 => decodeMajor18 n
  | 0x19 => decodeMajor19 n
  | 0x1A => decodeMajor1A n
  | 0x1B => decodeMajor1B n
  | 0x1C => decodeMajor1C n
  | 0x1D => decodeMajor1D n
  | 0x1E => decodeMajor1E n
  | 0x1F => decodeMajor1F n
  | 0x20 => decodeMajor20 n
  | 0x21 => decodeMajor21 n
  | 0x22 => decodeMajor22 n
  | 0x24 => decodeMajor24 n
  | 0x25 => decodeMajor25 n
  | 0x26 => decodeMajor26 n
  | 0x27 => decodeMajor27 n
  | 0x28 => decodeMajor28 n
  | 0x29 => decodeMajor29 n
  | 0x2A => decodeMajor2A n
  | 0x2B => decodeMajor2B n
  | 0x2C => decodeMajor2C n
  | 0x2D => decodeMajor2D n
  | 0x2E => decodeMajor2E n
  | 0x30 => decodeMajor30 n
  | 0x31 => decodeMajor31 n
  | 0x34 => decodeMajor34 n
  | 0x35 => decodeMajor35 n
  | 0x36 => decodeMajor36 n
  | 0x38 => decodeMajor38 n
  | 0x39 => decodeMajor39 n
  | 0x3A => decodeMajor3A n
  | 0x3C => decodeMajor3C n
  | 0x3D => decodeMajor3D n
  | 0x3F => decodeMajor3F n
  | _ => none

/-- Why a word is not an instruction (R43, R46). -/
inductive DecodeRefusal where
  /-- The major opcode, function, kind or a fixed field is not that of any row. -/
  | noRow
  /-- The row's operand checks fail: alignment, width, a reserved field or code. -/
  | badOperand
  deriving DecidableEq, Repr

/-- The decoder: the instruction of a word, or the reason it is an illegal encoding (R46). -/
def decode (n : Nat) : Except DecodeRefusal Instr :=
  match decodeRow n with
  | none => .error .noRow
  | some i => if i.wf then .ok i else .error .badOperand

/-- The word of an instruction, as a number below 2^32 (R24, R44, R45); an event has no word. -/
def encode (i : Instr) : Nat :=
  match i with
  | .iadd w d a b => 0x00000000 + w.toNat * 0x1000000 + d.toNat * 0x4000 + a.toNat * 0x80 + b.toNat
  | .isub w d a b => 0x00200000 + w.toNat * 0x1000000 + d.toNat * 0x4000 + a.toNat * 0x80 + b.toNat
  | .imul d a b => 0x00400000 + d.toNat * 0x4000 + a.toNat * 0x80 + b.toNat
  | .imulhS32 d a b => 0x00600000 + d.toNat * 0x4000 + a.toNat * 0x80 + b.toNat
  | .iminS32 d a b => 0x00800000 + d.toNat * 0x4000 + a.toNat * 0x80 + b.toNat
  | .imaxS32 d a b => 0x00A00000 + d.toNat * 0x4000 + a.toNat * 0x80 + b.toNat
  | .imad d a b => 0x00C00000 + d.toNat * 0x4000 + a.toNat * 0x80 + b.toNat
  | .idp4S8 d a b => 0x00E00000 + d.toNat * 0x4000 + a.toNat * 0x80 + b.toNat
  | .iaddImm w d a i => 0x04000000 + w.toNat * 0x1000000 + d.toNat * 0x4000 + a.toNat * 0x80 + i.toNat
  | .isubImm w d a i => 0x04200000 + w.toNat * 0x1000000 + d.toNat * 0x4000 + a.toNat * 0x80 + i.toNat
  | .imulImm d a i => 0x04400000 + d.toNat * 0x4000 + a.toNat * 0x80 + i.toNat
  | .imulhS32Imm d a i => 0x04600000 + d.toNat * 0x4000 + a.toNat * 0x80 + i.toNat
  | .iminS32Imm d a i => 0x04800000 + d.toNat * 0x4000 + a.toNat * 0x80 + i.toNat
  | .imaxS32Imm d a i => 0x04A00000 + d.toNat * 0x4000 + a.toNat * 0x80 + i.toNat
  | .imadImm d a i => 0x04C00000 + d.toNat * 0x4000 + a.toNat * 0x80 + i.toNat
  | .iabs d a => 0x08000000 + d.toNat * 0x4000 + a.toNat * 0x80
  | .imulhUi32 d a b => 0x08200000 + d.toNat * 0x4000 + a.toNat * 0x80 + b.toNat
  | .iminUi32 d a b => 0x08400000 + d.toNat * 0x4000 + a.toNat * 0x80 + b.toNat
  | .imaxUi32 d a b => 0x08600000 + d.toNat * 0x4000 + a.toNat * 0x80 + b.toNat
  | .idp4Ui8 d a b => 0x08800000 + d.toNat * 0x4000 + a.toNat * 0x80 + b.toNat
  | .lea s d a b => 0x0D000000 + s.toNat * 0x200000 + d.toNat * 0x4000 + a.toNat * 0x80 + b.toNat
  | .and d a b => 0x10000000 + d.toNat * 0x4000 + a.toNat * 0x80 + b.toNat
  | .or d a b => 0x10200000 + d.toNat * 0x4000 + a.toNat * 0x80 + b.toNat
  | .xor d a b => 0x10400000 + d.toNat * 0x4000 + a.toNat * 0x80 + b.toNat
  | .andn d a b => 0x10600000 + d.toNat * 0x4000 + a.toNat * 0x80 + b.toNat
  | .shl d a b => 0x10800000 + d.toNat * 0x4000 + a.toNat * 0x80 + b.toNat
  | .shr d a b => 0x10A00000 + d.toNat * 0x4000 + a.toNat * 0x80 + b.toNat
  | .sar d a b => 0x10C00000 + d.toNat * 0x4000 + a.toNat * 0x80 + b.toNat
  | .shf d a b => 0x10E00000 + d.toNat * 0x4000 + a.toNat * 0x80 + b.toNat
  | .andImm d a i => 0x14000000 + d.toNat * 0x4000 + a.toNat * 0x80 + i.toNat
  | .orImm d a i => 0x14200000 + d.toNat * 0x4000 + a.toNat * 0x80 + i.toNat
  | .xorImm d a i => 0x14400000 + d.toNat * 0x4000 + a.toNat * 0x80 + i.toNat
  | .andnImm d a i => 0x14600000 + d.toNat * 0x4000 + a.toNat * 0x80 + i.toNat
  | .shlImm d a i => 0x14800000 + d.toNat * 0x4000 + a.toNat * 0x80 + i.toNat
  | .shrImm d a i => 0x14A00000 + d.toNat * 0x4000 + a.toNat * 0x80 + i.toNat
  | .sarImm d a i => 0x14C00000 + d.toNat * 0x4000 + a.toNat * 0x80 + i.toNat
  | .shfImm d a i => 0x14E00000 + d.toNat * 0x4000 + a.toNat * 0x80 + i.toNat
  | .popc d a => 0x18000000 + d.toNat * 0x4000 + a.toNat * 0x80
  | .clz d a => 0x18200000 + d.toNat * 0x4000 + a.toNat * 0x80
  | .brev d a => 0x18400000 + d.toNat * 0x4000 + a.toNat * 0x80
  | .bfxS32 d a b => 0x18600000 + d.toNat * 0x4000 + a.toNat * 0x80 + b.toNat
  | .bfxUi32 d a b => 0x18800000 + d.toNat * 0x4000 + a.toNat * 0x80 + b.toNat
  | .bfi d a b => 0x18A00000 + d.toNat * 0x4000 + a.toNat * 0x80 + b.toNat
  | .prmt d a b => 0x18C00000 + d.toNat * 0x4000 + a.toNat * 0x80 + b.toNat
  | .bfxS32Imm d a i => 0x1C600000 + d.toNat * 0x4000 + a.toNat * 0x80 + i.toNat
  | .bfxUi32Imm d a i => 0x1C800000 + d.toNat * 0x4000 + a.toNat * 0x80 + i.toNat
  | .bfiImm d a i => 0x1CA00000 + d.toNat * 0x4000 + a.toNat * 0x80 + i.toNat
  | .prmtImm d a i => 0x1CC00000 + d.toNat * 0x4000 + a.toNat * 0x80 + i.toNat
  | .icmpS32 c p a b => 0x20000000 + c.toNat * 0x200000 + p.toNat * 0x4000 + a.toNat * 0x80 + b.toNat
  | .icmpS32Imm c p a i => 0x24000000 + c.toNat * 0x200000 + p.toNat * 0x4000 + a.toNat * 0x80 + i.toNat
  | .icmpUi32 c p a b => 0x28000000 + c.toNat * 0x200000 + p.toNat * 0x4000 + a.toNat * 0x80 + b.toNat
  | .icmpUi32Imm c p a i => 0x2C000000 + c.toNat * 0x200000 + p.toNat * 0x4000 + a.toNat * 0x80 + i.toNat
  | .plop c d h a l b => 0x30000000 + c.toNat * 0x200000 + d.toNat * 0x4000 + h.toNat * 0x400 + a.toNat * 0x80 + l.toNat * 0x8 + b.toNat
  | .pmovToPred d a => 0x31000000 + d.toNat * 0x4000 + a.toNat * 0x80
  | .pmovToReg d a => 0x32000000 + d.toNat * 0x4000 + a.toNat * 0x80
  | .sel p d a b => 0x34000000 + p.toNat * 0x200000 + d.toNat * 0x4000 + a.toNat * 0x80 + b.toNat
  | .mov w d a => 0x38000000 + w.toNat * 0x1000000 + d.toNat * 0x4000 + a.toNat * 0x80
  | .movi d i => 0x3C000000 + d.toNat * 0x4000 + i.toNat
  | .moviX2 d i => 0x3C200000 + d.toNat * 0x4000 + i.toNat
  | .fadd r d a b => 0x40000000 + r.toNat * 0x1000000 + d.toNat * 0x4000 + a.toNat * 0x80 + b.toNat
  | .fsub r d a b => 0x40200000 + r.toNat * 0x1000000 + d.toNat * 0x4000 + a.toNat * 0x80 + b.toNat
  | .fmul r d a b => 0x40400000 + r.toNat * 0x1000000 + d.toNat * 0x4000 + a.toNat * 0x80 + b.toNat
  | .ffma r d a b => 0x40600000 + r.toNat * 0x1000000 + d.toNat * 0x4000 + a.toNat * 0x80 + b.toNat
  | .fmin d a b => 0x40800000 + d.toNat * 0x4000 + a.toNat * 0x80 + b.toNat
  | .fmax d a b => 0x40A00000 + d.toNat * 0x4000 + a.toNat * 0x80 + b.toNat
  | .fclass d a => 0x40C00000 + d.toNat * 0x4000 + a.toNat * 0x80
  | .faddImm r d a i => 0x44000000 + r.toNat * 0x1000000 + d.toNat * 0x4000 + a.toNat * 0x80 + i.toNat
  | .fsubImm r d a i => 0x44200000 + r.toNat * 0x1000000 + d.toNat * 0x4000 + a.toNat * 0x80 + i.toNat
  | .fmulImm r d a i => 0x44400000 + r.toNat * 0x1000000 + d.toNat * 0x4000 + a.toNat * 0x80 + i.toNat
  | .ffmaImm r d a i => 0x44600000 + r.toNat * 0x1000000 + d.toNat * 0x4000 + a.toNat * 0x80 + i.toNat
  | .fminImm d a i => 0x44800000 + d.toNat * 0x4000 + a.toNat * 0x80 + i.toNat
  | .fmaxImm d a i => 0x44A00000 + d.toNat * 0x4000 + a.toNat * 0x80 + i.toNat
  | .fcmp c p a b => 0x48000000 + c.toNat * 0x200000 + p.toNat * 0x4000 + a.toNat * 0x80 + b.toNat
  | .fcmpImm c p a i => 0x4C000000 + c.toNat * 0x200000 + p.toNat * 0x4000 + a.toNat * 0x80 + i.toNat
  | .hadd2 r t d a b => 0x50000000 + r.toNat * 0x1000000 + t.toNat * 0x800000 + d.toNat * 0x4000 + a.toNat * 0x80 + b.toNat
  | .hmul2 r t d a b => 0x50200000 + r.toNat * 0x1000000 + t.toNat * 0x800000 + d.toNat * 0x4000 + a.toNat * 0x80 + b.toNat
  | .hfma2 r t d a b => 0x50400000 + r.toNat * 0x1000000 + t.toNat * 0x800000 + d.toNat * 0x4000 + a.toNat * 0x80 + b.toNat
  | .hmax2 t d a b => 0x50600000 + t.toNat * 0x800000 + d.toNat * 0x4000 + a.toNat * 0x80 + b.toNat
  | .rcp r d a => 0x60000000 + r.toNat * 0x1000000 + d.toNat * 0x4000 + a.toNat * 0x80
  | .rsq d a => 0x60200000 + d.toNat * 0x4000 + a.toNat * 0x80
  | .sqrt r d a => 0x60400000 + r.toNat * 0x1000000 + d.toNat * 0x4000 + a.toNat * 0x80
  | .ex2 d a => 0x60600000 + d.toNat * 0x4000 + a.toNat * 0x80
  | .lg2 d a => 0x60800000 + d.toNat * 0x4000 + a.toNat * 0x80
  | .sin d a => 0x60A00000 + d.toNat * 0x4000 + a.toNat * 0x80
  | .cos d a => 0x60C00000 + d.toNat * 0x4000 + a.toNat * 0x80
  | .tanh d a => 0x60E00000 + d.toNat * 0x4000 + a.toNat * 0x80
  | .cvt r s d a t h x => 0x64000000 + r.toNat * 0x1000000 + s.toNat * 0x200000 + d.toNat * 0x4000 + a.toNat * 0x80 + t.toNat * 0x8 + h.toNat * 0x4 + x.toNat * 0x2
  | .cvtsr x f d a b => 0x68000000 + x.toNat * 0x1000000 + f.toNat * 0x200000 + d.toNat * 0x4000 + a.toNat * 0x80 + b.toNat
  | .rng d a b => 0x6C000000 + d.toNat * 0x4000 + a.toNat * 0x80 + b.toNat
  | .shfl d a b => 0x70000000 + d.toNat * 0x4000 + a.toNat * 0x80 + b.toNat
  | .shflx d a b => 0x70200000 + d.toNat * 0x4000 + a.toNat * 0x80 + b.toNat
  | .shflup d a b => 0x70400000 + d.toNat * 0x4000 + a.toNat * 0x80 + b.toNat
  | .shfldn d a b => 0x70600000 + d.toNat * 0x4000 + a.toNat * 0x80 + b.toNat
  | .qswz d a b => 0x70800000 + d.toNat * 0x4000 + a.toNat * 0x80 + b.toNat
  | .qbc d a b => 0x70A00000 + d.toNat * 0x4000 + a.toNat * 0x80 + b.toNat
  | .lbc d a b => 0x70C00000 + d.toNat * 0x4000 + a.toNat * 0x80 + b.toNat
  | .shflImm d a i => 0x74000000 + d.toNat * 0x4000 + a.toNat * 0x80 + i.toNat
  | .shflxImm d a i => 0x74200000 + d.toNat * 0x4000 + a.toNat * 0x80 + i.toNat
  | .shflupImm d a i => 0x74400000 + d.toNat * 0x4000 + a.toNat * 0x80 + i.toNat
  | .shfldnImm d a i => 0x74600000 + d.toNat * 0x4000 + a.toNat * 0x80 + i.toNat
  | .qswzImm d a i => 0x74800000 + d.toNat * 0x4000 + a.toNat * 0x80 + i.toNat
  | .qbcImm d a i => 0x74A00000 + d.toNat * 0x4000 + a.toNat * 0x80 + i.toNat
  | .lbcImm d a i => 0x74C00000 + d.toNat * 0x4000 + a.toNat * 0x80 + i.toNat
  | .voteAll d p => 0x78000000 + d.toNat * 0x4000 + p.toNat * 0x80
  | .voteAny d p => 0x78200000 + d.toNat * 0x4000 + p.toNat * 0x80
  | .voteBallot d p => 0x79400000 + d.toNat * 0x4000 + p.toNat * 0x80
  | .matchLanes d a => 0x79600000 + d.toNat * 0x4000 + a.toNat * 0x80
  | .trn8B8 d a => 0x79800000 + d.toNat * 0x4000 + a.toNat * 0x80
  | .trn8B16 d a => 0x7AA00000 + d.toNat * 0x4000 + a.toNat * 0x80
  | .trn8B32 d a => 0x7BC00000 + d.toNat * 0x4000 + a.toNat * 0x80
  | .lredAddI32 d a => 0x7C000000 + d.toNat * 0x4000 + a.toNat * 0x80
  | .lredAddF32 r d a => 0x7C200000 + r.toNat * 0x1000000 + d.toNat * 0x4000 + a.toNat * 0x80
  | .lredMinF32 d a => 0x7C400000 + d.toNat * 0x4000 + a.toNat * 0x80
  | .lredMaxF32 d a => 0x7C600000 + d.toNat * 0x4000 + a.toNat * 0x80
  | .lscanAddI32 d a => 0x7C800000 + d.toNat * 0x4000 + a.toNat * 0x80
  | .lscanAddF32 r d a => 0x7CA00000 + r.toNat * 0x1000000 + d.toNat * 0x4000 + a.toNat * 0x80
  | .lredMinI32 d a => 0x7CC00000 + d.toNat * 0x4000 + a.toNat * 0x80
  | .lredMaxI32 d a => 0x7CE00000 + d.toNat * 0x4000 + a.toNat * 0x80
  | .ldp p d a o => 0x80000000 + p.toNat * 0x200000 + d.toNat * 0x4000 + a.toNat * 0x80 + o.toNat
  | .stp d a o => 0x84000000 + d.toNat * 0x4000 + a.toNat * 0x80 + o.toNat
  | .mat d a => 0x88000000 + d.toNat * 0x4000 + a.toNat * 0x80
  | .pdrop a => 0x88200000 + a.toNat * 0x80
  | .pqry d a => 0x88400000 + d.toNat * 0x4000 + a.toNat * 0x80
  | .pqryPred p a => 0x88600000 + p.toNat * 0x4000 + a.toNat * 0x80
  | .pmigr d a b => 0x88800000 + d.toNat * 0x4000 + a.toNat * 0x80 + b.toNat
  | .ld w f d a o => 0x90000000 + w.toNat * 0x1000000 + f.toNat * 0x200000 + d.toNat * 0x4000 + a.toNat * 0x80 + o.toNat
  | .st w f d a o => 0x94000000 + w.toNat * 0x1000000 + f.toNat * 0x200000 + d.toNat * 0x4000 + a.toNat * 0x80 + o.toNat
  | .ldq w p d a o => 0x98000000 + w.toNat * 0x1000000 + p.toNat * 0x200000 + d.toNat * 0x4000 + a.toNat * 0x80 + o.toNat
  | .ldsB32 w d a o => 0x9C000000 + w.toNat * 0x1000000 + d.toNat * 0x4000 + a.toNat * 0x80 + o.toNat
  | .stsB32 w d a o => 0x9C200000 + w.toNat * 0x1000000 + d.toNat * 0x4000 + a.toNat * 0x80 + o.toNat
  | .ldsUi16 d a o => 0x9C400000 + d.toNat * 0x4000 + a.toNat * 0x80 + o.toNat
  | .ldsS16 d a o => 0x9C600000 + d.toNat * 0x4000 + a.toNat * 0x80 + o.toNat
  | .stsB16 d a o => 0x9C800000 + d.toNat * 0x4000 + a.toNat * 0x80 + o.toNat
  | .ldsUi8 d a o => 0x9CA00000 + d.toNat * 0x4000 + a.toNat * 0x80 + o.toNat
  | .ldsS8 d a o => 0x9CC00000 + d.toNat * 0x4000 + a.toNat * 0x80 + o.toNat
  | .stsB8 d a o => 0x9CE00000 + d.toNat * 0x4000 + a.toNat * 0x80 + o.toNat
  | .lda w s d a o => 0xA0000000 + w.toNat * 0x1000000 + s.toNat * 0x200000 + d.toNat * 0x4000 + a.toNat * 0x80 + o.toNat
  | .stl w s d a o => 0xA4000000 + w.toNat * 0x1000000 + s.toNat * 0x200000 + d.toNat * 0x4000 + a.toNat * 0x80 + o.toNat
  | .atom w f d a s o => 0xA8000000 + w.toNat * 0x1000000 + f.toNat * 0x200000 + d.toNat * 0x4000 + a.toNat * 0x80 + s.toNat * 0x10 + o.toNat * 0x4
  | .atomn w f d a s o => 0xA8000001 + w.toNat * 0x1000000 + f.toNat * 0x200000 + d.toNat * 0x4000 + a.toNat * 0x80 + s.toNat * 0x10 + o.toNat * 0x4
  | .atoms w f d a s o => 0xA8000002 + w.toNat * 0x1000000 + f.toNat * 0x200000 + d.toNat * 0x4000 + a.toNat * 0x80 + s.toNat * 0x10 + o.toNat * 0x4
  | .fence k s => 0xAC000000 + k.toNat * 0x400 + s.toNat * 0x80
  | .wcdrain => 0xAC200000
  | .pref a c => 0xAD400000 + a.toNat * 0x80 + c.toNat
  | .cvta d a m => 0xAD600000 + d.toNat * 0x4000 + a.toNat * 0x80 + m.toNat
  | .cpkick a b => 0xB0000000 + a.toNat * 0x80 + b.toNat
  | .boinit a b => 0xB0200000 + a.toNat * 0x80 + b.toNat
  | .boarr a b => 0xB0400000 + a.toNat * 0x80 + b.toNat
  | .bowait d a => 0xB0600000 + d.toNat * 0x4000 + a.toNat * 0x80
  | .stn w d a p => 0xB4000000 + w.toNat * 0x1000000 + d.toNat * 0x4000 + a.toNat * 0x80 + p.toNat
  | .nfence => 0xB4200000
  | .relq a b => 0xB5400000 + a.toNat * 0x80 + b.toNat
  | .pgreq d a b => 0xB9000000 + d.toNat * 0x4000 + a.toNat * 0x80 + b.toNat
  | .rzero d a b => 0xB9200000 + d.toNat * 0x4000 + a.toNat * 0x80 + b.toNat
  | .rcopy d a b => 0xBA400000 + d.toNat * 0x4000 + a.toNat * 0x80 + b.toNat
  | .wload d a => 0xC1000000 + d.toNat * 0x4000 + a.toNat * 0x80
  | .wloadT d a => 0xC1200000 + d.toNat * 0x4000 + a.toNat * 0x80
  | .wswap => 0xC0400000
  | .accz a => 0xC0600000 + a.toNat * 0x80
  | .accld w d a => 0xC0800000 + w.toNat * 0x1000000 + d.toNat * 0x4000 + a.toNat * 0x80
  | .accldScr a b => 0xC09E0000 + a.toNat * 0x80 + b.toNat
  | .accst w d a => 0xC0A00000 + w.toNat * 0x1000000 + d.toNat * 0x4000 + a.toNat * 0x80
  | .accstScr a b => 0xC0BE0000 + a.toNat * 0x80 + b.toNat
  | .gang a => 0xC0C00000 + a.toNat * 0x80
  | .opfence => 0xC0E00000
  | .mmaC8 d a => 0xC6000000 + d.toNat * 0x4000 + a.toNat * 0x80
  | .mmaBf16 d a => 0xC6200000 + d.toNat * 0x4000 + a.toNat * 0x80
  | .mmao d a b => 0xC6400000 + d.toNat * 0x4000 + a.toNat * 0x80 + b.toNat
  | .mwait a => 0xC4600000 + a.toNat * 0x80
  | .bra p n o => 0xD0000000 + p.toNat * 0x800000 + n.toNat * 0x400000 + o.toNat
  | .call p n o => 0xD4000000 + p.toNat * 0x800000 + n.toNat * 0x400000 + o.toNat
  | .brt a n => 0xD8000000 + a.toNat * 0x80 + n.toNat
  | .callt a n => 0xD8200000 + a.toNat * 0x80 + n.toNat
  | .ret => 0xD8400000
  | .meet i => 0xE0000000 + i.toNat
  | .meetw d i => 0xE0200000 + d.toNat * 0x4000 + i.toNat
  | .mpush => 0xE0400000
  | .mpop => 0xE0600000
  | .exit => 0xE0800000
  | .nap n => 0xE0A00000 + n.toNat
  | .yield => 0xE0C00000
  | .bar d b => 0xE4000000 + d.toNat * 0x4000 + b.toNat
  | .bara d b => 0xE4200000 + d.toNat * 0x4000 + b.toNat
  | .barw b => 0xE4400000 + b.toNat
  | .cbar d b => 0xE4600000 + d.toNat * 0x4000 + b.toNat
  | .width w => 0xE8000000 + w.toNat
  | .wlock => 0xE8200000
  | .wfree => 0xE8400000
  | .rclaim n => 0xE8600000 + n.toNat
  | .rgive n => 0xE8800000 + n.toNat
  | .win n => 0xE8A00000 + n.toNat
  | .srd d s => 0xF0000000 + d.toNat * 0x4000 + s.toNat
  | .swr d s => 0xF0200000 + d.toNat * 0x4000 + s.toNat
  | .launch d p => 0xF0400000 + d.toNat * 0x4000 + p.toNat
  | .trap c => 0xF0600000 + c.toNat
  | .tret => 0xF0800000
  | .bkpt c => 0xF0A00000 + c.toNat
  | .cntclm d t u p => 0xF4000000 + d.toNat * 0x4000 + t.toNat * 0x40 + u.toNat * 0x8 + p.toNat
  | .cntrd d h t u c => 0xF4200000 + d.toNat * 0x4000 + h.toNat * 0x80 + t.toNat * 0x40 + u.toNat * 0x8 + c.toNat
  | .cntrel t u => 0xF4400000 + t.toNat * 0x40 + u.toNat * 0x8
  | .trmark d t => 0xF4600000 + d.toNat * 0x4000 + t.toNat
  | .endRun g y a n => 0xFC000000 + g.toNat * 0x100000 + y.toNat * 0x80000 + a.toNat * 0x1000 + n.toNat * 0x200
  | .xi x => 0xFC800000 + x.toNat
  | .guard p n => 0xFD000000 + p.toNat * 0x100000 + n.toNat * 0x80000
  | .runSelect _ _ => 0
  | .skipCountBoost _ => 0
  | .gapExpire _ => 0
  | .scoreboardWriteComplete _ _ => 0
  | .napExpire _ => 0
  | .meetTimeout _ _ => 0
  | .homeOperation _ => 0
  | .homeAnswerArrival _ => 0
  | .creditAckArrival _ => 0
  | .matrixOpStart _ _ _ => 0
  | .wswapTakeEffect _ _ _ => 0
  | .matrixOpComplete _ _ _ _ => 0
  | .copyRequestStart _ => 0
  | .copyLineLand _ _ _ => 0
  | .copyOutwardWrite _ _ => 0
  | .wcBufferTimeout _ _ => 0
  | .stnNameReturn _ _ => 0
  | .relqInvalidate _ => 0
  | .rowOpStep _ => 0
  | .rowOpComplete _ => 0
  | .dramRefresh _ _ => 0
  | .scrubRead _ _ => 0
  | .launchWindowDmwr _ _ _ => 0
  | .launchWindowPostedWrite _ => 0
  | .fabricLaunch _ _ _ _ => 0
  | .tokenRefill _ _ => 0
  | .fabricMemoryPacket _ => 0
  | .waitWordPoll _ => 0
  | .launchHeaderRead _ => 0
  | .launchPriorityBoost _ => 0
  | .launchStarvationHold _ => 0
  | .blockPlace _ => 0
  | .launchComplete _ => 0
  | .meshForeignPacket _ _ => 0
  | .linkReadCompletion _ _ => 0
  | .linkReadTimeout _ => 0
  | .partidWrite _ _ => 0
  | .ctxdescWrite _ _ _ => 0
  | .resctlWrite _ _ _ => 0
  | .invPages _ _ => 0
  | .invContext _ _ => 0
  | .invPartition _ _ => 0
  | .invCommandExecute _ => 0
  | .invCommandComplete _ => 0
  | .fqResolve _ _ => 0
  | .fqRefuse _ _ => 0
  | .fqResumePxexh _ _ => 0
  | .fqheadWrite _ _ => 0
  | .fqctlWrite _ _ => 0
  | .victimWrite _ _ => 0
  | .vfFrameCountWrite _ _ _ => 0
  | .frameAgingTick => 0
  | .mapReadSector _ _ => 0
  | .mapDonateUnit _ _ => 0
  | .mapReclaimUnit _ _ => 0
  | .mapWriteFrame _ _ => 0
  | .mapCommandDone _ => 0
  | .flushFrame _ _ => 0
  | .flushFrameDone _ => 0
  | .pfClaimUnit _ _ => 0
  | .pfReleaseUnit _ => 0
  | .pfAckTrace _ _ => 0
  | .tenantEntryWrite _ _ _ _ => 0
  | .registerWrite _ _ _ => 0
  | .snapshotWindow _ => 0
  | .tracePcSample _ => 0
  | .reuseTagExpire _ _ => 0
  | .heatChargeWindow _ => 0
  | .coneSample _ _ _ _ => 0
  | .damperEvaluate _ => 0
  | .thermalPowerOff => 0
  | .powerFloorUpdate _ => 0
  | .vfCapUpdate _ _ => 0
  | .voltageUpdate _ => 0
  | .unitGate _ => 0
  | .unitWake _ => 0
  | .powerOnReset _ => 0
  | .packageReset => 0
  | .vfFlr _ => 0
  | .recoveryImageWrite _ => 0
  | .lifetimeRecordWrite => 0
  | .orderlyShutdown => 0
  | .attestRequest _ => 0
  | .attestReportReady _ => 0
  | .bindTenantKey _ _ _ => 0
  | .contextCreate _ _ _ _ => 0
  | .preempt _ => 0
  | .contextSave _ => 0
  | .restore _ _ => 0
  | .restoreComplete _ => 0
  | .flattenContext _ => 0
  | .liveMigrate _ _ _ => 0
  | .drainMigrate _ => 0
  | .debugAttach _ _ => 0
  | .debugStop _ => 0
  | .debugResume _ _ => 0
  | .debugStepSet _ _ => 0
  | .debugDump _ _ => 0
  | .setColumnSize _ _ => 0
  | .setLowWater _ _ => 0
  | .setAgingPeriod _ => 0
  | .loadCodeObject _ _ => 0
  | .unloadCodeObject _ _ => 0
  | .illegalEncoding _ => 0
  | .writePerformed _ => 0
  | .powerFailure => 0
  | .voltageDroop _ => 0
  | .contextDestroy _ => 0

/-- The bytes of a word as memory holds them, lowest address first (R2). -/
def wordBytes (n : Nat) : List Byte :=
  [BitVec.ofNat 8 n, BitVec.ofNat 8 (n / 2 ^ 8), BitVec.ofNat 8 (n / 2 ^ 16), BitVec.ofNat 8 (n / 2 ^ 24)]

/-- The word that four bytes hold (R2). -/
def wordOfBytes (bs : List Byte) : Nat :=
  match bs with
  | [a, b, c, d] => a.toNat + b.toNat * 2 ^ 8 + c.toNat * 2 ^ 16 + d.toNat * 2 ^ 24
  | _ => 0

/-- The decoder on bytes: the first four hold the word. -/
def decodeBytes (bs : List Byte) : Except DecodeRefusal Instr := decode (wordOfBytes (bs.take 4))

/-- What the decoder reads from an instruction whose bits are w; every P8 instruction is one 32-bit word (R24). -/
def decodeTableWord (_nbits w : Nat) : Option Instr :=
  match decodeBytes (wordBytes w) with
  | .ok i => some i
  | .error _ => none

end Sys2Proof
end

