-- ==== Sys2Proof/Machine/Trap.lean ====
section
/-! DEFINITION. Meanings of thread control, traps and breakpoints (R257, R258, R320, R332 to R334). -/

namespace Sys2Proof.Machine

/-- TRAP (R332). -/
def execTrap (c : BitVec 14) (s : State) : Host.Outcome State Fault Refusal :=
  issue s { guard := false } noTarget fun _ _ => .fault { code := 0x48, aux := c.toNat }

/-- Whether a debugger is attached to a context (R318). -/
def State.debugged (s : State) (ctx : Nat) : Bool := match s.ctxAt ctx with | some c => c.dbg.isSome | none => false

/-- BKPT (R320): the group stops after it, or it traps, or it has no effect. The record's TAG is the code, its VAL the cause. -/
def execBkpt (c : BitVec 14) (s : State) : Host.Outcome State Fault Refusal :=
  issue s { guard := false } noTarget fun s i =>
    if s.debugged i.g.ctx then
      let s := s.modIss i fun g => { g.advance.pause .eligible with stopped := true }
      .settled (s.traceGroup i.g i.loc 7 c.toNat i.pc.toNat 2)
    else if i.g.trap.isSome ∨ i.b.trapEnt.isNone then .done s
    else .fault { code := 0x49, aux := c.toNat }

/-- The trap frame of a lane of a group (R331). -/
def State.frame (s : State) (g : Group) (b : Block) (l : Nat) : List Byte :=
  let m := match s.blockAt b.id with | some x => x.priv | none => []
  rdBytes m (privAddr (g.thread b l) b.privSize) 128

/-- Where a lane goes on after TRET: an offset, and the run position when it continues the interrupted run; none when its RPC
is no run start (R333). -/
def State.resumeAt (s : State) (i : Iss) (t : Trap) (l : Nat) : Option (Word × Option Nat) :=
  let rpc : Word := BitVec.ofNat 32 (fieldAt (s.frame i.g i.b l) 12 4)
  let fpc := t.fpc.getD l 0
  let pos := t.runpos.getD l 0
  if rpc = fpc then some (rpc, some pos)
  else if rpc = fpc + 4 ∧ (t.tkinds.getD l 0 = 1 ∨ t.tkinds.getD l 0 = 2) then some (rpc, some (pos + 1))
  else if (s.runStart i rpc).isNone then some (rpc, none)
  else none

/-- A lane of a group restored from its frame (R333). -/
def restoreLane (fr : List Byte) (at_ : Word × Option Nat) (t : Thread) : Thread :=
  let t := { t with trapfp := 0, wait := .none, pc := at_.1, via := false }
  match at_.2 with
  | some p => { t with tail := true, pos := p, x := (List.range 8).map fun k => BitVec.ofNat 32 (fieldAt fr (32 + 4 * k) 4),
                       xmark := BitVec.ofNat 8 (fieldAt fr 19 1) }
  | none => { t with tail := false, pos := 0, x := List.replicate 8 0, xmark := 0 }

/-- Whether every live lane that entered a group's trap has executed TRET (R333). -/
def Group.trapOver (g : Group) : Bool :=
  match g.trap with
  | some t => (lanesOf t.entered g.grant).all fun l => !(g.threadAt l).live || (g.threadAt l).wait == Wait.tret
  | none => false

/-- Every release that a context has issued is performed and acknowledged (R145, R333). -/
def State.awaitAcks (s : State) (ctx : Nat) : State :=
  let cores := dedup ((s.homeq.filter fun o => o.ctx == ctx).map HomeOp.core)
  let s := cores.foldl State.drainHomes s
  (List.range 80).foldl (fun s c => if (s.coreAt c).acks.isEmpty then s else s.takeAcks c fun a => a.2 == ctx) s

/-- The trap ends (R145, R333, R334). -/
def State.endTrap (s : State) (i : Iss) (t : Trap) : State :=
  let g := i.g
  let ls := (lanesOf t.entered g.grant).filter fun l => (g.threadAt l).live
  let low := (lanesOf t.entered g.grant).headD 0
  let stop := fun (s : State) (code aux : Nat) (pc : Word) =>
    s.endContext g.ctx code pc.toNat i.b.lin (g.index i.b) g.gslot g.core 0 aux
  if (lanesOf t.entered g.grant).any fun l => t.tkinds.getD l 0 == 4 then stop s t.code 0 (t.fpc.getD low 0)
  else if ls.any fun l => (s.resumeAt i t l).isNone then stop s 0x4A 5 i.pc
  else
    let s := s.awaitAcks g.ctx
    let s := s.look i ((ls.map fun l => match s.resumeAt i t l with | some (o, none) => i.startWords o | _ => []).flatten)
    let at_ := (List.range 64).map fun l => ((s.resumeAt i t l).getD (0, none), s.frame g i.b l)
    let frame := fun l => (at_.getD l ((0, none), [])).2
    let s := s.modIss i fun g => { g with
      threads := g.threads.mapIdx fun l (th : Thread) =>
        if t.entered.getLsbD l then restoreLane (frame l) (at_.getD l ((0, none), [])).1 th else th
      preds := g.preds.mapIdx fun p m =>
        let new := maskOf g.grant fun l => fieldAt (frame l) 23 1 / 2 ^ p % 2 == 1
        (m &&& ~~~t.entered) ||| (new &&& t.entered)
      win := BitVec.ofNat 3 (fieldAt (frame low) 22 1)
      trap := none }
    (s.releaseHeld i.loc g.core g.ctx g.gslot t.held).modIss i fun g => g.endSet

/-- TRET (R333). -/
def execTret (s : State) : Host.Outcome State Fault Refusal :=
  issue s { guard := false } noTarget fun s i =>
    match i.g.trap with
    | none => .fault { code := 0x13 }
    | some t =>
      if i.lanes.any fun l => (i.g.threadAt l).trapfp == 0 then .fault { code := 0x13 }
      else
        let g := i.g.modThreads i.act fun t => { t with wait := Wait.tret }
        if g.trapOver then .settled (s.endTrap { i with g := g } t)
        else .settled (s.modIss i fun g => ((g.modThreads i.act fun t => { t with wait := Wait.tret }).tailAt g.iset).endSet)

/-- What follows the exit of some lanes whose group keeps live threads (R40, R257, R333). -/
def State.exitSome (s : State) (i : Iss) (g : Group) : Act :=
  let rest := g.iset &&& g.liveMask
  if rest = 0 then
    let s := s.modIss i fun g => ({ g with ptr := ((lanesOf i.act g.grant).getLast?.getD 0 + 1) % g.grant }).endSet
    let s := match g.trap with
      | some t => if g.trapOver then s.endTrap { i with g := g } t else s
      | none => s
    .settled (s.afterExit i.b.id)
  else
    let t := (s.modIss i fun g => { g with iset := g.withHelpers rest }).afterExit i.b.id
    match t.groupAt i.g.core i.g.part i.g.slot with
    | some x =>
      if x.status = .issuing then .done t
      else .settled ((s.modIss i fun g => (g.tailAt rest).endSet).afterExit i.b.id)
    | none => .settled t

/-- EXIT (R257): a group whose last thread exits is gone; otherwise the rest of the issue set goes on in the run. -/
def execExit (s : State) : Host.Outcome State Fault Refusal :=
  issue s {} noTarget fun s i =>
    let s := s.modIss i fun g => g.modThreads i.act fun t => { t with live := false }
    match s.groupAt i.g.core i.g.part i.g.slot with
    | none => .settled s
    | some g =>
      if g.liveMask = 0 then .settled ((s.groupGone g).afterExit i.b.id) else s.exitSome i g

/-- NAP (R258). -/
def execNap (n : BitVec 14) (s : State) : Host.Outcome State Fault Refusal :=
  issue s { guard := false } noTarget fun s i =>
    let till := (s.coreAt i.g.core).cyc + 16 * n.toNat
    .settled (s.modIss i fun g => g.advance.pause (if n = 0 then .eligible else .parked (.nap till)))

/-- YIELD (R258). -/
def execYield (s : State) : Host.Outcome State Fault Refusal :=
  issue s { guard := false } noTarget fun s i =>
    .settled (s.modIss i fun g => { g.advance.pause .eligible with yielded := true })

end Sys2Proof.Machine
end

