-- ==== Sys2Proof/Machine/Sched.lean ====
section
/-! DEFINITION. The partition scheduler: selecting a group, fetching its next word, the run trailer and the prefixes, slot charges,
the passing of cycles, and the scheduler's events (R34 to R41, R232 to R236, R244, R276 to R278, R396, R398). -/

namespace Sys2Proof.Machine

/-- Whether a damper or cap level withholds the slot of a cycle (R396, R398). -/
def withholds (level cyc : Nat) : Bool := decide (8 ≤ cyc % 8 + level)

/-- Whether a core's damper withholds its slot now (R396). -/
def State.damped (s : State) (core : Nat) : Bool := withholds (s.coreAt core).damper (s.coreAt core).cyc

/-- Whether the power cap of a context's VF withholds its slot on a core now (R398). -/
def State.capped (s : State) (core ctx : Nat) : Bool :=
  match s.ctxAt ctx with
  | some c => withholds (s.vfAt c.vf).cap (s.coreAt core).cyc
  | none => false

/-- The index of the partition's first lane-group slot after the one selected last. -/
def rrSlots (last : Nat) : List Nat := (List.range 16).map fun k => (last + 1 + k) % 16

/-- Whether a group is Eligible and may run (R276, R318, R336). -/
def State.ready (s : State) (g : Group) : Bool :=
  g.status == .eligible && !g.stopped && match s.ctxAt g.ctx with | some c => c.run == .running | none => false

/-- Whether a group can be selected for a run: the power cap does not withhold its slot (R276, R398). -/
def State.selectable (s : State) (g : Group) : Bool := s.ready g && !s.capped g.core g.ctx

/-- Whether what a proxy exhaustion was short of at a home is there now (R145). -/
def State.covers (s : State) (g : Group) (q : Nat × Nat) (handles : Bool) : Bool :=
  if handles then decide (q.2 ≤ 4096 - (s.acct g.core g.ctx).handles.length) else decide (q.2 ≤ s.credits g.core g.ctx q.1)

/-- Whether the reason a group is parked for has cleared (R247). -/
def State.unparked (s : State) (g : Group) (why : Park) : Bool :=
  match why with
  | .presence ls => match s.blockAt g.block with | some b => ls.all fun l => !b.absent.contains l | none => false
  | .copyQueue n => decide ((s.coreAt g.core).reqs.length + n ≤ 64)
  | .barrierObj o => match s.blockAt g.block with | some b => boDone (boWord b.scratch o) | none => false
  | .matrixQueue =>
    let m := s.mat g.core g.part g.ctx
    decide (m.queue.length < 16) && !(m.waiting.any fun es => es.any fun e => e.slot == g.slot)
  | .matrixWait t => !((s.mat g.core g.part g.ctx).queue.any fun o => o.tokens.contains t)
  | .pxexh hs handles => hs.all fun q => s.covers g q handles
  | .gang | .barrier | .claim | .nap _ | .fault => false

/-- The records of a group's proxy exhaustion at some homes whose needs are covered no longer hold it (R145, R322, R326). -/
def State.freePx (s : State) (g : Group) (at_ hs : List (Nat × Nat)) (handles : Bool) : State :=
  let done := at_.filter fun q => s.covers g q handles
  if done = [] then s
  else
    let s := s.modGroup g.core g.part g.slot fun g => { g with
      status := .parked (.pxexh (hs.filter fun q => !done.contains q) handles), records := g.records - done.length }
    { s with recs := s.recs.filter fun r =>
      !(r.kind == 4 && r.core == g.core && r.part == g.part && r.slot == g.slot && r.ctx == g.ctx && done.any fun q => q.1 == r.home) }

/-- A parked group made Eligible; a proxy exhaustion's records no longer hold it (R145, R247). -/
def State.unpark (s : State) (g : Group) (why : Park) : State :=
  (match why with | .pxexh hs handles => s.freePx g hs hs handles | _ => s).modGroup g.core g.part g.slot fun g => { g with status := .eligible }

/-- The groups of a partition whose parks have cleared made Eligible. -/
def State.unparkAll (s : State) (core part : Nat) : State :=
  (s.groups.filter fun g => g.core == core && g.part == part).foldl (fun s g =>
    match g.status with
    | .parked why =>
      if s.unparked g why then s.unpark g why
      else match why with | .pxexh hs handles => s.freePx g hs hs handles | _ => s
    | _ => s) s

/-- The groups of a partition of the highest class that can be selected, round-robin from the slot after the last (R276). -/
def State.bestOf (s : State) (core part : Nat) : List Group :=
  let es := s.groups.filter fun g => g.core == core && g.part == part && s.selectable g
  let order := (rrSlots ((s.coreAt core).last.getD part 0)).filterMap fun k => es.find? fun g => g.slot == k
  order.filter fun g => order.all fun h => decide (h.cls ≤ g.cls)

/-- The group that a partition selects: those released by system software in queue order first, then the highest class, round-robin
from the slot after the last, a group that has yielded behind the others of its class (R34, R276, R327). -/
def State.pick (s : State) (core part : Nat) : Option Group :=
  let es := s.groups.filter fun g => g.core == core && g.part == part && s.selectable g
  let rel := es.filter fun g => g.resumed.isSome
  match rel.find? fun g => rel.all fun h => decide (g.resumed.getD 0 ≤ h.resumed.getD 0) with
  | some g => some g
  | none =>
    let best := s.bestOf core part
    (best.filter fun g => !g.yielded).head? <|> best.head?

/-- Whether a group that has yielded would have been selected had it not (R276). -/
def State.ceded (s : State) (h g : Group) : Bool :=
  g.resumed.isNone && h.yielded &&
    ((s.bestOf g.core g.part).find? fun x => !x.yielded || x.slot == h.slot).any fun x => x.slot == h.slot

/-- A thread that joins an issue set at its PC; one that starts a run has its written marks cleared (R40, R41). -/
def joinRun (pc : Word) (t : Thread) : Thread :=
  if t.tail then { t with tail := false } else { t with pc := pc, xmark := 0, pos := 0 }

/-- A helper lane that joins an issue set: its written marks go with those of the set's threads (R41, R77). -/
def helpRun (tail : Bool) (t : Thread) : Thread := if tail then { t with tail := false } else { t with tail := false, xmark := 0, pos := 0 }

/-- The group with its issue set formed (R40, R232). -/
def Group.begin_ (g : Group) : Group :=
  if g.cont then
    { g with status := .issuing, cont := false, pfx := Pfx.none }
  else
    match g.candidates with
    | [] => { g with status := g.rest }
    | l :: ls =>
      let t := g.threadAt l
      let set := g.withHelpers (maskOf g.grant fun k => (l :: ls).contains k && (g.threadAt k).pc == t.pc)
      let pos := if t.tail then t.pos else 0
      let join := fun k (th : Thread) => if set.getLsbD k then { (if th.live then joinRun t.pc th else helpRun t.tail th) with pc := t.pc } else th
      let g := { g with threads := g.threads.mapIdx join }
      { g with status := .issuing, iset := set, pos := pos, pfx := Pfx.none }

/-- Where a group's events are counted. -/
def State.groupLoc (s : State) (g : Group) : Where :=
  let vf := match s.ctxAt g.ctx with | some c => c.vf | none => 0
  let seq := match s.blockAt g.block with
    | some b => (match s.launchAt b.launch with | some l => l.seq | none => 0)
    | none => 0
  ⟨false, g.core, g.part, g.ctx, vf, seq⟩

/-- The lanes of a group that wait as the tail of a run (R40). -/
def Group.tails (g : Group) : Mask := maskOf g.grant fun l => (g.threadAt l).live && (g.threadAt l).tail

/-- Results still on their way to temporaries of a run that has ended do not reach the next run; those of a run's tail do (R40, R41). -/
def State.dropTemps (s : State) (g : Group) : State :=
  let tmp := fun k => decide (272 ≤ k) && decide (k < 280)
  let cut := fun (wr : Mask) (p k key : Nat) => if p = g.part ∧ k = g.slot ∧ tmp key then wr &&& g.tails else wr
  let s := { s with homeq := s.homeq.map fun (o : HomeOp) =>
    if o.core = g.core then { o with kind := match o.kind with | .bring h wr p k key => .bring h (cut wr p k key) p k key | x => x } else o }
  let s := s.modCore g.core fun k => { k with
    answers := k.answers.map fun (a : Answer) => if a.pred.isNone then { a with wr := cut a.wr a.part a.slot a.key } else a }
  let comes := fun (key : Nat) => (s.homeq.any fun o => o.core == g.core && match o.kind with
      | .bring _ wr p k x => p == g.part && k == g.slot && x == key && wr != 0
      | _ => false) ||
    (s.coreAt g.core).answers.any fun a => a.part == g.part && a.slot == g.slot && a.pred.isNone && a.key == key && a.wr != 0
  s.modGroup g.core g.part g.slot fun g => { g with sb := g.sb.filter fun e => !tmp e.1 || comes e.1 }

/-- The priority class of a group's role (R276). -/
def State.baseClass (s : State) (g : Group) : Nat :=
  match s.blockAt g.block with
  | some b => (match b.roles[g.role]? with | some r => r.cls | none => 0)
  | none => 0

/-- A group of a partition after another has been picked: its skip count (R276). -/
def passOver (core part slot : Nat) (elig : Group → Bool) (g : Group) : Group :=
  if g.core = core ∧ g.part = part then
    let g := if g.slot ≠ slot ∧ elig g then { g with skip := g.skip + 1 } else g
    { g with yielded := false }
  else g

/-- A group selected for a run (R276). -/
def State.start (s : State) (g : Group) : State :=
  let fresh := !g.cont && match g.candidates with | l :: _ => !(g.threadAt l).tail | [] => false
  let base := s.baseClass g
  let s := if fresh then (s.count (s.groupLoc g) 1 1 1).dropTemps g else s
  let elig := fun (h : Group) => s.ready h && !s.ceded h g
  let s := { s with groups := s.groups.map (passOver g.core g.part g.slot elig) }
  let s := s.modGroup g.core g.part g.slot fun g => { g.begin_ with cls := base, skip := 0, resumed := none }
  let s := s.modCore g.core fun c => { c with last := modAt c.last g.part fun _ => g.slot }
  let up := (s.groups.filter fun h => h.core == g.core && h.part == g.part && decide (64 ≤ h.skip)).map fun h =>
    Due.skipCountBoost ⟨h.core, h.part, h.slot⟩
  { s with agenda := s.agenda ++ up }

/-- RUN_SELECT (R276): a partition that issues goes on; otherwise it selects a group, when its slot is not withheld. -/
def execRunSelect (core part : Nat) (s : State) : Host.Outcome State Fault Refusal :=
  let s := s.unparkAll core part
  if (s.groups.any fun g => g.core == core && g.part == part && g.status == .issuing) || s.damped core then .next s
  else match s.pick core part with
    | some g => .next (s.start g)
    | none => .next s

/-- SKIP_COUNT_BOOST (R276). -/
def execSkipCountBoost (r : GroupRef) (s : State) : Host.Outcome State Fault Refusal :=
  .next (s.modGroup r.core r.part r.slot fun g =>
    if 64 ≤ g.skip then { g with skip := 0, cls := min 3 (g.cls + 1) } else g)

/-- The pending registers among those a group awaits (R34). -/
def Group.pendingOf (g : Group) (await : List Nat) : List Nat := await.filter fun k => g.sb.any fun e => e.1 == k

/-- A group whose END lets it go on: waiting for what it awaits, or where its threads leave it (R34, R247). -/
def Group.afterEnd (g : Group) (await : List Nat) : Group :=
  match g.pendingOf await with
  | [] => { g with status := g.rest }
  | ks => { g with status := .awaiting ks }

/-- GAP_EXPIRE (R34). -/
def execGapExpire (r : GroupRef) (s : State) : Host.Outcome State Fault Refusal :=
  let cyc := (s.coreAt r.core).cyc
  .next (s.modGroup r.core r.part r.slot fun g =>
    match g.status with
    | .gapped till await => if till ≤ cyc then g.afterEnd await else g
    | _ => g)

/-- SCOREBOARD_WRITE_COMPLETE (R34, R40): a handle is no longer pending; a group that awaits nothing more goes on. -/
def execScoreboardWriteComplete (r : GroupRef) (n : Nat) (s : State) : Host.Outcome State Fault Refusal :=
  .next (s.modGroup r.core r.part r.slot fun g =>
    let g := { g with sb := g.sb.filter fun e => !(e.1 == n && e.2 == Pend.handle) }
    match g.status with
    | .awaiting ks => g.afterEnd ks
    | _ => g)

/-- NAP_EXPIRE (R258). -/
def execNapExpire (r : GroupRef) (s : State) : Host.Outcome State Fault Refusal :=
  let cyc := (s.coreAt r.core).cyc
  .next (s.modGroup r.core r.part r.slot fun g =>
    match g.status with
    | .parked (.nap till) => if till ≤ cyc then { g with status := .eligible } else g
    | _ => g)

/-- The held lanes of a group at a meeting point (R234). -/
def Group.heldAt (g : Group) (target : Word) : List Nat :=
  (List.range g.grant).filter fun l => g.held l && (g.threadAt l).meet == target

/-- The meetings of a group with held threads. -/
def Group.meetings (g : Group) : List Word := dedup (((List.range g.grant).filter g.held).map fun l => (g.threadAt l).meet)

/-- MEET_TIMEOUT (R235): a timer that has expired while its meeting is incomplete. -/
def execMeetTimeout (r : GroupRef) (target : Word) (s : State) : Host.Outcome State Fault Refusal :=
  let cyc := (s.coreAt r.core).cyc
  .next (s.modGroup r.core r.part r.slot fun g =>
    if g.timers.any fun t => t.1 == target && t.2 != 0 && decide (t.2 < cyc) then
      match g.heldAt target with
      | [] => g
      | ls =>
        let g := g.modThreads (maskOf g.grant fun l => ls.contains l) fun t => { t with meet := noMeet, tmo := none }
        Group.refresh { g with mto := true, timers := g.timers.filter fun t => t.1 != target }
    else g)

/-- The timers of a group at the end of core cycle c: started for meetings whose first threads are now held, dropped for meetings
that none waits at (R235, R253). A timer of 0 never expires. -/
def Group.runTimers (g : Group) (c : Nat) : Group :=
  let ms := g.meetings
  let old := g.timers.filter fun t => ms.contains t.1
  let new := (ms.filter fun m => !(old.any fun t => t.1 == m)).map fun m =>
    (m, match (g.threadAt ((g.heldAt m).headD 0)).tmo with | some t => c + t | none => 0)
  { g with timers := old ++ new }

/-- The timers that have run out at the end of core cycle c. -/
def Group.expired (g : Group) (c : Nat) : List Word := (g.timers.filter fun t => t.2 != 0 && decide (t.2 ≤ c)).map Prod.fst

/-- Whether a group is deadlocked at meetings (R236, R330). -/
def Group.meetDead (g : Group) : Bool :=
  let ls := (List.range g.grant).filter fun l => (g.threadAt l).live && g.inTrap l
  let hs := ls.filter g.held
  g.status == .held && !hs.isEmpty && ls.all (fun l => g.held l || (g.threadAt l).wait == Wait.tret) &&
    hs.all fun l => !(g.timers.any fun t => t.1 == (g.threadAt l).meet && t.2 != 0)

/-- MEETDLK reported for a group (R236, R322). -/
def State.meetDeadlock (s : State) (g : Group) : State :=
  match s.blockAt g.block with
  | none => s
  | some b =>
    let pc := (g.threadAt (((List.range g.grant).filter g.held).headD 0)).pc
    s.takeFault g b (s.groupLoc g) g.liveMask g.liveMask { code := 0x10 } (fun _ => pc) (fun _ => 0) [] []

/-- Whether a group can never go on by itself: parked for "claim" in RCLAIM, or for "barrier" at a block barrier or a
role-collective (R244). -/
def Group.stuck (g : Group) (b : Block) : Bool :=
  let claim := match b.roles[g.role]? with
    | some r => (match r.coll.head? with | some (_, .rclaim _) => true | _ => false)
    | none => false
  (g.status == .parked .claim && claim) ||
    (g.status == .parked .barrier && !(g.threads.any fun t => t.live && match t.wait with | .cluster _ => true | _ => false))

/-- Whether a block is deadlocked (R244). -/
def State.blockDead (s : State) (b : Block) : Bool :=
  let gs := s.groups.filter fun g => g.block == b.id
  !gs.isEmpty && gs.all fun g => g.stuck b

/-- The live group of a block with the lowest group index (R322). -/
def State.lowGroup (s : State) (b : Block) : Option Group :=
  let gs := s.groups.filter fun g => g.block == b.id
  gs.find? fun g => gs.all fun h => decide (g.index b ≤ h.index b)

/-- RDEADLK reported for a block: its live group with the lowest index, and the roles parked in RCLAIM (R244, R322). -/
def State.blockDeadlock (s : State) (b : Block) : State :=
  let gs := s.groups.filter fun g => g.block == b.id
  match s.lowGroup b with
  | none => s
  | some g =>
    let mask := ((dedup ((gs.filter fun g => g.status == .parked .claim).map Group.role)).map fun r => 2 ^ r).sum
    s.takeFault g b (s.groupLoc g) g.liveMask g.liveMask { code := 0x11, aux := mask } (fun _ => 0) (fun _ => 0) [] []

/-- The deadlocks that the cores can prove are reported, by the places of the groups that they name (R236, R244, R335). -/
def State.reportDeadlocks (s : State) : State :=
  let run := fun (c : Nat) => match s.ctxAt c with | some x => x.run == .running | none => false
  let meet := s.groups.filter fun g => run g.ctx && g.meetDead
  let heads := (s.blocks.filter fun b => run b.ctx && s.blockDead b).filterMap s.lowGroup
  (byPlace (meet ++ heads)).foldl (fun s g =>
    if !s.groups.any fun x => x.isAt g.core g.part g.slot && x.block == g.block then s
    else if meet.contains g then s.meetDeadlock g
    else match s.blockAt g.block with | some b => s.blockDeadlock b | none => s) s

/-- The fault of a fetch, or of a run too long, at the word fetched (R39, R287). -/
def State.fetchFault (s : State) (g : Group) (f : Flt) : State :=
  match s.issOf g with
  | some i => s.settle i {} (.fault { f with at_ := some g.here })
  | none => s

/-- The next word of the group that issues, or the fault that stops it: RUNLEN before any other check (R39, R48). -/
def State.fetch (s : State) (g : Group) : Except Flt Word × State :=
  match s.blockAt g.block with
  | none => (.error { code := 0x26 }, s)
  | some b =>
    match s.codeWord g.core g.ctx b.base g.here with
    | (.error f, s) => (.error (if g.refused.isSome then { f with code := 0x26, cause := 0 } else f), s)
    | (.ok w, s) => (if 24 ≤ g.pos ∧ !isEnd w then .error { code := 0x04 } else .ok w, s)

/-- ILLEGAL_ENCODING (R46): a word that the decoder refuses raises ILLENC at its own address. -/
def execIllegalEncoding (w : Word) (s : State) : Host.Outcome State Fault Refusal :=
  match decode w.toNat with
  | .ok _ => .next s
  | .error _ =>
    match s.issuer with
    | none => .refused .noIssuer
    | some g => .next (s.fetchFault g { code := 0x01 })

/-- END (R34). -/
def execEndRun (gap : BitVec 3) (y : BitVec 1) (a : BitVec 7) (n : BitVec 3) (s : State) : Host.Outcome State Fault Refusal :=
  match s.issuer with
  | none => .refused .noIssuer
  | some g =>
    match s.issOf g with
    | none => .refused .noIssuer
    | some i =>
      match i.prefixFault { guard := false } with
      | some f => .next (s.settle i {} (.fault f))
      | none =>
        let await := (List.range n.toNat).filterMap fun j => regKey g.win a j
        let till := (s.coreAt g.core).cyc + 1 + gap.toNat
        .next (s.modIss i fun g =>
          let g := (g.modThreads g.iset fun t => { t with pc := t.pc + 4, tail := false, pos := 0, via := false }).endSet
          let g := { g with yielded := y == 1 }
          if gap = 0 then g.afterEnd await else { g with status := .gapped till await })

/-- A prefix word taken in: it counts as a word of the run, and keeps the address and the entry of the first (R35 to R37). -/
def Group.prefix_ (g : Group) (f : Pfx → Pfx) : Group :=
  let p := f { g.pfx with start := some (g.pfx.start.getD g.here),
                          via := g.pfx.via || (lanesOf g.iset g.grant).any fun l => (g.threadAt l).live && (g.threadAt l).via }
  { g.modThreads g.iset fun t => { t with pc := t.pc + 4, via := false } with pos := g.pos + 1, pfx := p }

/-- XI (R35, R37). -/
def execXi (x : BitVec 23) (s : State) : Host.Outcome State Fault Refusal :=
  match s.issuer with
  | none => .refused .noIssuer
  | some g => .next (s.modGroup g.core g.part g.slot fun g => g.prefix_ fun p => { p with x := some x, dup := p.dup || p.x.isSome })

/-- GUARD (R36, R37). -/
def execGuard (p : BitVec 3) (n : BitVec 1) (s : State) : Host.Outcome State Fault Refusal :=
  match s.issuer with
  | none => .refused .noIssuer
  | some g => .next (s.modGroup g.core g.part g.slot fun g => g.prefix_ fun q =>
      { q with guard := some (p, n), dup := q.dup || q.guard.isSome })

end Sys2Proof.Machine
end

