-- ==== Sys2Proof/Machine/Engine.lean ====
section
/-! DEFINITION. Events of the homes, the matrix units, the copy engine, the write buffers, nameless storage, row operations, refresh
and scrubbing. -/

namespace Sys2Proof.Machine

/-- What a unit of the package does: nothing before the package is ready. -/
def event (s : State) (f : State → State) : Host.Outcome State Fault Refusal :=
  .next (if s.power = .ready then f s else s)

/-- A unit of a tile at work at a core cycle count (R394). -/
def Tile.use (t : Tile) (u : PowerUnit) (c : Nat) : Tile := { t with used := (u, c) :: t.used.filter fun e => e.1 != u }

/-- HOME_OPERATION (R16); a gated home wakes first (R394). -/
def execHomeOperation (home : Nat) (s : State) : Host.Outcome State Fault Refusal :=
  event s fun s =>
    if (s.tileAt (home / 256)).gated.contains (.homeLanes home) then s else s.homeTurn home

/-- HOME_ANSWER_ARRIVAL (R135). -/
def execHomeAnswerArrival (core : Nat) (s : State) : Host.Outcome State Fault Refusal :=
  event s fun s =>
    match (s.coreAt core).answers with
    | [] => s
    | a :: as => (s.modCore core fun k => { k with answers := as }).takeAnswer core a

/-- CREDIT_ACK_ARRIVAL (R139, R143). -/
def execCreditAckArrival (core : Nat) (s : State) : Host.Outcome State Fault Refusal :=
  event s fun s =>
    match (s.coreAt core).acks with
    | [] => s
    | a :: as =>
      (s.modCore core fun k => { k with acks := as }).modAcct core a.2 fun x =>
        { x with used := tset 0 x.used a.1 (tget 0 x.used a.1 - 1) }

/-- MATRIX_OP_START (R107); a gated array wakes first (R394). -/
def execMatrixOpStart (core part ctx : Nat) (s : State) : Host.Outcome State Fault Refusal :=
  event s fun s =>
    if (s.matAt core part ctx).isSome && !(s.tileAt (tileOf core)).gated.contains (.matrix core part) then s.startMat core part ctx
    else s

/-- WSWAP_TAKE_EFFECT (R115). -/
def execWswapTakeEffect (core part ctx : Nat) (s : State) : Host.Outcome State Fault Refusal :=
  event s fun s => if (s.matAt core part ctx).isSome then (s.swapMat core part ctx).reapAll else s

/-- MATRIX_OP_COMPLETE (R109). -/
def execMatrixOpComplete (core part ctx n : Nat) (s : State) : Host.Outcome State Fault Refusal :=
  event s fun s => if (s.matAt core part ctx).isSome then (s.completeMat core part ctx n).reapAll else s

/-- Whether the engine has begun with a request's elements (R211). -/
def CopyReq.begun (r : CopyReq) : Bool := r.paused || !r.part.isEmpty || r.left != r.lines

/-- Whether an engine can go on with a request: a line of it can be read or sent (R204, R211). -/
def State.canCopy (s : State) (r : CopyReq) : Bool :=
  r.started && !r.paused && (r.begun || match s.ctxAt r.ctx with | some c => c.run == .running | none => false) &&
    match s.blockAt r.block with
    | some b => !r.out || r.left.any fun l => !b.absent.contains l
    | none => false

/-- COPY_REQUEST_START (R204, R211): requests start in acceptance order; none starts while its context is pre-empted. -/
def execCopyRequestStart (core : Nat) (s : State) : Host.Outcome State Fault Refusal :=
  event s fun s =>
    let run := fun (r : CopyReq) => match s.ctxAt r.ctx with | some c => c.run == .running | none => false
    match (s.coreAt core).reqs.findIdx? fun r => !r.started && run r with
    | some k => s.modReq core k fun r => { r with started := true }
    | none => s

/-- COPY_LINE_LAND (R162). -/
def execCopyLineLand (core req line : Nat) (s : State) : Host.Outcome State Fault Refusal :=
  event s fun s => (s.landLine core req line).reapAll

/-- COPY_OUTWARD_WRITE (R204). -/
def execCopyOutwardWrite (core req : Nat) (s : State) : Host.Outcome State Fault Refusal :=
  event s fun s => (s.sendLine core req).reapAll

/-- WC_BUFFER_TIMEOUT (R188). -/
def execWcBufferTimeout (core n : Nat) (s : State) : Host.Outcome State Fault Refusal :=
  event s fun s =>
    match (s.coreAt core).wc[n]? with
    | none => s
    | some w =>
      if w.cyc + 4096 ≤ (s.coreAt core).cyc then
        (s.modCore core fun k => { k with wc := k.wc.eraseIdx n }).flushWc core w
      else s

/-- STN_NAME_RETURN (R176, R206). -/
def execStnNameReturn (core n : Nat) (s : State) : Host.Outcome State Fault Refusal :=
  event s fun s =>
    match (s.coreAt core).stns[n]? with
    | none => s
    | some p => ((s.modCore core fun k => { k with stns := k.stns.eraseIdx n }).landName core p).reapAll

/-- RELQ_INVALIDATE (R179). -/
def execRelqInvalidate (n : Nat) (s : State) : Host.Outcome State Fault Refusal :=
  event s fun s =>
    match s.relqs[n]? with
    | none => s
    | some r => ({ s with relqs := s.relqs.eraseIdx n }).freeSectorsOf r

/-- ROW_OP_STEP (R181): both rows of a step, or the second of one whose first row is done. -/
def execRowOpStep (n : Nat) (s : State) : Host.Outcome State Fault Refusal :=
  event s fun s =>
    let t := s.rowTurn n
    if (t.rowops[n]?).any RowOp.half then t.rowTurn n else t

/-- ROW_OP_COMPLETE (R210). -/
def execRowOpComplete (n : Nat) (s : State) : Host.Outcome State Fault Refusal :=
  event s fun s => (s.rowDone n).reapAll

/-- A count of the lifetime record advanced, saturating (R345). -/
def State.lifeAdd (s : State) (off n : Nat) : State :=
  { s with life := tset 0 s.life off (min (tget 0 s.life off + n) (2 ^ 64 - 1)) }

/-- DRAM_REFRESH (R181): performed now, or at the next step boundary of a row operation on the bank, at most eight late. Whether a
refresh-management command goes with it is the stack's choice (R345; log 44). -/
def execDramRefresh (tile bank : Nat) (s : State) : Host.Outcome State Fault Refusal :=
  event s fun s =>
    let busy := s.rowops.any fun o => o.stepBanks.contains (tile, bank)
    let (n, s) := s.choose 2
    (s.lifeAdd (3016 + 16 * tile) n).modTile tile fun t =>
      if busy && decide ((t.refreshDue.filter (· == bank)).length < 8) then { t with refreshDue := t.refreshDue ++ [bank] }
      else { t with refresh := t.refresh + 1 }

/-- The context that owns a sector: the owner of its pool, or none (R174, R344). -/
def State.sectorOwner (s : State) (sector : Nat) : Nat :=
  let e := s.fsmAt (128 * sector)
  if bitsOf e 15 14 = 0 then 0 else bitsOf e 11 0

/-- An uncorrectable error of a structure logged in a tile, counted, and signalled to the physical function; of two in one base-die cycle
the one of the lower structure code is logged (R344, R345). -/
def State.logError (s : State) (tile struct ctx loc : Nat) : State :=
  let new : Addr := BitVec.ofNat 64 (2 ^ 63 + struct * 2 ^ 58 + ctx * 2 ^ 46 + loc % 2 ^ 41)
  let now := (s.coreAt (4 * tile)).cyc / 2
  let s := s.lifeAdd (40 + 16 * struct) 1
  let s := s.modTile tile fun t => { t with
    errlog := if !t.errlog.getLsbD 63 then new ||| (t.errlog &&& 0x4000000000000000)
      else if t.errAt = now ∧ struct < bitsOf t.errlog 61 58 then new ||| 0x4000000000000000
      else t.errlog ||| 0x4000000000000000
    errAt := if t.errlog.getLsbD 63 then t.errAt else now }
  let vf := match s.ctxAt ctx with | some c => c.vf | none => 0
  (s.count ⟨true, tile, 0, ctx, vf, 0⟩ 11 1 1).pfIrq 1

/-- A corrected error counted (R344, R345). -/
def State.corrected (s : State) (tile struct ctx : Nat) : State :=
  let vf := match s.ctxAt ctx with | some c => c.vf | none => 0
  let s := s.lifeAdd (32 + 16 * struct) 1
  if struct < 10 then s.count ⟨true, tile, 0, ctx, vf, 0⟩ 11 0 1 else s.count ⟨true, tile, 0, 0, 0, 0⟩ 11 0 1

/-- The structure of an error, its tile, the context that owns the data, and its place as ERRLOG gives it (R340, R344). -/
def State.place (s : State) : SoftError → Nat × Nat × Nat × Nat
  | .register g reg lane =>
    (0, tileOf g.core, (match s.groupAt g.core g.part g.slot with | some x => x.ctx | none => 0), g.core + (64 * reg + lane) * 128)
  | .scratchpad b k =>
    match s.blockAt b with
    | some x => (1, tileOf x.core, x.ctx, x.core + (x.scrBase / 8 + k) * 128)
    | none => (1, 0, 0, 0)
  | .column core k =>
    (1, tileOf core, (match (s.coreAt core).colUse.find? fun u => decide (u.2.1 ≤ 8 * k) && decide (8 * k < u.2.1 + u.2.2) with
      | some u => u.1
      | none => 0), core + (0x100000 / 8 + k) * 128)
  | .accumulator core _ ctx cell => (2, tileOf core, ctx, core + cell * 128)
  | .plane core part ctx shadow => (3, tileOf core, ctx, core + (2 * part + if shadow then 1 else 0) * 128)
  | .l1 core sector => (4, tileOf core, (match (s.coreAt core).l1.find? fun x => x.pa == 128 * sector with | some x => x.alloc | none => 0), 128 * sector)
  | .l2 sector =>
    (5, sector / 2 ^ 29, (match (s.tileAt (sector / 2 ^ 29)).l2.find? fun x => x.line == sector % 2 ^ 29 / 8 with | some x => x.ctx | none => 0),
      128 * sector)
  | .saggar home core ctx handle _ => (6, home / 256, ctx, core + handle * 128)
  | .translation core va => (7, tileOf core, 0, core + va / 65536 * 128)
  | .freeMap sector => (8, sector / 2 ^ 29, s.sectorOwner sector, 128 * sector)
  | .frameMap frame => (8, frame / 2 ^ 20, 0, 65536 * frame)
  | .flit tile p =>
    match p with
    | .write n => (10, tile, 0, (match s.inflight[n]? with | some w => w.core | none => 4 * tile) + n * 128)
    | .answer core n => (10, tile, 0, core + n * 128)
    | .read n => (10, tile, 0, (match s.reads[n]? with | some r => r.core | none => 4 * tile) + n * 128)
  | .priv b k =>
    match s.blockAt b with
    | some x => (9, tileOf x.core, x.ctx, 128 * k)
    | none => (9, 0, 0, 0)

/-- A packet delivered with poisoned data after its last retry (R340): a write to memory leaves its sectors poisoned, an answer the elements
that it writes, a read of the host its bytes; a write to the host is one that the host rejects (R389; log 73). -/
def State.deliverBad (s : State) : Packet → State
  | .write n =>
    match s.inflight[n]? with
    | none => s
    | some w =>
      let s := { s with inflight := s.inflight.eraseIdx n }
      if w.link then s.modVf w.vf fun v => { v with aer := true }
      else ((List.range ((w.addr + w.bytes.length + 127) / 128 - w.addr / 128)).map (w.addr / 128 + ·)).foldl
        (fun s k => s.markSector k true) (s.performNow w)
  | .answer core n =>
    match (s.coreAt core).answers[n]? with
    | none => s
    | some a =>
      let key := match a.pred with | some _ => predKey a.key | none => a.key
      ((s.modCore core fun k => { k with answers := k.answers.eraseIdx n }).takeAnswer core a).modGroup core a.part a.slot fun g =>
        { g with rpoison := dedup (g.rpoison ++ (lanesOf a.wr g.grant).map fun l => (key, l)) }
  | .read n => { s with reads := modAt s.reads n fun r => { r with answer := some .rejected } }

/-- What an uncorrectable error does to a structure (R340): whether it counts as corrected, and the state. -/
def State.damage (s : State) : SoftError → Bool × State
  | .register g reg lane => (false, s.modGroup g.core g.part g.slot fun x => { x with rpoison := dedup (x.rpoison ++ [(reg, lane)]) })
  | .scratchpad b k => (false, s.modBlock b fun x => { x with spoison := dedup (x.spoison ++ [k]) })
  | .column core k => (false, s.modCore core fun x => { x with colPoison := dedup (x.colPoison ++ [k]) })
  | .accumulator core part ctx cell => (false, s.modMat core part ctx fun m => { m with accPoison := dedup (m.accPoison ++ [cell]) })
  | .plane core part ctx shadow => (false, s.modMat core part ctx fun m =>
      if shadow then { m with shadow := { m.shadow with poison := true } } else { m with active := { m.active with poison := true } })
  | .l1 core sector =>
    let here := fun (x : Sector) => x.pa == 128 * sector
    let dirty := (s.coreAt core).l1.any fun x => here x && x.dirty
    let s := s.modCore core fun k => { k with l1 := k.l1.map fun (x : Sector) => if here x then { x with poison := true } else x }
    (!dirty, (s.cleanL1 core here).dropL1 core here)
  | .l2 sector =>
    let t := sector / 2 ^ 29
    let line := sector % 2 ^ 29 / 8
    let dirty := (s.tileAt t).l2.any fun x => x.line == line && x.dirty
    (!dirty, (if dirty then (s.markSector sector true).cleanL2 (128 * sector) else s).dropL2 t fun n => n == line)
  | .saggar home core ctx handle lane => (false, s.modSlot home core ctx handle fun k => { k with poison := k.poison ||| BitVec.ofNat 64 (2 ^ lane) })
  | .translation core va =>
    let keep := fun (e : TlbEntry) => !(decide (e.leaf.va ≤ va) && decide (va < e.leaf.va + e.leaf.size))
    (true, (s.modCore core fun k => { k with tlb := k.tlb.filter keep, lpr := k.lpr.filter fun e => keep e.2 }).modTile (tileOf core)
      fun t => { t with tlb := t.tlb.filter keep })
  | .freeMap sector => (false, s.modTile (sector / 2 ^ 29) fun t => { t with fsm := tset 0 t.fsm (sector % 2 ^ 29) 0 })
  | .frameMap frame => (false, s.modTile (frame / 2 ^ 20) fun t => { t with
      fmap := tset 0 t.fmap (frame % 2 ^ 20) (tget 0 t.fmap (frame % 2 ^ 20) &&& 0xFBFF) })
  | .flit _ p => (false, s.deliverBad p)
  | .priv b k => (false, s.modBlock b fun x => { x with ppoison := dedup (x.ppoison ++ [k]) })

/-- SCRUB_READ (R340, R341, R343): what a scrub read finds, in the turn of the sector's home; a correctable error is corrected and written
back, as one is that a program's access has met; an uncorrectable one poisons the sector. -/
def execScrubRead (sector : Nat) (found : ScrubOutcome) (s : State) : Host.Outcome State Fault Refusal :=
  event s fun s =>
    let s := match s.scrubs.findIdx? (· == sector) with | some n => s.scrubTurn n | none => s
    let t := sector / 2 ^ 29
    let ctx := s.sectorOwner sector
    let vf := match s.ctxAt ctx with | some c => c.vf | none => 0
    match found with
    | .clean => s
    | .corrected | .met => (s.lifeAdd (32 + 16 * 9) 1).count ⟨true, t, 0, ctx, vf, 0⟩ 11 0 1
    | .uncorrectable =>
      let s := if s.poison.contains sector then s else { s with poison := s.poison ++ [sector] }
      s.logError t 9 ctx (128 * sector)
    | .elsewhere e ok =>
      let (struct, tile, owner, loc) := s.place e
      let (mild, d) := if ok then (true, s) else s.damage e
      if mild then d.corrected tile struct owner else d.logError tile struct owner loc

/-- WRITE_PERFORMED (R213): a write that was sent before on the same way is performed first (R11). -/
def execWritePerformed (n : Nat) (s : State) : Host.Outcome State Fault Refusal :=
  event s fun s =>
    match s.inflight[n]? with
    | none => s
    | some w =>
      if (s.inflight.take n).any fun v => sameRoute v w then s
      else ({ s with inflight := s.inflight.eraseIdx n }).land w

end Sys2Proof.Machine
end

