-- ==== Sys2Proof/Machine/Grid.lean ====
section
/-! DEFINITION. Events of the dispatchers, the launch windows, the host link and the scale-out ports (R226, R228, R264 to R275, R281,
R389 to R391). -/

namespace Sys2Proof.Machine

/-- The context that a CTXDESC word names, when it is enabled (R283). -/
def descCtx (d : Addr) : Option Nat := if d.getLsbD 0 && bitsOf d 63 52 != 0 then some (bitsOf d 63 52) else none

/-- The current context of a VF (R268). -/
def Vf.current (v : Vf) : Option Nat := v.ctxdesc.findSome? descCtx

/-- The lowest-numbered tile of a partition (R268). -/
def State.firstTile (s : State) (part : Nat) : Option Nat := (List.range 20).find? fun t => s.partOf t == part

/-- A launch-window error counted (R268, R305). -/
def State.windowError (s : State) (vf : Nat) : State :=
  let t := (s.firstTile (s.vfAt vf).part).getD 0
  (s.modVf vf fun v => { v with lwerr := v.lwerr + 1 }).count ⟨true, t, 0, 0, 0, 0⟩ 15 4 1

/-- A launch window's answer to a deferrable write (R268). -/
def State.answerWindow (s : State) (vf : Nat) (a : WindowAnswer) : State := s.modVf vf fun v => { v with window := a }

/-- LAUNCH_WINDOW_DMWR (R268): a record of 64 bytes at offset 0 is accepted, or to be tried again; a malformed one, or one for a VF
without a context, counts a launch-window error; any other write is unsupported. An accepted record crosses the mesh from the host link's tile to
its owner (R12). -/
def execLaunchWindowDmwr (vf offset : Nat) (record : List Byte) (s : State) : Host.Outcome State Fault Refusal :=
  event s fun s =>
    if offset ≠ 0 ∨ record.length ≠ 64 then s.answerWindow vf .unsupported
    else
      match (s.vfAt vf).current, s.firstTile (s.vfAt vf).part with
      | some c, some t =>
        if malformedLaunch record ∨ (s.ctxAt c).isNone then (s.windowError vf).answerWindow vf .retry
        else if s.launchRoom t record then
          (State.acceptLaunch (s.hostBytes ⟨true, t, 0, c, vf, 0⟩ t 64 false) c t 0 record none).answerWindow vf .success
        else s.answerWindow vf .retry
      | _, _ => (s.windowError vf).answerWindow vf .retry

/-- LAUNCH_WINDOW_POSTED_WRITE (R268): discarded, with the interrupt; that it counts a launch-window error too is the model's choice
(log 79). -/
def execLaunchWindowPostedWrite (vf : Nat) (s : State) : Host.Outcome State Fault Refusal := event s fun s => (s.windowError vf).irq vf 1

/-- The tenant-table entry v of a port (R390). -/
def State.tenantAt (s : State) (port v : Nat) : Tenant :=
  (s.tenants.find? fun t => t.port == port && t.vf == v).getD ⟨port, v, List.replicate 64 0, 0, 0, 0⟩

/-- A tenant-table entry changed: eight ports have 64 entries each. -/
def State.modTenant (s : State) (port v : Nat) (f : Tenant → Tenant) : State :=
  if 8 ≤ port ∨ 64 ≤ v then s
  else { s with tenants := s.tenants.filter (fun t => !(t.port == port && t.vf == v)) ++ [f (s.tenantAt port v)] }

/-- A packet refused at an entry (R270). -/
def State.refuseTenant (s : State) (port v : Nat) : State :=
  (s.modTenant port v fun t => { t with refusals := t.refusals + 1 }).fabric (portTile port) 5 1

/-- A port's answer to the last packet that came to it (R270, R391); the packet has woken the port's lanes (R394). -/
def State.answerPort (s : State) (port : Nat) (a : PortAnswer) : State :=
  State.modTile { s with ports := modAt s.ports port fun _ => some a } (portTile port) fun t =>
    ({ t with gated := t.gated.filter (· != .portLanes port) } : Tile).use (.portLanes port) (s.coreAt 0).cyc

/-- FABRIC_LAUNCH (R270): an admitted record crosses the mesh from its port's tile to the dispatcher (R12). R270 says nothing of one that
finds the queue full: the model answers it as a refusal, takes no token for it and counts nothing (log 79). -/
def execFabricLaunch (port vf tenant : Nat) (record : List Byte) (s : State) : Host.Outcome State Fault Refusal :=
  event s fun s =>
    let e := s.tenantAt port vf
    let bad := fieldAt e.bytes 39 1 % 2 == 0 || fieldAt e.bytes 32 2 != tenant ||
      fieldAt e.bytes 37 1 / 2 ^ launchPrio record % 2 == 0 || e.tokens == 0 || record.length != 64 || malformedLaunch record
    let v := fieldAt e.bytes 38 1 % 64
    match bad, (s.vfAt v).current, s.firstTile (s.vfAt v).part with
    | false, some c, some t =>
      if s.launchRoom t record then
        (State.answerPort ((s.portBytes ⟨true, t, 0, c, v, 0⟩ port t 64 false).acceptLaunch c t (5 + port) record (some (e.bytes.take 32)))
          port (.done [])).modTenant port vf fun t => { t with tokens := t.tokens - 1 }
      else s.answerPort port .refused
    | _, _, _ => (s.refuseTenant port vf).answerPort port .refused

/-- TOKEN_REFILL (R390). -/
def execTokenRefill (port vf : Nat) (s : State) : Host.Outcome State Fault Refusal :=
  event s fun s => s.modTenant port vf fun t =>
    if fieldAt t.bytes 39 1 % 2 = 1 ∧ fieldAt t.bytes 34 2 ≠ 0 then { t with tokens := min (t.tokens + 1) (fieldAt t.bytes 36 1) } else t

/-- The parts of a range of addresses that lie in one smallest page each (R287): their addresses and lengths. -/
def pageParts (a n : Nat) : List (Nat × Nat) :=
  (List.range ((a + n + 65535) / 65536 - a / 65536)).map fun k =>
    let b := max a ((a / 65536 + k) * 65536)
    (b, min (a + n) ((a / 65536 + k + 1) * 65536) - b)

/-- Where each part of a range leads at a tile, or none when some translation faults (R287, R391). -/
def State.reachParts (s : State) (tile ctx : Nat) (acc : Acc) : List (Nat × Nat) → Option (List (Nat × Addr × Nat)) × State
  | [] => (some [], s)
  | q :: qs =>
    match s.reach tile ctx (BitVec.ofNat 64 q.1) acc with
    | (.bad _ _ _, s) => (none, s)
    | (.ok pa w, s) =>
      let (r, s) := s.reachParts tile ctx acc qs
      (r.map fun ps => (pa, w, q.2) :: ps, s)

/-- FABRIC_MEMORY_PACKET (R391): refused when the context is another VF's or a translation faults, with no effect; otherwise performed at
once, so that packets are performed in arrival order, a write is visible at .sys, and every earlier packet of its flow is when one
marked RELEASE is performed. A read is answered with its bytes. -/
def execFabricMemoryPacket (p : FabricPacket) (s : State) : Host.Outcome State Fault Refusal :=
  event s fun s =>
    let t := portTile p.port
    let n := match p.bytes with | some bs => bs.length | none => p.len
    let w : Where := ⟨true, t, 0, p.ctx, p.vf, 0⟩
    if !(s.ctxAt p.ctx).any fun c => c.vf == p.vf then s.answerPort p.port .refused
    else
      match s.reachParts t p.ctx (if p.bytes.isSome then .write else .read) (pageParts p.va.toNat n) with
      | (none, s) => s.answerPort p.port .refused
      | (some ps, s) =>
        match p.bytes with
        | some bs =>
          let s := (ps.foldl (fun (a : State × List Byte) q => (a.1.agentWrite t p.ctx q.1 q.2.1 (a.2.take q.2.2), a.2.drop q.2.2)) (s, bs)).1
          (s.portBytes w p.port t n false).answerPort p.port (.done [])
        | none =>
          let r := ps.foldl (fun (a : List Byte × Bool × State) q =>
            let (x, s) := a.2.2.agentRead t p.ctx q.1 q.2.2 q.2.1
            (a.1 ++ x.1, a.2.1 || x.2, s)) ([], false, s)
          (r.2.2.portBytes w p.port t n true).answerPort p.port (if r.2.1 then .poisoned else .done r.1)

/-- WAIT_WORD_POLL (R272). -/
def execWaitWordPoll (launch : Nat) (s : State) : Host.Outcome State Fault Refusal := event s fun s => s.pollWait launch

/-- LAUNCH_HEADER_READ (R272). -/
def execLaunchHeaderRead (launch : Nat) (s : State) : Host.Outcome State Fault Refusal := event s fun s => s.headerRead launch

/-- LAUNCH_PRIORITY_BOOST (R275). -/
def execLaunchPriorityBoost (launch : Nat) (s : State) : Host.Outcome State Fault Refusal :=
  event s fun s => s.modLaunch launch fun l =>
    if l.state = .ready ∧ l.readyAt + 3000000 ≤ (s.coreAt (4 * l.tile)).cyc then { l with boosted := 1 } else l

/-- LAUNCH_STARVATION_HOLD (R275). -/
def execLaunchStarvationHold (launch : Nat) (s : State) : Host.Outcome State Fault Refusal :=
  event s fun s => s.modLaunch launch fun l =>
    if l.state = .ready ∧ l.next < l.total ∧ l.movedAt + 300000 ≤ (s.coreAt (4 * l.tile)).cyc then { l with hold := true } else l

/-- BLOCK_PLACE (R273, R275). -/
def execBlockPlace (tile : Nat) (s : State) : Host.Outcome State Fault Refusal := event s fun s => s.settleLoads.dispatch tile

/-- LAUNCH_COMPLETE (R228). -/
def execLaunchComplete (launch : Nat) (s : State) : Host.Outcome State Fault Refusal := event s fun s => s.completeLaunch launch

/-- MESH_FOREIGN_PACKET (R281): a packet of another partition is discarded, counted and signalled. -/
def execMeshForeignPacket (tile source : Nat) (s : State) : Host.Outcome State Fault Refusal :=
  event s fun s =>
    if s.partOf tile = source then s
    else s.discard tile

/-- The answer to a link-window read (R389). -/
def State.answerRead (s : State) (n : Nat) (a : LinkAnswer) : State :=
  { s with reads := modAt s.reads n fun r => if r.answer.isSome then r else { r with answer := some a } }

/-- LINK_READ_COMPLETION (R389). -/
def execLinkReadCompletion (n : Nat) (answer : LinkAnswer) (s : State) : Host.Outcome State Fault Refusal :=
  event s fun s =>
    match s.reads[n]? with
    | some r =>
      let ctx := match s.groupAt r.core r.part r.slot with | some g => g.ctx | none => 0
      (s.answerRead n answer).hostBytes (s.whereOf r.core ctx 0) (tileOf r.core) r.len false
    | none => s

/-- LINK_READ_TIMEOUT (R389). -/
def execLinkReadTimeout (n : Nat) (s : State) : Host.Outcome State Fault Refusal := event s fun s => s.answerRead n .rejected

end Sys2Proof.Machine
end

