-- ==== Sys2Proof/Machine/Manage.lean ====
section
/-! DEFINITION. Registers of partitions and tiles that act when written: partition identifiers, context descriptors, residency
ranges, invalidation, fault queues, frame and free-space maps, flushes (R169, R170, R280, R283, R288 to R296, R324 to R328, R385,
R388). -/

namespace Sys2Proof.Machine

/-- The tiles of a partition. -/
def State.tilesOf (s : State) (part : Nat) : List Nat := (List.range 20).filter fun t => s.partOf t == part
/-- The cores of a partition, ascending. -/
def State.coresOf (s : State) (part : Nat) : List Nat := (List.range 80).filter fun c => s.partOf (tileOf c) == part
/-- Whether a context is resident on some tile of a partition (R280). -/
def State.resident (s : State) (part : Nat) : Bool := s.blocks.any fun b => s.partOf (tileOf b.core) == part

/-- PARTID (R280). -/
def State.writePartid (s : State) (tile : Nat) (v : Word) : State :=
  let old := s.partOf tile
  let new := if bitsOf v 4 0 < 20 then bitsOf v 4 0 else old
  if 20 ≤ tile ∨ (s.tileAt tile).partid.getLsbD 31 ∨ s.resident old ∨ s.resident new then s
  else s.modTile tile fun t => { t with partid := BitVec.ofNat 32 (v.toNat / 2 ^ 31 * 2 ^ 31 + new) }

/-- PARTID_WRITE (R280). -/
def execPartidWrite (tile : Nat) (v : Word) (s : State) : Host.Outcome State Fault Refusal := event s fun s => s.writePartid tile v

/-- RESCTL (R169, R170). -/
def State.writeResctl (s : State) (tile n : Nat) (v : Word) : State :=
  let ways := bitsOf v 23 8
  let others := ((s.tileAt tile).res.mapIdx fun k r => if k ≠ n ∧ r.ctl.getLsbD 31 then bitsOf r.ctl 23 8 else 0)
  let all := others.foldl (· ||| ·) 0
  let used := ((List.range 16).filter fun k => (all ||| ways).testBit k).length
  let ok := ways != 0 && ways &&& all == 0 && decide (used ≤ 12)
  let err := fun (old : Word) => (old.getLsbD 30 && !v.getLsbD 30) || (v.getLsbD 31 && !ok)
  s.modTile tile fun t => { t with
    res := modAt t.res n fun r => { r with
      ctl := BitVec.ofNat 32 ((if v.getLsbD 31 && ok then 2 ^ 31 else 0) + (if err r.ctl then 2 ^ 30 else 0) + bitsOf v 23 0) } }

/-- RESCTL_WRITE (R170). -/
def execResctlWrite (tile n : Nat) (v : Word) (s : State) : Host.Outcome State Fault Refusal := event s fun s => s.writeResctl tile n v

/-- The bytes of a page size code (R291). -/
def pageBytes (size : Nat) : Nat := match size with | 0 => 2 ^ 16 | 1 => 2 ^ 21 | 2 => 2 ^ 28 | _ => 2 ^ 35

/-- INVCTL: a command queued, or discarded as BAD or for a full queue (R291). -/
def State.writeInvctl (s : State) (part : Nat) (v : Addr) : State :=
  let p := s.isoAt part
  let v := v &&& 0xFFFFFFFFFFFF0001
  let bad := bitsOf v 51 50 == 3 || (bitsOf v 51 50 == 0 && bitsOf v 47 32 == 0) ||
    p.invva.toNat % pageBytes (bitsOf v 49 48) != 0
  let full := decide (8 ≤ p.queue.length)
  s.modIso part fun p => { p with
    invctl := v
    invstat := p.invstat ||| (if full then 0x80000000 else 0) ||| (if bad then 0x40000000 else 0)
    queue := if bad || full then p.queue else p.queue ++ [⟨p.invva, v, false⟩] }

/-- A KIND field replaced in a word of INVCTL. -/
def withKind (v : Addr) (k : Nat) : Addr := (v &&& ~~~0x000C000000000000) ||| BitVec.ofNat 64 (k * 2 ^ 50)

/-- INV_PAGES (R291). -/
def execInvPages (part : Nat) (v : Addr) (s : State) : Host.Outcome State Fault Refusal :=
  event s fun s => s.writeInvctl part (withKind v 0)
/-- INV_CONTEXT (R291). -/
def execInvContext (part : Nat) (v : Addr) (s : State) : Host.Outcome State Fault Refusal :=
  event s fun s => s.writeInvctl part (withKind v 1)
/-- INV_PARTITION (R291). -/
def execInvPartition (part : Nat) (v : Addr) (s : State) : Host.Outcome State Fault Refusal :=
  event s fun s => s.writeInvctl part (withKind v 2)

/-- Whether an invalidation command matches a cached translation (R292). -/
def InvCmd.hits (c : InvCmd) (e : TlbEntry) : Bool :=
  match bitsOf c.ctl 51 50 with
  | 0 => e.ctx == bitsOf c.ctl 63 52 &&
      meets e.leaf.va e.leaf.size c.va.toNat (bitsOf c.ctl 47 32 * pageBytes (bitsOf c.ctl 49 48))
  | 1 => e.ctx == bitsOf c.ctl 63 52
  | _ => true

/-- Whether an invalidation command concerns a context. -/
def InvCmd.concerns (c : InvCmd) (ctx : Nat) : Bool := bitsOf c.ctl 51 50 == 2 || ctx == bitsOf c.ctl 63 52

/-- Cached translations that satisfy a test dropped from a partition, and its contexts' lane page registers in the whole package
(R292). -/
def State.dropTlb (s : State) (part : Nat) (p : TlbEntry → Bool) : State :=
  let own := fun (e : TlbEntry) => match s.ctxAt e.ctx with | some c => c.part == part | none => false
  let tile := fun (n : Nat) (t : Tile) => if s.partOf n = part then { t with tlb := t.tlb.filter fun e => !p e } else t
  let core := fun (n : Nat) (k : Core) =>
    let here := s.partOf (tileOf n) == part
    { k with
      tlb := if here then k.tlb.filter fun e => !p e else k.tlb
      lpr := k.lpr.filter fun e => !(p e.2 && (here || own e.2)) }
  { s with tiles := s.tiles.mapIdx tile, cores := s.cores.mapIdx core }

/-- INV_COMMAND_EXECUTE (R292). -/
def execInvCommandExecute (part : Nat) (s : State) : Host.Outcome State Fault Refusal :=
  event s fun s =>
    match (s.isoAt part).queue with
    | [] => s
    | c :: cs => (s.dropTlb part c.hits).modIso part fun p => { p with queue := { c with done := true } :: cs }

/-- Every write that a context has issued on a partition's cores is visible at device scope (R292), with what its cores' L1s owe. -/
def State.settleWrites (s : State) (part : Nat) (ctx : Nat → Bool) : State :=
  let s := (s.coresOf part).foldl State.drainHomes s
  let s := s.drainFlight fun w => s.partOf (tileOf w.core) == part
  (s.coresOf part).foldl (fun s c => (s.drainWc c fun w => ctx w.ctx).cleanL1 c fun _ => true) s

/-- Whether an access of a partition still uses a translation: a read has not returned or a row operation runs (R292). -/
def State.accessing (s : State) (part : Nat) : Bool :=
  let here := fun (k : Nat) => s.partOf (tileOf k) == part
  s.rowops.any (fun o => here o.core) || s.reads.any fun r => here r.core && r.answer.isNone

/-- INV_COMMAND_COMPLETE (R292): once reads have returned and row operations have ended, writes are made visible at device scope. -/
def execInvCommandComplete (part : Nat) (s : State) : Host.Outcome State Fault Refusal :=
  event s fun s =>
    match (s.isoAt part).queue with
    | [] => s
    | c :: cs =>
      if !c.done || s.accessing part then s
      else
        let s := (s.settleWrites part c.concerns).modIso part fun p => { p with
          queue := cs, invstat := (p.invstat &&& 0xC0000000) ||| BitVec.ofNat 32 (bitsOf c.ctl 31 16) }
        if c.ctl.getLsbD 0 then s.pfIrq 2 else s

/-- A parked or saved group that a record belongs to changed (R326, R327). -/
def State.modHeld (s : State) (r : FRec) (f : Group → Group) : State :=
  let f := fun (g : Group) => if g.isAt r.core r.part r.slot && g.ctx == r.ctx && g.block == r.block then f g else g
  { s with groups := s.groups.map f, images := s.images.map fun (m : Image) => { m with groups := m.groups.map f } }

/-- A resident or saved block changed. -/
def State.modAnyBlock (s : State) (b : Nat) (f : Block → Block) : State :=
  let f := fun (x : Block) => if x.id = b then f x else x
  { s with blocks := s.blocks.map f, images := s.images.map fun (m : Image) => { m with blocks := m.blocks.map f } }

/-- Whether a copy request is the one a record was written for. -/
def CopyReq.isFor (q : CopyReq) (r : FRec) : Bool := q.block == r.block && q.recOff == r.copy && q.bobj == r.bobj && q.paused

/-- A request of a saved image ended as a non-recoverable element fault (R162, R173, R327). -/
def State.failSaved (s : State) (q : CopyReq) : State :=
  let n := (q.left.map q.inLine).sum
  let offs := if q.out then []
    else (q.left.map fun ln => ((q.inLines ln).map fun p => (List.range p.2).map fun j => p.1 + j).flatten).flatten
  let (vs, s) := s.freshes offs.length
  s.modAnyBlock q.block fun b =>
    let b := b.landed ((offs.zip vs).map fun e => (e.1, e.2.setWidth 8, false))
    { b.boDec q.bobj n true with absent := if q.out then b.absent else b.absent.filter fun l => !q.left.contains l }

/-- A paused request that a record was written for continues, or ends (R326, R327). -/
def State.settleCopy (s : State) (r : FRec) (refuse : Bool) : State :=
  match (s.coreAt r.core).reqs.findIdx? fun q => q.isFor r with
  | some k =>
    match (s.coreAt r.core).reqs[k]? with
    | some q => if refuse then s.failReq r.core k q else s.modReq r.core k fun q => { q with paused := false }
    | none => s
  | none =>
    let mine := fun (q : Nat × CopyReq) => q.2.isFor r
    let s := if refuse then (s.images.map fun m => m.reqs.filter mine).flatten.foldl (fun s q => s.failSaved q.2) s else s
    { s with images := s.images.map fun (m : Image) => { m with
        reqs := if refuse then m.reqs.filter fun q => !mine q
                else m.reqs.map fun q => if mine q then (q.1, { q.2 with paused := false }) else q } }

/-- A group with one record less; after its last it is Eligible, in the place of queue order given (R327). -/
def Group.oneLess (n : Nat) (refuse : Option Addr) (g : Group) : Group :=
  let g := { g with records := g.records - 1, refused := refuse <|> g.refused }
  match g.status with
  | .parked .fault => if g.records = 0 then { g with status := .eligible, resumed := some n } else g
  | _ => g

/-- What resolving or refusing does to one record (R326). -/
def State.actOn (s : State) (r : FRec) (refuse : Bool) : State :=
  let n := s.nextId
  let s := { s with nextId := n + 1 }
  match r.kind with
  | 5 =>
    if refuse then s.modAnyBlock r.block fun b => b.boDec r.bobj 0 true
    else s.modAnyBlock r.block fun b => b.boDec r.bobj 1 false
  | 6 => s.settleCopy r refuse
  | _ => s.modHeld r (Group.oneLess n (if refuse then some (BitVec.ofNat 64 r.va) else none))

/-- Whether FQRESCTL acts on a record: written, of the context, of a page or copy kind, in the page (R326). -/
def FRec.covered (r : FRec) (va v : Addr) : Bool :=
  let sz := pageBytes (bitsOf v 49 48)
  r.written && !r.stale && r.ctx == bitsOf v 63 52 && r.kind != 4 && r.va % 2 ^ 57 / sz == va.toNat / sz

/-- FQRESCTL with OP 0 or 1 (R326 to R328). -/
def State.resolve (s : State) (part : Nat) (v : Addr) (refuse : Bool) : State :=
  let va := (s.isoAt part).fqresva
  let act := s.recs.filter fun r => r.covered va v && (s.vfAt r.vf).part == part
  let s := s.modIso part fun p => { p with fqresctl := v &&& 0xFFFF000000001FFF, epoch := p.epoch + 1 }
  let s := { s with recs := s.recs.filter fun r => !act.contains r }
  act.foldl (fun s r => s.actOn r refuse) s

/-- FQRESCTL with OP 2 (R326). -/
def State.resumePx (s : State) (part : Nat) (v : Addr) : State :=
  let s := s.modIso part fun p => { p with fqresctl := v &&& 0xFFFF000000001FFF, epoch := p.epoch + 1 }
  let gs := s.groups.filter fun g => g.ctx == bitsOf v 63 52 && s.partOf (tileOf g.core) == part &&
    match g.status with | .parked (.pxexh hs _) => hs.any fun q => q.1 == bitsOf v 12 0 | _ => false
  gs.foldl (fun s g =>
    match g.status with
    | .parked (.pxexh hs handles) =>
      if s.unparked g (.pxexh hs handles) then s.unpark g (.pxexh hs handles)
      else s.freePx g (hs.filter fun q => q.1 == bitsOf v 12 0) hs handles
    | _ => s) s

/-- A word of FQRESCTL with its OP. -/
def withOp (v : Addr) (k : Nat) : Addr := (v &&& ~~~0x000C000000000000) ||| BitVec.ofNat 64 (k * 2 ^ 50)

/-- FQ_RESOLVE (R326). -/
def execFqResolve (part : Nat) (v : Addr) (s : State) : Host.Outcome State Fault Refusal :=
  event s fun s => (s.resolve part (withOp v 0) false).reapAll
/-- FQ_REFUSE (R326). -/
def execFqRefuse (part : Nat) (v : Addr) (s : State) : Host.Outcome State Fault Refusal :=
  event s fun s => (s.resolve part (withOp v 1) true).reapAll
/-- FQ_RESUME_PXEXH (R145, R326). -/
def execFqResumePxexh (part : Nat) (v : Addr) (s : State) : Host.Outcome State Fault Refusal :=
  event s fun s => s.resumePx part (withOp v 2)

/-- Whether the bytes of a pending record are those of a record that holds something. -/
def FRec.isOf (r : FRec) (bs : List Byte) : Bool :=
  r.kind == fieldAt bs 14 1 && r.ctx == fieldAt bs 12 2 && r.core == fieldAt bs 22 1 &&
    (r.kind == 4 || r.va == fieldAt bs 0 8) && (r.kind == 6 || r.part * 16 + r.slot == fieldAt bs 21 1)

/-- A group runs its instruction again at once (R328): its other records no longer hold it. -/
def State.retry (s : State) (r : FRec) : State :=
  let same := fun (q : FRec) => q.core == r.core && q.part == r.part && q.slot == r.slot && q.block == r.block && decide (q.kind < 4)
  let s := { s with recs := (s.recs.filter fun q => !(same q && q.written)).map fun q => if same q then { q with stale := true } else q }
  s.modHeld r fun g =>
    match g.status with
    | .parked .fault => { g with records := 0, status := .eligible }
    | _ => g

/-- A record marked as written; a stale one holds nothing more. -/
def State.withRec (s : State) (k : Nat) : State :=
  match s.recs[k]? with
  | some r => if r.stale then { s with recs := s.recs.eraseIdx k } else { s with recs := modAt s.recs k fun r => { r with written := true } }
  | none => s

/-- A record that has waited is written: with RETRY when the epoch has moved since its check (R324, R328). -/
def State.acceptRec (s : State) (v : Nat) (bs : List Byte) : State :=
  match s.recs.findIdx? fun r => !r.written && r.vf == v && r.isOf bs with
  | none => s.writeRec v bs
  | some k =>
    match s.recs[k]? with
    | none => s.writeRec v bs
    | some r =>
      if r.kind < 4 ∧ r.epoch ≠ (s.isoAt (s.partOf (tileOf r.core))).epoch then
        let s := s.writeRec v (bs.mapIdx fun n b => if n = 23 then b ||| 4 else b)
        let s := { s with recs := s.recs.eraseIdx k }
        if r.stale then s else s.retry r
      else (s.writeRec v bs).withRec k
/-- Pending records written while the ring takes them (R324). -/
def State.writePending (s : State) (v : Nat) : Nat → State
  | 0 => s
  | n + 1 =>
    match (s.vfAt v).pend with
    | [] => s
    | bs :: rest =>
      if (s.vfAt v).canTake then ((s.modVf v fun x => { x with pend := rest }).acceptRec v bs).writePending v n else s

/-- FQHEAD (R324). -/
def State.writeHead (s : State) (vf : Nat) (v : Word) : State :=
  let s := s.modVf vf fun x => { x with fqhead := v &&& 0xFFFF }
  s.writePending vf (s.vfAt vf).pend.length

/-- FQHEAD_WRITE (R324). -/
def execFqheadWrite (vf : Nat) (v : Word) (s : State) : Host.Outcome State Fault Refusal := event s fun s => s.writeHead vf v

/-- FQCTL (R324): a write that sets EN for a ring outside the partition or of a wrong size is ignored. -/
def State.writeFqctl (s : State) (vf : Nat) (v : Word) : State :=
  let n := bitsOf v 19 16
  let x := s.vfAt vf
  let lo := bitsOf x.fqbase 40 12 * 4096
  let inside := fun a => decide (a / 2 ^ 36 < 20) && s.partOf (a / 2 ^ 36) == x.part
  if v.getLsbD 31 ∧ !(decide (7 ≤ n) && inside lo && inside (lo + 32 * 2 ^ n - 1)) then s
  else
    let s := s.modVf vf fun x => { x with fqctl := v &&& 0x800F0001 }
    s.writePending vf (s.vfAt vf).pend.length

/-- FQCTL_WRITE (R324). -/
def execFqctlWrite (vf : Nat) (v : Word) (s : State) : Host.Outcome State Fault Refusal := event s fun s => s.writeFqctl vf v

/-- A frame's entry of the frame map as it is read: its AGE with what is stored (R293, R295). -/
def State.frameEntry (s : State) (tile frame : Nat) : BitVec 16 :=
  let t := s.tileAt tile
  BitVec.ofNat 16 (min 15 (s.ticks - tget 0 t.touched frame) * 4096) ||| tget 0 t.fmap frame

/-- VFUSED: the frames assigned to a VF (R294). -/
def State.framesUsed (s : State) (vf : Nat) : Nat :=
  (s.tiles.map fun t => (t.fmap.filter fun e => e.2.getLsbD 10 && bitsOf e.2 5 0 == vf).length).sum

/-- The victim frame for a VF: its tile and frame number (R296). -/
def State.victim (s : State) (part vf : Nat) : Option (Nat × Nat) :=
  let above := (List.range 64).filter fun v => (s.vfAt v).part == part && decide (bitsOf (s.vfAt v).guar 24 0 < s.framesUsed v)
  let c := if above.isEmpty then [vf] else above
  let fs := ((s.tilesOf part).map fun t => ((s.tileAt t).fmap.filter fun e =>
    e.2.getLsbD 10 && e.2.getLsbD 11 && c.contains (bitsOf e.2 5 0)).map fun e => (t, e.1)).flatten
  let age := fun (f : Nat × Nat) => bitsOf (s.frameEntry f.1 f.2) 15 12
  fs.find? fun f => fs.all fun g => decide (age g ≤ age f)

/-- VICTIM (R296): the answer is the frame's address in [40:16], its VF in [5:0], and 1 in [63]; 0 for none (log 20). -/
def State.writeVictim (s : State) (part vf : Nat) : State :=
  match s.victim part vf with
  | none => s.modIso part fun p => { p with victim := 0 }
  | some (t, f) =>
    let owner := bitsOf (tget 0 (s.tileAt t).fmap f) 5 0
    let s := s.modTile t fun x => { x with fmap := tset 0 x.fmap f (tget 0 x.fmap f &&& 0xF7FF) }
    s.modIso part fun p => { p with victim := BitVec.ofNat 64 (2 ^ 63 + t * 2 ^ 36 + f * 2 ^ 16 + owner) }

/-- VICTIM_WRITE (R296). -/
def execVictimWrite (part vf : Nat) (s : State) : Host.Outcome State Fault Refusal := event s fun s => s.writeVictim part vf

/-- VFGUAR and VFBURST (R294). -/
def State.writeFrames (s : State) (vf : Nat) (burst : Bool) (v : Word) : State :=
  let n := bitsOf v 24 0
  let x := s.vfAt vf
  if burst then (if n < bitsOf x.guar 24 0 then s else s.modVf vf fun x => { x with burst := BitVec.ofNat 32 n })
  else
    let sum := ((List.range 64).map fun u => if u ≠ vf ∧ (s.vfAt u).part = x.part then bitsOf (s.vfAt u).guar 24 0 else 0).sum
    if bitsOf x.burst 24 0 < n ∨ (s.tilesOf x.part).length * 2 ^ 20 < sum + n then s
    else s.modVf vf fun x => { x with guar := BitVec.ofNat 32 n }

/-- VF_FRAME_COUNT_WRITE (R294). -/
def execVfFrameCountWrite (vf : Nat) (burst : Bool) (v : Word) (s : State) : Host.Outcome State Fault Refusal :=
  event s fun s => s.writeFrames vf burst v

/-- FRAME_AGING_TICK (R295). -/
def execFrameAgingTick (s : State) : Host.Outcome State Fault Refusal := event s fun s => { s with ticks := s.ticks + 1 }

/-- The sectors of a unit of 64 rows of a stack, in row order (R385). -/
def unitSectors (index : Nat) : List Nat :=
  let pch := index / 2 ^ 14 % 64
  let bg := index / 2 ^ 12 % 4
  let bank := index / 2 ^ 10 % 4
  ((List.range 64).map fun k =>
    let row := index % 2 ^ 10 * 64 + k
    let base := row * 2 ^ 20 + bank * 2 ^ 18 + bg * 2 ^ 16 + (pch ^^^ (row / 64 % 64)) * 1024
    (List.range 8).map fun j => base / 128 + j).flatten

/-- A free-space entry as it is read (R174). -/
def fsmRead (e : BitVec 16) : BitVec 16 := e &&& 0xCFFF

/-- A MAPCMD command refused (R385). -/
def State.mapRefuse (s : State) (tile : Nat) : State := s.modTile tile fun t => { t with mapcmd := t.mapcmd ||| 0x0002000000000000 }

/-- A sequence of free-space entries of a tile set to one value, with low water looked at (R174, R178, R385). -/
def State.setUnitFsm (s : State) (tile : Nat) (ks : List Nat) (e : BitVec 16) (ctx : Nat) : State :=
  let part := s.partOf tile
  let before := s.freeSectors part ctx
  let s := s.modTile tile fun t => { t with
    fsm := ks.foldl (fun m k => tset 0 m k e) t.fsm
    mapdata := e.setWidth 64 }
  s.lowWater part ctx before

/-- What a MAPCMD command does (R385). -/
def State.mapDo (s : State) (tile : Nat) (v : Addr) : State :=
  let t := s.tileAt tile
  let n := bitsOf v 29 0
  match bitsOf v 63 62 with
  | 0 =>
    if 2 ^ 29 ≤ n then s.mapRefuse tile
    else s.modTile tile fun t => { t with mapdata := (fsmRead (tget 0 t.fsm n)).setWidth 64 }
  | 3 =>
    if 2 ^ 20 ≤ n then s.mapRefuse tile
    else
      let new : BitVec 16 := t.mapdata.setWidth 16 &&& 0x0C3F
      let old := tget 0 t.fmap n
      let v := bitsOf new 5 0
      let more := new.getLsbD 10 && !(old.getLsbD 10 && bitsOf old 5 0 == v)
      let s := if more ∧ bitsOf (s.vfAt v).burst 24 0 < s.framesUsed v + 1 then
          (s.modVf v fun x => { x with frameErr := true }).pfIrq 4
        else s.modTile tile fun t => { t with fmap := tset 0 t.fmap n new }
      let e := s.frameEntry tile n
      s.modTile tile fun t => { t with mapdata := e.setWidth 64 }
  | op =>
    let ks := unitSectors n
    let st := fun k => bitsOf (tget 0 t.fsm k) 15 14
    let owner := bitsOf (tget 0 t.fsm (ks.headD 0)) 11 0
    if 2 ^ 20 ≤ n ∨ (op = 1 ∧ ks.any fun k => st k != 0) ∨ (op = 2 ∧ ks.any fun k => 2 ≤ st k) then
      (s.mapRefuse tile).modTile tile fun t => { t with mapdata := (fsmRead (tget 0 t.fsm (ks.headD 0))).setWidth 64 }
    else if op = 1 then s.setUnitFsm tile ks (BitVec.ofNat 16 (0x4000 + bitsOf v 61 50)) (bitsOf v 61 50)
    else s.setUnitFsm tile ks 0 owner

/-- MAPCMD (R385): ignored while BUSY. -/
def State.writeMapcmd (s : State) (tile : Nat) (v : Addr) : State :=
  if (s.tileAt tile).mapBusy then s
  else (s.modTile tile fun t => { t with mapcmd := v &&& 0xFFFC00003FFFFFFF, mapBusy := true }).mapDo tile v

/-- A word of MAPCMD with its OP. -/
def mapOp (v : Addr) (k : Nat) : Addr := (v &&& 0x3FFFFFFFFFFFFFFF) ||| BitVec.ofNat 64 (k * 2 ^ 62)

/-- MAP_READ_SECTOR (R385). -/
def execMapReadSector (tile : Nat) (v : Addr) (s : State) : Host.Outcome State Fault Refusal :=
  event s fun s => s.writeMapcmd tile (mapOp v 0)
/-- MAP_DONATE_UNIT (R385). -/
def execMapDonateUnit (tile : Nat) (v : Addr) (s : State) : Host.Outcome State Fault Refusal :=
  event s fun s => s.writeMapcmd tile (mapOp v 1)
/-- MAP_RECLAIM_UNIT (R385). -/
def execMapReclaimUnit (tile : Nat) (v : Addr) (s : State) : Host.Outcome State Fault Refusal :=
  event s fun s => s.writeMapcmd tile (mapOp v 2)
/-- MAP_WRITE_FRAME (R293, R385). -/
def execMapWriteFrame (tile : Nat) (v : Addr) (s : State) : Host.Outcome State Fault Refusal :=
  event s fun s => s.writeMapcmd tile (mapOp v 3)
/-- MAP_COMMAND_DONE (R385). -/
def execMapCommandDone (tile : Nat) (s : State) : Host.Outcome State Fault Refusal :=
  event s fun s => s.modTile tile fun t => { t with mapBusy := false }

/-- FLUSHCTL (R388): the L1 and L2 copies of the frame at FLUSHPA written back and dropped, and the write-combining buffers with its
bytes drained. -/
def State.flush (s : State) (part : Nat) : State :=
  if (s.isoAt part).flushing then s
  else
    let f := bitsOf (s.isoAt part).flushpa 40 16
    let s := s.modIso part fun p => { p with flushing := true }
    let s := (s.coresOf part).foldl (fun s c => s.drainWc c fun w => !w.link && w.addr / 65536 == f) s
    let s := (List.range 80).foldl (fun s c => (s.cleanL1 c fun x => x.pa / 65536 == f).dropL1 c fun x => x.pa / 65536 == f) s
    ((List.range 64).foldl (fun s k => s.cleanL2 (f * 65536 + 1024 * k)) s).dropL2 (f / 2 ^ 20) fun line => line / 64 == f % 2 ^ 20

/-- FLUSH_FRAME (R388). -/
def execFlushFrame (part : Nat) (_ : Addr) (s : State) : Host.Outcome State Fault Refusal :=
  event s fun s => s.flush part
/-- FLUSH_FRAME_DONE (R388). -/
def execFlushFrameDone (part : Nat) (s : State) : Host.Outcome State Fault Refusal :=
  event s fun s => s.modIso part fun p => { p with flushing := false }

end Sys2Proof.Machine
end

