-- ==== Sys2Proof/Machine/Units.lean ====
section
/-! DEFINITION. Units as the physical function commands them, operator-side views, snapshots, samples and reuse tags; the tenant
table (R300, R303, R309, R314 to R317, R390). -/

namespace Sys2Proof.Machine

/-- The partition of a unit's core or tile. -/
def State.unitPart (s : State) (r : UnitRef) : Nat := s.partOf (if r.tile then r.idx else tileOf r.idx)

/-- The filter that a word of PFCTL gives, unless it is refused (R309). -/
def State.pfFilter (s : State) (r : UnitRef) (v : Addr) : Option Filter :=
  match bitsOf v 61 60 with
  | 0 => match s.ctxAt (bitsOf v 53 42) with
    | some c => if c.part = s.unitPart r then some (.ctx c.id) else none
    | none => none
  | 1 => some (.vf (bitsOf v 59 54))
  | 2 => some .all
  | _ => none

/-- Whether a unit exists (R304). -/
def realUnit (r : UnitRef) : Bool := decide (r.unit < 5) && decide (r.idx < if r.tile then 20 else 80)

/-- PFCTL with OP 1 (R308, R309). -/
def State.pfClaim (s : State) (r : UnitRef) (v : Addr) : State :=
  let u := s.unitAt r
  if !realUnit r then s
  else
    match s.pfFilter r v, unitRecordOk r true u.pfrec with
    | some f, true =>
      match u.owner with
      | .ctx _ => s.setUnit { u with pend := some ⟨f, u.pfrec⟩, pfctl := pfctlWord v 1 }
      | _ => s.renew { u.grant .pf f u.pfrec (s.unitCycle r) with pfctl := pfctlWord v 0 }
    | _, _ => s.setUnit { u with pfctl := pfctlWord v 2 }

/-- PFCTL with OP 2 (R309). -/
def State.pfRelease (s : State) (r : UnitRef) (v : Addr) : State :=
  let u := s.unitAt r
  if !realUnit r then s
  else
    match u.owner with
    | .pf => s.renew { CUnit.init r with pfrec := u.pfrec, pfctl := pfctlWord v 0, lost := u.lost, froze := u.froze }
    | _ => s.setUnit { u with pend := none, pfctl := pfctlWord v 0 }

/-- PFCTL with OP 3: the records before an offset of the buffer are acknowledged (R309, R315). -/
def State.pfAck (s : State) (r : UnitRef) (v : Addr) : State :=
  let u := s.unitAt r
  let a := bitsOf v 31 0
  if !realUnit r then s
  else if r.unit = 4 ∧ u.owner = .pf ∧ a % 32 = 0 ∧ a < u.size then
    s.setUnit { u with ack := min u.ack ((u.woff + u.size - a) % u.size / 32), pfctl := pfctlWord v 0 }
  else s.setUnit { u with pfctl := pfctlWord v 2 }

/-- PF_CLAIM_UNIT (R309). -/
def execPfClaimUnit (u : UnitRef) (v : Addr) (s : State) : Host.Outcome State Fault Refusal := event s fun s => s.pfClaim u v
/-- PF_RELEASE_UNIT (R309): the other fields are written as they stand. -/
def execPfReleaseUnit (u : UnitRef) (s : State) : Host.Outcome State Fault Refusal :=
  event s fun s => s.pfRelease u (s.unitAt u).pfctl
/-- PF_ACK_TRACE (R309, R315). -/
def execPfAckTrace (u : UnitRef) (v : Addr) (s : State) : Host.Outcome State Fault Refusal := event s fun s => s.pfAck u v

/-- The contexts whose events a unit may count, and those that it has counted (R303). -/
def State.counted (s : State) (u : CUnit) : List Context :=
  s.contexts.filter fun x => (u.share.any fun e => e.1 / 8 == x.id) || match u.filter with
    | .ctx c => x.id == c
    | .vf v => x.vf == v
    | .all => x.part == s.unitPart u.ref

/-- The granularity of counter class c in a policy (R299). -/
def cntg (pol : List Byte) (c : Nat) : Nat := fieldAt pol 16 8 / 4 ^ c % 4

/-- Whether a selector counts only events of no context (R303). -/
def unattributed (e : BitVec 16) : Bool :=
  bitsOf e 14 11 == 15 || (bitsOf e 14 11 == 0 && (bitsOf e 6 0 == 20 || bitsOf e 6 0 == 21))

/-- The granularity at which the operator sees a counter (R303): the least-disclosing code of the contexts that it counts and of those
that have ended; events of no context are FULL. -/
def State.granularity (s : State) (u : CUnit) (i : Nat) : Nat :=
  let e := selector u.record i
  if u.filter = .all ∧ unattributed e then 3
  else ((s.counted u).map fun c => cntg c.policy (bitsOf e 14 11)).foldl min (u.least.getD i 3)

/-- MINWIN of a unit's windows: the longest of its contexts' (R303). -/
def State.minwin (s : State) (u : CUnit) : Nat := ((s.counted u).map fun c => fieldAt c.policy 32 4).foldl max u.minw

/-- A count rounded down to a power of two (R300). -/
def floorPow2 (n : Nat) : Nat := if n = 0 then 0 else 2 ^ Nat.log2 n

/-- A counter as the operator reads it (R300, R303); of a unit that it has lost, what froze in its readout (R310). -/
def State.operatorCount (s : State) (u : CUnit) (i : Nat) : Nat :=
  if u.lost then u.froze.getD i 0
  else if u.ref.unit = 4 then (if u.owner = .pf then u.value i else 0)
  else match s.granularity u i with
  | 0 => 0
  | 1 => u.pub.getD i 0
  | 2 => u.snap.getD i 0
  | _ => u.cnt.getD i 0

/-- SNAPSHOT_WINDOW (R303): at the end of a window the BUCKETED counters are published. -/
def execSnapshotWindow (r : UnitRef) (s : State) : Host.Outcome State Fault Refusal :=
  event s fun s =>
    let u := s.unitAt r
    let w := s.minwin u
    if u.owner = .free ∨ s.unitCycle r < u.from_ + w then s
    else
      let snap := (List.range 8).map fun i =>
        if s.granularity u i = 2 then floorPow2 (u.cnt.getD i 0) else u.snap.getD i 0
      s.modUnit r fun u => { u with snap := snap, from_ := u.from_ + w }

/-- A unit when a context that it counts is destroyed (R303): the context's total is published, and its codes stay with the unit. -/
def CUnit.part (u : CUnit) (x : Context) : CUnit :=
  { u with
    pub := (List.range 8).map fun i => (u.pub.getD i 0 + tget 0 u.share (8 * x.id + i)) % 2 ^ 48
    share := u.share.filter fun e => e.1 / 8 != x.id
    least := (List.range 8).map fun i => min (u.least.getD i 3) (cntg x.policy (bitsOf (selector u.record i) 14 11))
    minw := max u.minw (fieldAt x.policy 32 4) }

/-- The units that count a context as they are once it is destroyed (R303). -/
def State.publishTotals (s : State) (x : Context) : State :=
  { s with units := s.units.map fun (u : CUnit) => if (s.counted u).any fun y => y.id == x.id then u.part x else u }

/-- A unit of a context that is destroyed: free, with what it has published still readable, or passed to a pending claim. -/
def State.endUnit (s : State) (u : CUnit) : State :=
  match u.pend with
  | some _ => s.freeUnit u
  | none => s.setUnit { u with owner := .free }

/-- A context destroyed: its work ends, its totals are published, its descriptors are disabled (R283, R303, R335). -/
def State.destroy (s : State) (x : Context) : State :=
  let s := s.publishTotals x
  let s := (s.units.filter fun u => u.owner == .ctx x.id).foldl State.endUnit s
  let s := s.stopContext x.id
  let s := { s with contexts := s.contexts.filter (fun c => c.id != x.id), images := s.images.filter fun m => m.ctx != x.id }
  s.modVf x.vf fun v => { v with ctxdesc := v.ctxdesc.map fun d => if descCtx d = some x.id then d &&& ~~~1 else d }

/-- A new context that a descriptor describes (R283, R301). -/
def newContext (c vf part root : Nat) (policy : List Byte) : Context :=
  { id := c, vf := vf, part := part, root := root, run := .running, quota := 0, quotaWait := 0, mm0 := false, mm0Wait := false,
    objs := [], frames := [], policy := policy, seq := 0, low := 0, dbg := none, debugStop := false, drained := false, reported := false, answer := 0, loadAnswer := some 0, dump := none, ending := none }

/-- The context of a VF that a descriptor names, when it stands. -/
def State.described (s : State) (vf : Nat) (d : Addr) : Option Context :=
  ((descCtx d).bind s.ctxAt).bind fun x => if x.vf = vf then some x else none

/-- CTXDESC (R283): a descriptor with a foreign ROOT or VF field keeps EN at 0. One that changes replaces the whole context that it
described, and the one that it names; the context that it describes stands once CONTEXT_CREATE has accepted its policy (R301; log 23). -/
def State.writeCtxdesc (s : State) (vf slot : Nat) (v : Addr) : State :=
  let root := bitsOf v 40 11 * 2048
  let ok := s.partOf (root / 2 ^ 36) == (s.vfAt vf).part && decide (root / 2 ^ 36 < 20) && bitsOf v 51 46 == vf
  let w := v &&& 0xFFFFC1FFFFFFF801
  let w := if ok then w else w &&& ~~~1
  let old := (s.vfAt vf).ctxdesc.getD slot 0
  if w = old ∨ 16 ≤ slot then s
  else
    let s := match s.described vf old with | some x => s.destroy x | none => s
    let s := match s.described vf w with | some x => s.destroy x | none => s
    s.modVf vf fun x => { x with ctxdesc := modAt x.ctxdesc slot fun _ => w }

/-- CTXDESC_WRITE (R283). -/
def execCtxdescWrite (vf slot : Nat) (v : Addr) (s : State) : Host.Outcome State Fault Refusal :=
  event s fun s => s.writeCtxdesc vf slot v

/-- TRACE_PC_SAMPLE (R314): one issuing group of the filter, partitions in turn. -/
def execTracePcSample (core : Nat) (s : State) : Host.Outcome State Fault Refusal :=
  event s fun s =>
    let u := s.unitAt ⟨false, core, 4⟩
    let per := fieldAt u.record 14 1
    let cyc := (s.coreAt core).cyc
    if u.owner = .free ∨ per = 0 ∨ cyc % 2 ^ per ≠ 0 then s
    else
      let first := cyc / 2 ^ per % 4
      let gs := ((List.range 4).map fun k => s.groups.filter fun g =>
        g.core == core && g.part == (first + k) % 4 && g.status == .issuing && u.takes (s.groupLoc g)).flatten
      match gs.head? with
      | some g => if fieldAt u.record 12 2 / 2 % 2 = 1 then s.traceGroup g (s.groupLoc g) 1 0 g.here.toNat 0 else s
      | none => s

/-- REUSE_TAG_EXPIRE (R317). -/
def execReuseTagExpire (tile n : Nat) (s : State) : Host.Outcome State Fault Refusal :=
  event s fun s =>
    match (s.tileAt tile).tags.find? fun t => t.n == n with
    | none => s
    | some t =>
      if t.d < 2 ^ 20 then s
      else
        let r : UnitRef := ⟨true, tile, t.unit⟩
        let ctx := match (s.unitAt r).filter with | .ctx c => c | _ => 0
        (s.modTile tile fun x => { x with tags := x.tags.filter fun y => y.n != n }).binReuse r ctx 15

/-- A byte of a tenant-table entry as it is kept (R390). -/
def tenantByte (n : Nat) (b : Byte) : Byte := if n = 37 then b &&& 0x0F else if n = 38 then b &&& 0x3F else b

/-- Bytes written to a tenant-table entry (R390): all but EN are ignored while EN is 1; setting EN fills the bucket and clears the
refusals. -/
def State.writeTenant (s : State) (port v off : Nat) (data : List Byte) : State :=
  s.modTenant port v fun t =>
    let on := fieldAt t.bytes 39 1 % 2 == 1
    let put := fun (n : Nat) (b : Byte) =>
      if n < off ∨ off + data.length ≤ n then b
      else if n = 39 then data.getD (n - off) 0 &&& 1
      else if on ∨ 39 < n then b else tenantByte n (data.getD (n - off) 0)
    let t := { t with bytes := t.bytes.mapIdx put }
    if !on && fieldAt t.bytes 39 1 % 2 == 1 then
      { t with tokens := fieldAt t.bytes 36 1, refusals := 0, since := (s.coreAt 0).cyc } else t

/-- TENANT_ENTRY_WRITE (R390). -/
def execTenantEntryWrite (port vf offset : Nat) (data : List Byte) (s : State) : Host.Outcome State Fault Refusal :=
  event s fun s => s.writeTenant port vf offset data

end Sys2Proof.Machine
end

