-- ==== Sys2Proof/Machine/Windows.lean ====
section
/-! DEFINITION. The management window and the VF windows: what a write of a register does and what a read returns
(R4, R5, R282, R304, R309, R382 to R386, R391, R395, R396, R401). -/

namespace Sys2Proof.Machine

/-- A status word with the bits of a mask that are written as 1 cleared (R4). -/
def w1c {n : Nat} (mask old v : BitVec n) : BitVec n := old &&& ~~~(v &&& mask)

/-- A list of bytes padded or cut to n. -/
def padTo (n : Nat) (bs : List Byte) : List Byte := bs.take n ++ List.replicate (n - bs.length) 0

/-- A list of bytes with those from an offset on replaced. -/
def putBytes (bs : List Byte) (o : Nat) (new : List Byte) : List Byte :=
  bs.mapIdx fun n b => if o ≤ n ∧ n < o + new.length then new.getD (n - o) b else b

/-- PFCTL (R309). -/
def State.writePfctl (s : State) (r : UnitRef) (v : Addr) : State :=
  match bitsOf v 63 62 with
  | 1 => s.pfClaim r v
  | 2 => s.pfRelease r v
  | 3 => s.pfAck r v
  | _ =>
    let u := s.unitAt r
    if realUnit r then s.setUnit { u with pfctl := pfctlWord v (bitsOf u.pfctl 63 62) } else s

/-- A write in the 128 bytes of a unit (R304, R309, R384); `pf` for the management window. -/
def State.writeUnit (s : State) (r : UnitRef) (pf : Bool) (o : Nat) (v : Addr) : State :=
  if o = 0 then
    let u := s.unitAt r
    s.setUnit { u with lost := u.lost && !v.getLsbD 28, ovf := u.ovf &&& ~~~(BitVec.ofNat 8 (bitsOf v 27 20)) }
  else if !pf then s
  else if o = 8 then s.writePfctl r v
  else if 32 ≤ o ∧ o < 64 then
    let u := s.unitAt r
    s.setUnit { u with pfrec := putBytes u.pfrec (o - 32) (leBytes 8 v.toNat) }
  else s

/-- The unit and the offset in it that an offset of a block of units names. -/
def unitIn (tile : Bool) (idx o : Nat) : Option (UnitRef × Nat) :=
  if o / 128 < 5 then some (⟨tile, idx, o / 128⟩, o % 128) else none

/-- The attestation registers of a function written: the nonce, then the command (R401). -/
def writeAttest (x : Vf) (o : Nat) (v : Addr) : Vf :=
  if o < 32 then { x with nonce := putBytes x.nonce o (leBytes 8 v.toNat) }
  else if o = 32 ∧ v.getLsbD 0 ∧ !x.attBusy then { x with attBusy := true, nonceUsed := x.nonce }
  else x

/-- A write in the block of a tile (R384). -/
def State.writeTile (s : State) (t o : Nat) (v : Addr) : State :=
  if o = 0 then s.writePartid t (v.setWidth 32)
  else if o = 8 then s.modTile t fun x => { x with errlog := w1c 0xC000000000000000 x.errlog v }
  else if 0x100 ≤ o ∧ o < 0x200 then
    let n := (o - 0x100) / 0x20
    match (o - 0x100) % 0x20 with
    | 0 => s.modTile t fun x => { x with res := modAt x.res n fun r => { r with base := v &&& 0x1FFFFFF0000 } }
    | 8 => s.modTile t fun x => { x with res := modAt x.res n fun r => { r with lim := v &&& 0x1FFFFFF0000 } }
    | 16 => s.writeResctl t n (v.setWidth 32)
    | _ => s
  else if o = 0x1000 then s.writeMapcmd t v
  else if o = 0x1008 then (if (s.tileAt t).mapBusy then s else s.modTile t fun x => { x with mapdata := v &&& 0xFFFF })
  else if 0x8000 ≤ o then
    match unitIn true t (o - 0x8000) with
    | some (r, k) => s.writeUnit r true k v
    | none => s
  else s

/-- A write in the block of a partition (R384). -/
def State.writePart (s : State) (p o : Nat) (v : Addr) : State :=
  match o with
  | 0x00 => s.modIso p fun x => { x with invva := v &&& 0x01FFFFFFFFFF0000 }
  | 0x08 => s.writeInvctl p v
  | 0x10 => s.modIso p fun x => { x with invstat := w1c 0xC0000000 x.invstat (v.setWidth 32) }
  | 0x20 => s.modIso p fun x => { x with fqresva := v &&& 0x01FFFFFFFFFF0000 }
  | 0x28 =>
    match bitsOf v 51 50 with
    | 0 => (s.resolve p v false).reapAll
    | 1 => (s.resolve p v true).reapAll
    | 2 => s.resumePx p v
    | _ => s.modIso p fun x => { x with fqresctl := v &&& 0xFFFF000000001FFF, epoch := x.epoch + 1 }
  | 0x30 => s.writeVictim p (bitsOf v 5 0)
  | 0x40 => s.modIso p fun x => { x with flushpa := v &&& 0x1FFFFFF0000 }
  | 0x48 => s.flush p
  | _ => s

/-- A write of a register of a VF's fault queue, by its place among them (R324). -/
def State.writeQueue (s : State) (vf o : Nat) (v : Addr) : State :=
  match o with
  | 0x00 => s.modVf vf fun x => { x with fqbase := v &&& 0x1FFFFFFF000 }
  | 0x08 => s.writeFqctl vf (v.setWidth 32)
  | 0x10 => s.writeHead vf (v.setWidth 32)
  | 0x20 => s.modVf vf fun x => { x with fqfull := x.fqfull && !v.getLsbD 31 }
  | _ => s

/-- What a read of a register of a VF's fault queue returns (R324). -/
def Vf.readQueue (x : Vf) (o : Nat) : Addr :=
  match o with
  | 0x00 => x.fqbase
  | 0x08 => x.fqctl.setWidth 64
  | 0x10 => x.fqhead.setWidth 64
  | 0x18 => x.fqtail.setWidth 64
  | 0x20 => BitVec.ofNat 64 ((if x.fqfull then 2 ^ 31 else 0) + min x.pend.length 0xFFFF)
  | _ => 0

/-- A write in the block of a VF (R282, R384). R324 has the registers of its fault queue in the management window too, and R384 gives them
no offset: the model puts them at 0x200 to 0x220 of the block (log 80). -/
def State.writeVfBlock (s : State) (u o : Nat) (v : Addr) : State :=
  if 0x100 ≤ o ∧ o < 0x180 ∧ o % 8 = 0 then s.writeCtxdesc u ((o - 0x100) / 8) v
  else if 0x200 ≤ o then s.writeQueue u (o - 0x200) v
  else
    match o with
    | 0x00 => if bitsOf v 4 0 < 20 then s.modVf u fun x => { x with part := bitsOf v 4 0, tenant := 0, key := [] } else s
    | 0x08 => s.modVf u fun x => { x with plbud := v &&& 0xFFFFFFFFFF00007F }
    | 0x10 => s.writeFrames u false (v.setWidth 32)
    | 0x18 => s.writeFrames u true (v.setWidth 32)
    | 0x20 => if v.getLsbD 32 then s.modVf u fun x => { x with frameErr := false } else s
    | _ => s

/-- A write in the management window (R384); in recovery nothing but the recovery window takes writes (R399). -/
def State.writeManagement (s : State) (o : Nat) (v : Addr) : State :=
  if o = 0x008 then { s with pfCauses := w1c 0x3F s.pfCauses (v.setWidth 32) }
  else if 0x4400 ≤ o ∧ o < 0x4428 then { s with pfReport := writeAttest s.pfReport (o - 0x4400) v }
  else if 0x100000 ≤ o ∧ o < 0x150000 then
    let c := (o - 0x100000) / 0x1000
    match if 0x100 ≤ o % 0x1000 then unitIn false c (o % 0x1000 - 0x100) else none with
    | some (r, k) => s.writeUnit r true k v
    | none => s
  else if 0x200000 ≤ o ∧ o < 0x340000 then s.writeTile ((o - 0x200000) / 0x10000) (o % 0x10000) v
  else if 0x400000 ≤ o ∧ o < 0x414000 then s.writePart ((o - 0x400000) / 0x1000) (o % 0x1000) v
  else if 0x600000 ≤ o ∧ o < 0x640000 then s.writeVfBlock ((o - 0x600000) / 0x1000) (o % 0x1000) v
  else if 0x800000 ≤ o ∧ o < 0x808000 then
    s.writeTenant ((o - 0x800000) / 0x1000) (o % 0x1000 / 0x40) (o % 0x40) (leBytes 8 v.toNat)
  else s

/-- The unit that an offset of a VF window shows: units of the cores, then of the tiles, of the VF's partition (R386). -/
def State.viewOf (s : State) (vf o : Nat) : Option (UnitRef × Nat) :=
  let p := (s.vfAt vf).part
  if 0x1000 ≤ o ∧ o < 0x15000 then
    match (s.coresOf p)[(o - 0x1000) / 0x400]? with
    | some c => unitIn false c (o % 0x400)
    | none => none
  else if 0x20000 ≤ o ∧ o < 0x25000 then
    match (s.tilesOf p)[(o - 0x20000) / 0x400]? with
    | some t => unitIn true t (o % 0x400)
    | none => none
  else none

/-- Whether a unit belongs to a context of a VF. -/
def State.vfOwns (s : State) (vf : Nat) (u : CUnit) : Bool :=
  match u.owner with
  | .ctx c => (match s.ctxAt c with | some x => x.vf == vf | none => false)
  | _ => false

/-- A write in the window of a VF (R386); a posted write to its launch window is discarded with the error that R268 gives it. -/
def State.writeVfWindow (s : State) (vf o : Nat) (v : Addr) : State :=
  match o with
  | 0x200 => s.modVf vf fun x => { x with irq := w1c 0x1F x.irq (v.setWidth 32) }
  | _ =>
    if o < 0x40 then (s.windowError vf).irq vf 1
    else if 0x100 ≤ o ∧ o < 0x128 then s.writeQueue vf (o - 0x100) v
    else if 0x400 ≤ o ∧ o < 0x428 then s.modVf vf fun x => writeAttest x (o - 0x400) v
    else
      match s.viewOf vf o with
      | some (r, k) => if s.vfOwns vf (s.unitAt r) then s.writeUnit r false k v else s
      | none => s

/-- A 64-bit write of a register of a window (R384): offsets that are no register's are ignored. -/
def State.writeWindow (s : State) (window : Option Nat) (o : Nat) (v : Addr) : State :=
  if o % 8 ≠ 0 then s
  else match window with
    | none => s.writeManagement o v
    | some vf => if vf < 64 then s.writeVfWindow vf o v else s

/-- REGISTER_WRITE (R4, R384, R386). -/
def execRegisterWrite (window : Option Nat) (offset : Nat) (v : Addr) (s : State) : Host.Outcome State Fault Refusal :=
  event s fun s => s.writeWindow window offset v

/-- BANKSTAT (R304). -/
def CUnit.bankstat (u : CUnit) : Addr :=
  let k := match u.owner with | .free => 0 | .pf => 1 | .ctx c => 2 + c % 4096 * 4
  BitVec.ofNat 64 (k % 4 * 2 ^ 30 + (if u.pend.isSome then 2 ^ 29 else 0) + (if u.lost then 2 ^ 28 else 0) + u.ovf.toNat * 2 ^ 20 + k / 4)

/-- A read in the 128 bytes of a unit; `count` gives the counters as the reader sees them (R302, R304). -/
def CUnit.read (u : CUnit) (pf : Bool) (count : Nat → Nat) (o : Nat) : Addr :=
  if o = 0 then u.bankstat
  else if o = 8 then (if pf then u.pfctl else 0)
  else if 32 ≤ o ∧ o < 64 then BitVec.ofNat 64 (fieldAt (if pf then u.pfrec else u.record) (o - 32) 8)
  else if 64 ≤ o then BitVec.ofNat 64 (count ((o - 64) / 8))
  else 0

/-- PKGID (R384). -/
def State.pkgid (s : State) : Addr :=
  BitVec.ofNat 64 ((if s.power = .ready then 2 ^ 32 else 0) + 0x0008 * 2 ^ 8 + Config.stepping.toNat)

/-- INVSTAT as it is read (R291). -/
def IsoPart.invstatRead (p : IsoPart) : Addr := ((p.invstat &&& 0xC000FFFF) ||| BitVec.ofNat 32 (p.queue.length * 65536)).setWidth 64

/-- DAMPq (R396). -/
def State.damp (s : State) (core : Nat) : Addr :=
  BitVec.ofNat 64 (s.floor * 512 + (if s.hot = 0 then 0 else 256) + (s.coreAt core).damper)

/-- A read in the block of a tile (R384, R395, R396). -/
def State.readTile (s : State) (t o : Nat) : Addr :=
  let x := s.tileAt t
  if o = 0 then x.partid.setWidth 64
  else if o = 8 then x.errlog
  else if 0x100 ≤ o ∧ o < 0x200 then
    let r := x.res.getD ((o - 0x100) / 0x20) ResRange.init
    match (o - 0x100) % 0x20 with
    | 0 => r.base
    | 8 => r.lim
    | 16 => r.ctl.setWidth 64
    | _ => 0
  else if o = 0x1000 then x.mapcmd
  else if o = 0x1008 then (if x.mapBusy then 0x10000 else x.mapdata)
  else if 0x2000 ≤ o ∧ o < 0x2100 then (x.cones.getD ((o - 0x2000) / 8) 0).setWidth 64
  else if 0x2100 ≤ o ∧ o < 0x2120 then s.damp (4 * t + (o - 0x2100) / 8)
  else if 0x8000 ≤ o then
    match unitIn true t (o - 0x8000) with
    | some (r, k) => (s.unitAt r).read true (s.operatorCount (s.unitAt r)) k
    | none => 0
  else 0

/-- A read in the block of a partition (R384). -/
def State.readPart (s : State) (p o : Nat) : Addr :=
  let x := s.isoAt p
  match o with
  | 0x00 => x.invva
  | 0x08 => x.invctl
  | 0x10 => x.invstatRead
  | 0x20 => x.fqresva
  | 0x28 => x.fqresctl
  | 0x30 => x.victim
  | 0x40 => x.flushpa
  | 0x48 => if x.flushing then 1 else 0
  | _ => 0

/-- A read in the block of a VF (R384). -/
def State.readVfBlock (s : State) (u o : Nat) : Addr :=
  let x := s.vfAt u
  if 0x100 ≤ o ∧ o < 0x180 then x.ctxdesc.getD ((o - 0x100) / 8) 0
  else if 0x200 ≤ o then x.readQueue (o - 0x200)
  else
    match o with
    | 0x00 => BitVec.ofNat 64 x.part
    | 0x08 => x.plbud
    | 0x10 => x.guar.setWidth 64
    | 0x18 => x.burst.setWidth 64
    | 0x20 => BitVec.ofNat 64 (s.framesUsed u + if x.frameErr then 2 ^ 32 else 0)
    | _ => 0

/-- The attestation registers of a function as they are read (R401). -/
def readAttest (x : Vf) (o : Nat) : Addr :=
  if o < 0x20 then BitVec.ofNat 64 (fieldAt x.nonce o 8)
  else if o = 0x20 then (if x.attBusy then 1 else 0)
  else if 0x100 ≤ o ∧ o < 0x1E0 then BitVec.ofNat 64 (fieldAt x.report (o - 0x100) 8)
  else 0

/-- A tenant-table entry as it is read (R390). -/
def Tenant.read (t : Tenant) (o : Nat) : Addr := BitVec.ofNat 64 (fieldAt (t.bytes.take 40 ++ leBytes 8 t.refusals) o 8)

/-- Whether a slot of the flash holds a valid lifetime record (R345, R346). -/
def lifeValid (r : List Byte) : Bool :=
  r.length == 4096 && fieldAt r 0 4 == 0xC5D111FE && r.drop 4064 == padTo 32 (Config.sm3 (r.take 4064))

/-- The newest valid copy of the lifetime record (R346). -/
def newestLife (flash : List (List Byte)) : Option (List Byte) :=
  (flash.filter lifeValid).foldl (fun b r =>
    match b with
    | some x => if fieldAt x 8 8 < fieldAt r 8 8 then some r else some x
    | none => some r) none

/-- What a read of the management window returns (R384, R399). -/
def State.readManagement (s : State) (o : Nat) : Addr :=
  if s.power = .off then 0
  else if o = 0 then s.pkgid
  else if s.power ≠ .ready then 0
  else if o = 8 then s.pfCauses.setWidth 64
  else if 0x100 ≤ o ∧ o < 0x1100 then BitVec.ofNat 64 (fieldAt ((newestLife s.flash).getD []) (o - 0x100) 8)
  else if 0x4400 ≤ o ∧ o < 0x45E0 then readAttest s.pfReport (o - 0x4400)
  else if 0x100000 ≤ o ∧ o < 0x150000 then
    let c := (o - 0x100000) / 0x1000
    if o % 0x1000 = 0 then (corecap c (s.coreAt c)).setWidth 64
    else
      match if 0x100 ≤ o % 0x1000 then unitIn false c (o % 0x1000 - 0x100) else none with
      | some (r, k) => (s.unitAt r).read true (s.operatorCount (s.unitAt r)) k
      | none => 0
  else if 0x200000 ≤ o ∧ o < 0x340000 then s.readTile ((o - 0x200000) / 0x10000) (o % 0x10000)
  else if 0x400000 ≤ o ∧ o < 0x414000 then s.readPart ((o - 0x400000) / 0x1000) (o % 0x1000)
  else if 0x600000 ≤ o ∧ o < 0x640000 then s.readVfBlock ((o - 0x600000) / 0x1000) (o % 0x1000)
  else if 0x800000 ≤ o ∧ o < 0x808000 then
    (s.tenantAt ((o - 0x800000) / 0x1000) (o % 0x1000 / 0x40)).read (o % 0x40)
  else 0

/-- A counter as a VF's window shows it: in full to its owner, coarsened to others, and 0 for class 15 (R302, R307). -/
def State.vfCount (s : State) (vf : Nat) (u : CUnit) (i : Nat) : Nat :=
  if u.ref.unit < 4 ∧ bitsOf (selector u.record i) 14 11 = 15 then 0
  else if s.vfOwns vf u then u.value i else s.operatorCount u i

/-- What a read of a VF's window returns (R386). -/
def State.readVfWindow (s : State) (vf o : Nat) : Addr :=
  let x := s.vfAt vf
  match o with
  | 0x200 => x.irq.setWidth 64
  | _ =>
    if 0x100 ≤ o ∧ o < 0x128 then x.readQueue (o - 0x100)
    else if 0x400 ≤ o ∧ o < 0x5E0 then readAttest x (o - 0x400)
    else
      match s.viewOf vf o with
      | some (r, k) => (s.unitAt r).read false (s.vfCount vf (s.unitAt r)) k
      | none => 0

/-- What a 64-bit read of a window returns (R384): an unassigned offset reads zero. -/
def State.readWindow (s : State) (window : Option Nat) (o : Nat) : Addr :=
  if o % 8 ≠ 0 then 0
  else match window with
    | none => s.readManagement o
    | some vf => if s.power = .ready then s.readVfWindow vf o else 0

/-- The bytes of a function's BAR: 64 MiB for the physical function, 256 KiB for a VF (R383). -/
def barBytes (who : Option Nat) : Nat := match who with | none => 2 ^ 26 | some _ => 2 ^ 18

/-- The words of a function's configuration space that its identity and its BAR fix (R382, R383, R399): none is the answer Configuration
Request Retry Status, which the physical function gives until the package is ready; a VF that is not exposed answers all ones. The word
at 0x10 is the type of a 64-bit prefetchable memory BAR; where the host has placed it is not kept (log 75). -/
def State.configRead (s : State) (who : Option Nat) (o : Nat) : Option Word :=
  match who with
  | some vf =>
    if s.power ≠ .ready ∨ 64 ≤ vf then some 0xFFFFFFFF
    else some (match o with | 0x00 => 0x08A11C5D | 0x10 => 0x0000000C | _ => 0)
  | none =>
    if s.power = .recovery ∨ s.power = .ready then some (match o with | 0x00 => 0x08A01C5D | 0x10 => 0x0000000C | _ => 0)
    else none

end Sys2Proof.Machine
end

