-- ==== Sys2Proof/Machine/Power.lean ====
section
/-! DEFINITION. Power, cones, dampers, caps, gating, lifetime records, reset, verified boot, identity and attestation
(R297, R298, R343 to R346, R387, R394 to R402). -/

namespace Sys2Proof.Machine

/-- A cone's reading in units of 1/64 °C, when it has passed its self-check (R395). -/
def coneTemp (c : Word) : Option Int := if c.getLsbD 16 then some (c.setWidth 16 : BitVec 16).toInt else none

/-- The readings of some cones of a tile. -/
def Tile.temps (t : Tile) (ns : List Nat) : List Int := ns.filterMap fun n => coneTemp (t.cones.getD n 0)

/-- Whether a tile is in the emergency of R396. -/
def Tile.emergency (t : Tile) : Bool :=
  (t.temps (List.range 28)).any (fun x => decide (112 * 64 ≤ x)) || (t.temps [28, 29, 30, 31]).any fun x => decide (100 * 64 ≤ x)

/-- The hottest of some readings. -/
def hottest (xs : List Int) : Option Int := xs.foldl (fun m x => match m with | some y => some (max x y) | none => some x) none

/-- The bin of a temperature in a lifetime record (R345). -/
def tempBin (x : Int) : Nat := if x < 45 * 64 then 0 else if 105 * 64 ≤ x then 7 else ((x - 45 * 64) / 640).toNat + 1

/-- A count of 10 µs added to a count of seconds of the lifetime record. -/
def State.heatAdd (s : State) (off : Nat) : State := { s with heat := tset 0 s.heat off (tget 0 s.heat off + 1) }

/-- The time that a tile's cones have spent in their bins, once all have been read in a period (R345). -/
def State.binTemps (s : State) (tile n : Nat) : State :=
  let t := s.tileAt tile
  let add := fun (s : State) (k : Nat) (ns : List Nat) =>
    match hottest (t.temps ns) with
    | some x => s.heatAdd (288 + 128 * tile + 64 * k + 8 * tempBin x)
    | none => s
  if n = 27 then add s 0 (List.range 28)
  else if n = 31 then
    let s := add s 1 [28, 29, 30, 31]
    if (t.temps [28, 29, 30, 31]).any fun x => decide (85 * 64 < x) then s.heatAdd (3008 + 16 * tile) else s
  else s

/-- CONE_SAMPLE (R395, R396): an emergency sets every damper to 7 at once. -/
def execConeSample (tile n : Nat) (valid : Bool) (temp : BitVec 16) (s : State) : Host.Outcome State Fault Refusal :=
  event s fun s =>
    let w : Word := (if valid then 0x10000 else 0) ||| temp.setWidth 32
    let s := (s.modTile tile fun t => { t with cones := modAt t.cones n fun _ => w }).binTemps tile n
    if s.tiles.any Tile.emergency then
      { s with hot := if s.hot = 0 then (s.coreAt 0).cyc + 1 else s.hot,
               cores := s.cores.map fun (k : Core) => { k with damper := 7 } }
    else { s with hot := 0 }

/-- The level of a core's damper after an evaluation (R395 to R397). -/
def State.dampLevel (s : State) (core : Nat) : Nat :=
  let t := s.tileAt (tileOf core)
  let q := core % 4
  let lane := t.temps [4 * q, 4 * q + 1, 4 * q + 2, 4 * q + 3]
  let logic := lane ++ t.temps [16 + 2 * q, 17 + 2 * q]
  let dram := t.temps [28 + q]
  let n := (s.coreAt core).damper
  let n := if logic.any (fun x => decide (103 * 64 ≤ x)) || dram.any fun x => decide (93 * 64 ≤ x) then min 7 (n + 1)
    else if logic.all (fun x => decide (x ≤ 101 * 64)) && dram.all fun x => decide (x ≤ 91 * 64) then n - 1
    else n
  max s.floor (if lane.isEmpty then max 4 n else n)

/-- DAMPER_EVALUATE (R396): level 7 holds while the emergency does. -/
def execDamperEvaluate (core : Nat) (s : State) : Host.Outcome State Fault Refusal :=
  event s fun s => if s.hot ≠ 0 then s else s.modCore core fun k => { k with damper := s.dampLevel core }

/-- POWER_FLOOR_UPDATE (R397). -/
def execPowerFloorUpdate (watts : Nat) (s : State) : Host.Outcome State Fault Refusal :=
  event s fun s =>
    let f := if 3200 < watts then min 7 (s.floor + 1) else if watts < 3100 then s.floor - 1 else s.floor
    { s with floor := f, cores := s.cores.map fun (k : Core) => { k with damper := max f k.damper } }

/-- VF_CAP_UPDATE (R274, R398): the window's measurements are taken and new ones begin. -/
def execVfCapUpdate (vf watts : Nat) (s : State) : Host.Outcome State Fault Refusal :=
  event s fun s => s.modVf vf fun v =>
    let p := bitsOf v.plbud 63 48
    { v with
      power := watts, measured := v.traffic, traffic := 0
      cap := if p ≠ 0 ∧ p < watts then min 7 (v.cap + 1) else if p = 0 ∨ 10 * watts ≤ 9 * p then v.cap - 1 else v.cap }

/-- HEAT_CHARGE_WINDOW (R298): the extra refresh of a hot quadrant, in bytes, charged to the VFs that issued on the core above it.
How long a refresh takes is not stated, so the bytes are a free value up to the peak of the window (log 21). -/
def execHeatChargeWindow (core : Nat) (s : State) : Host.Outcome State Fault Refusal :=
  event s fun s =>
    let hot := ((s.tileAt (tileOf core)).temps [28 + core % 4]).any fun x => decide (85 * 64 < x)
    let used := (s.coreAt core).issued
    let total := (used.map Prod.snd).sum
    let s := s.modCore core fun k => { k with issued := [] }
    if !hot || total = 0 then s
    else
      let (bytes, s) := s.choose 16384001
      used.foldl (fun s u =>
        let n := bytes * u.2 / total
        (s.modVf u.1 fun v => { v with traffic := v.traffic + n }).count ⟨true, tileOf core, 0, 4096, u.1, 0⟩ 3 3 n) s

/-- VOLTAGE_UPDATE (R394). -/
def execVoltageUpdate (tile : Nat) (s : State) : Host.Outcome State Fault Refusal :=
  event s fun s => s.modTile tile fun t => { t with
    voltage := Config.minVoltage tile (BitVec.ofInt 16 ((hottest (t.temps (List.range 28))).getD 0)) }

/-- The tile of a unit that gates itself (R12, R394). -/
def powerTile : PowerUnit → Nat
  | .matrix core _ => tileOf core
  | .homeLanes home => home / 256
  | .portLanes port => portTile port

/-- Whether a unit has work (R394). -/
def State.unitBusy (s : State) : PowerUnit → Bool
  | .matrix core part => s.mats.any fun m => m.core == core && m.part == part && !m.queue.isEmpty
  | .homeLanes home => s.busyHomes.contains home
  | .portLanes _ => false

/-- The core cycles for which a unit has been idle when it gates itself off (R394). -/
def idleCycles : PowerUnit → Nat
  | .matrix _ _ => 4096
  | .homeLanes _ => 16384
  | .portLanes _ => 3000000

/-- Whether a unit has been idle for so long that it gates itself off (R394). -/
def State.idleOut (s : State) (u : PowerUnit) : Bool :=
  let last := match (s.tileAt (powerTile u)).used.find? fun e => e.1 == u with | some e => e.2 | none => 0
  !s.unitBusy u && decide (last + idleCycles u ≤ (s.coreAt 0).cyc)

/-- A tile at the end of a core cycle: the units that have work. -/
def State.markUsed (s : State) (n : Nat) (t : Tile) : Tile :=
  let mats := (s.mats.filter fun m => tileOf m.core == n && !m.queue.isEmpty).map fun m => PowerUnit.matrix m.core m.part
  let homes := (s.busyHomes.filter fun h => h / 256 == n).map PowerUnit.homeLanes
  (dedup (mats ++ homes)).foldl (fun t u => t.use u (s.coreAt 0).cyc) t

/-- The units of the package that gate themselves (R394). -/
def allUnits : List PowerUnit :=
  ((List.range 80).map fun c => (List.range 4).map (PowerUnit.matrix c)).flatten ++ (List.range 5120).map PowerUnit.homeLanes ++
    (List.range 8).map PowerUnit.portLanes

/-- The units that are due to gate themselves: looked at is one when its time is out, counted from its last work or from the start. -/
def State.dueGates (s : State) : List Due :=
  let cyc := (s.coreAt 0).cyc
  let once := if cyc = 4096 ∨ cyc = 16384 ∨ cyc = 3000000 then allUnits.filter fun u => idleCycles u == cyc else []
  let late := (s.tiles.map fun t => (t.used.filter fun e => e.2 + idleCycles e.1 == cyc).map Prod.fst).flatten
  ((once ++ late).filter s.idleOut).map Due.unitGate

/-- UNIT_GATE (R394). -/
def execUnitGate (u : PowerUnit) (s : State) : Host.Outcome State Fault Refusal :=
  event s fun s =>
    if !s.idleOut u then s else s.modTile (powerTile u) fun t => { t with gated := if t.gated.contains u then t.gated else t.gated ++ [u] }

/-- UNIT_WAKE (R394). -/
def execUnitWake (u : PowerUnit) (s : State) : Host.Outcome State Fault Refusal :=
  event s fun s => s.modTile (powerTile u) fun t => { t with gated := t.gated.filter (· != u) }

/-- VOLTAGE_DROOP (R345). -/
def execVoltageDroop (tile : Nat) (s : State) : Host.Outcome State Fault Refusal :=
  event s fun s => if tile < 20 then s.lifeAdd (2848 + 8 * tile) 1 else s

/-- A count of the lifetime record now: what has been counted, with seconds from their fractions and the powered time (R345). -/
def State.lifeNow (s : State) (off : Nat) : Nat :=
  let n := tget 0 s.life off + tget 0 s.heat off / 100000 + if off = 16 then (s.coreAt 0).cyc / 3000000000 else 0
  min n (2 ^ 64 - 1)

/-- The lifetime record of a sequence number (R345). -/
def State.lifeRecord (s : State) (seq : Nat) : List Byte :=
  let body := leBytes 4 0xC5D111FE ++ leBytes 2 4096 ++ leBytes 2 1 ++ leBytes 8 seq ++
    ((List.range 506).map fun k => leBytes 8 (s.lifeNow (16 + 8 * k))).flatten
  body ++ padTo 32 (Config.sm3 body)

/-- The lifetime record written into the slot that does not hold the newest valid copy (R346). -/
def State.writeLife (s : State) : State :=
  let seq := match newestLife s.flash with | some r => fieldAt r 8 8 + 1 | none => 1
  let slot := if s.flash.head? = newestLife s.flash ∧ s.flash ≠ [] then 1 else 0
  let two := [s.flash.getD 0 [], s.flash.getD 1 []]
  { s with flash := modAt two slot fun _ => s.lifeRecord seq }

/-- LIFETIME_RECORD_WRITE (R346). -/
def execLifetimeRecordWrite (s : State) : Host.Outcome State Fault Refusal := event s State.writeLife

/-- The package without power: fuses and flash stay (R346, R399). -/
def State.dark (s : State) : State :=
  { State.reset with
    power := .off, fuseRoll := s.fuseRoll, devKey := s.devKey, cert := s.cert, image := s.image, flash := s.flash, host := s.host
    cores := s.cores.map fun (k : Core) => { Core.init with harv := k.harv } }

/-- ORDERLY_SHUTDOWN (R346). -/
def execOrderlyShutdown (s : State) : Host.Outcome State Fault Refusal := event s fun s => s.writeLife.dark

/-- POWER_FAILURE (R346). -/
def execPowerFailure (s : State) : Host.Outcome State Fault Refusal := .next s.dark

/-- THERMAL_POWER_OFF (R396). -/
def execThermalPowerOff (s : State) : Host.Outcome State Fault Refusal :=
  event s fun s => if s.hot ≠ 0 ∧ s.hot + 30000000 ≤ (s.coreAt 0).cyc + 1 then s.writeLife.dark else s

/-- The counts of the newest lifetime record (R346). -/
def loadLife (flash : List (List Byte)) : Table Nat :=
  match newestLife flash with
  | none => []
  | some r => (List.range 506).foldl (fun m k => tset 0 m (16 + 8 * k) (fieldAt r (16 + 8 * k) 8)) []

/-- Whether the boot ROM takes an image (R399): its digest, the root key whose digest is fused, its signature, its rollback number. -/
def imageGood (fw : FirmwareImage) (roll : Nat) : Bool :=
  Config.sm3 fw.bytes == fw.digest && Config.sm3 fw.key == Config.rootDigest &&
    Config.sm2Verify fw.key (Config.sm3 fw.bytes) fw.signature && decide (roll ≤ fw.rollback)

/-- The device's keys, derived at the first boot: the private one stays on the die, the certified public one in the flash (R400). -/
def State.withKeys (s : State) : State :=
  if s.cert ≠ [] then s
  else
    let ks := Config.sm2Keys Config.deviceSecret
    { s with devKey := ks.1, cert := Config.certificate ks.2 }

/-- Steps 1 to 4 of bring-up with a firmware image (R399): recovery when the image is refused; a power-on that comes up is counted in the
lifetime record (R345). -/
def State.boot (s : State) (fw : FirmwareImage) : State :=
  let d := s.dark
  if imageGood fw s.fuseRoll then
    let t := State.withKeys
      { d with power := .ready, fuseRoll := fw.rollback, image := some fw, fw := fw.bytes, life := loadLife d.flash }
    if s.uncounted then t.lifeAdd 24 1 else t
  else { d with power := .recovery, uncounted := s.uncounted }

/-- POWER_ON_RESET (R345, R399). -/
def execPowerOnReset (fw : FirmwareImage) (s : State) : Host.Outcome State Fault Refusal :=
  match s.power with
  | .off | .booting => .next ({ s with image := some fw, uncounted := true }.boot fw)
  | _ => .next s

/-- PACKAGE_RESET (R387, R399): the image in the management flash boots again. -/
def execPackageReset (s : State) : Host.Outcome State Fault Refusal :=
  match s.power, s.image with
  | .off, _ => .next s
  | _, some fw => .next (s.boot fw)
  | _, none => .next { s.dark with power := .booting }

/-- RECOVERY_IMAGE_WRITE (R399). -/
def execRecoveryImageWrite (fw : FirmwareImage) (s : State) : Host.Outcome State Fault Refusal :=
  .next (if s.power = .recovery then s.boot fw else s)

/-- VF_FLR (R387, R400). -/
def execVfFlr (vf : Nat) (s : State) : Host.Outcome State Fault Refusal :=
  event s fun s =>
    let mine := (s.contexts.filter fun c => c.vf == vf).map Context.id
    let s := mine.foldl (fun s c => s.closeContext c ⟨0, 0, 0, 0, 0, 0, 0, 0⟩) s
    s.modVf vf fun v => { v with
      fqbase := 0, fqctl := 0x00070000, fqhead := 0, fqtail := 0, fqfull := false, pend := [], irq := 0, tenant := 0, key := [] }

/-- BIND_TENANT_KEY (R400). -/
def execBindTenantKey (vf tenant : Nat) (key : List Byte) (s : State) : Host.Outcome State Fault Refusal :=
  event s fun s => s.modVf vf fun v => { v with tenant := tenant, key := key }

/-- A function's registers of attestation changed: a VF's, or the physical function's. -/
def State.modFn (s : State) (who : Option Nat) (f : Vf → Vf) : State :=
  match who with
  | some v => s.modVf v f
  | none => { s with pfReport := f s.pfReport }

/-- ATTEST_REQUEST (R401). -/
def execAttestRequest (who : Option Nat) (s : State) : Host.Outcome State Fault Refusal :=
  event s fun s => s.modFn who fun x => writeAttest x 32 1

/-- The attestation report of a function (R401). -/
def State.attest (s : State) (who : Option Nat) : List Byte :=
  let x := match who with | some v => s.vfAt v | none => s.pfReport
  let parts := (s.tiles.map fun t => leBytes 4 t.partid.toNat).flatten ++ leBytes 4 (match who with | some v => (s.vfAt v).part | none => 0)
  let body := leBytes 4 0xC5D1A77E ++ leBytes 2 224 ++ leBytes 1 1 ++ leBytes 1 (who.getD 0xFF) ++ padTo 32 x.nonceUsed ++
    padTo 32 (Config.sm3 s.fw) ++ padTo 32 (Config.sm3 parts) ++ (if x.key = [] then List.replicate 32 0 else padTo 32 (Config.sm3 x.key)) ++
    leBytes 8 Config.serial.toNat ++ leBytes 4 s.fuseRoll ++ leBytes 4 (s.pkgid.toNat % 2 ^ 32) ++ leBytes 8 0
  body ++ padTo 64 (Config.sm2Sign s.devKey (Config.sm3 body))

/-- ATTEST_REPORT_READY (R401). -/
def execAttestReportReady (who : Option Nat) (s : State) : Host.Outcome State Fault Refusal :=
  event s fun s =>
    let busy := match who with | some v => (s.vfAt v).attBusy | none => s.pfReport.attBusy
    if busy then s.modFn who fun x => { x with attBusy := false, report := s.attest who } else s

/-- SET_COLUMN_SIZE (R165, R402): in units of 256 MiB for each core; none while a block holds column bytes there. -/
def execSetColumnSize (part units : Nat) (s : State) : Host.Outcome State Fault Refusal :=
  event s fun s =>
    if s.blocks.any fun b => s.partOf (tileOf b.core) == part && b.colSize != 0 then s
    else s.modIso part fun p => { p with column := min units 16 }

/-- SET_LOW_WATER (R178, R402). -/
def execSetLowWater (ctx sectors : Nat) (s : State) : Host.Outcome State Fault Refusal :=
  event s fun s =>
    match s.ctxAt ctx with
    | none => s
    | some c =>
      let n := s.freeSectors c.part ctx
      let s' := s.modCtx ctx fun c => { c with low := sectors }
      if n < sectors ∧ c.low ≤ n then (s'.irq c.vf 4).pfIrq 5 else s'

/-- SET_AGING_PERIOD (R295, R402): from 1 µs to 1 s. -/
def execSetAgingPeriod (micros : Nat) (s : State) : Host.Outcome State Fault Refusal :=
  event s fun s => if 1 ≤ micros ∧ micros ≤ 1000000 then { s with period := micros } else s

end Sys2Proof.Machine
end

