-- ==== Sys2Proof/Machine/Context.lean ====
section
/-! DEFINITION. Commands to partition firmware about contexts: creation, pre-emption, saving and restoring, flattening, migration,
destruction and debugging (R105, R127, R128, R153 to R155, R166, R211, R229, R241, R283, R299, R301, R303, R310, R318 to R320, R327,
R335 to R339, R402). -/

namespace Sys2Proof.Machine

/-- Whether a disclosure policy keeps the fields of R299. -/
def policyOk (p : List Byte) : Bool :=
  let zero := fun o n => (p.drop o).take n |>.all (· == 0)
  p.length == 128 && fieldAt p 0 4 == 0xC5D10D15 && fieldAt p 4 2 == 128 && fieldAt p 6 1 == 1 && decide (fieldAt p 7 1 < 2) &&
  zero 10 2 && zero 36 28 && decide (1024 ≤ fieldAt p 32 4) &&
  fieldAt p 16 8 / 2 ^ 24 % 2 ^ 6 == 0 && decide (fieldAt p 16 8 < 2 ^ 32) && decide (fieldAt p 24 4 < 2 ^ 10) &&
  decide (fieldAt p 28 4 < 2 ^ 8)

/-- The highest policy sequence number accepted for a tenant since reset (R301). -/
def State.polseq (s : State) (tenant : Nat) : Nat := (s.vfs.map fun v => tget 0 v.polseq tenant).foldl max 0

/-- Whether firmware accepts a policy for a VF (R301). -/
def State.policyAccepted (s : State) (vf : Nat) (p : List Byte) : Bool :=
  let v := s.vfAt vf
  policyOk p && fieldAt p 8 2 == v.tenant && decide (s.polseq v.tenant ≤ fieldAt p 12 4) &&
    Config.sm2Verify v.key (Config.sm3 (p.take 64)) (p.drop 64)

/-- CONTEXT_CREATE (R283, R301): refused with nothing changed but the answer to the driver, or the descriptor is written and the context
stands with its policy. -/
def execContextCreate (vf slot : Nat) (desc : Addr) (policy : List Byte) (s : State) : Host.Outcome State Fault Refusal :=
  event s fun s =>
    let t := s.writeCtxdesc vf slot desc
    let no := s.modVf vf fun v => { v with created := some false }
    match descCtx ((t.vfAt vf).ctxdesc.getD slot 0) with
    | none => no
    | some c =>
      if !s.policyAccepted vf policy || (s.ctxAt c).isSome then no
      else
        let ten := fieldAt policy 8 2
        State.modVf { t with contexts := t.contexts ++ [newContext c vf (s.vfAt vf).part (bitsOf desc 40 11 * 2048) policy] } vf fun v =>
          { v with polseq := tset 0 v.polseq ten (fieldAt policy 12 4), created := some true }

/-- PREEMPT (R336). -/
def execPreempt (ctx : Nat) (s : State) : Host.Outcome State Fault Refusal :=
  event s fun s => s.modCtx ctx fun c => if c.run = .running then { c with run := .stopping } else c

/-- Whether a queue can be saved: nothing in it can go on before lines become present (R127). -/
def State.queueStopped (s : State) (m : Mat) : Bool :=
  !(m.queue.any s.canGo) && (m.queue.head?.map MatOp.kind != some .wswap) && !(List.range m.queue.length).any (s.canStart m)

/-- Whether a group is held inside its run at a word that it executes again, with nothing on its way that it waits for (R209, R336). -/
def State.heldInRun (s : State) (g : Group) : Bool :=
  g.status == .issuing && g.again && !(s.reads.any fun r => g.isAt r.core r.part r.slot)

/-- Whether everything that a save waits for has ended (R127, R153, R211, R336). R211 waits for the requests that have begun and does not
say how the wait ends for an outward one at an absent line that no filler will bring: the model saves it half-done (log 15). -/
def State.canSave (s : State) (ctx : Nat) : Bool :=
  let gs := s.groups.filter fun g => g.ctx == ctx
  !(gs.any fun g => g.status == .issuing && !s.heldInRun g) &&
  !(s.cores.any fun k => k.reqs.any fun r => r.ctx == ctx && r.begun && s.canCopy r) &&
  !(s.rowops.any fun o => gs.any fun g => g.isAt o.core o.part o.slot) &&
  !(s.reads.any fun r => r.answer.isNone && gs.any fun g => g.isAt r.core r.part r.slot) &&
  (s.mats.filter fun m => m.ctx == ctx).all s.queueStopped

/-- A group's times counted from a core cycle, or to one again. -/
def Group.shiftTimes (g : Group) (f : Nat → Nat) : Group :=
  { g with
    status := match g.status with
      | .gapped t a => .gapped (f t) a
      | .parked (.nap t) => .parked (.nap (f t))
      | st => st
    timers := g.timers.map fun t => (t.1, if t.2 = 0 then 0 else f t.2) }

/-- Everything that a context's cores have sent has been performed and has come back, the names of its STNs too (R153, R211). -/
def State.quiesce (s : State) (ctx : Nat) : State :=
  let gs := s.groups.filter fun g => g.ctx == ctx
  let bs := (s.blocks.filter fun b => b.ctx == ctx).map Block.id
  let s := gs.foldl State.settleGroup s
  let s := (List.range 80).foldl (fun s c => s.returnNames c fun n => bs.contains n.block) s
  let s := s.awaitAcks ctx
  s.publish ctx

/-- CONTEXT_SAVE (R127, R128, R153, R211, R310, R336): nothing while the context is not stopping or work still runs. -/
def State.save (s : State) (ctx : Nat) : State :=
  let ok := match s.ctxAt ctx with | some c => c.run == .stopping | none => false
  if !ok || !s.canSave ctx then s
  else
    let s := s.quiesce ctx
    let gs := (s.groups.filter fun g => g.ctx == ctx).map fun g => if g.status = .issuing then g.suspend .eligible else g
    let bs := s.blocks.filter fun b => b.ctx == ctx
    let old := match s.images.find? fun m => m.ctx == ctx with | some m => m.units | none => []
    let mine := s.units.filter fun u => u.owner == .ctx ctx
    let img : Image :=
      { ctx := ctx, groups := gs.map fun g => g.shiftTimes fun t => max 1 (t - (s.coreAt g.core).cyc), blocks := bs,
        clusters := s.clusters.filter fun k => bs.any fun b => b.cluster == k.id, mats := s.mats.filter fun m => m.ctx == ctx,
        reqs := (s.cores.mapIdx fun n (k : Core) => (k.reqs.filter fun r => r.ctx == ctx).map fun r =>
          (n, { r with started := r.begun })).flatten
        sent := (s.cores.mapIdx fun n (k : Core) => (k.sent.filter fun r => r.ctx == ctx).map fun r => (n, r)).flatten
        px := (s.cores.mapIdx fun n (k : Core) => (k.px.filter fun a => a.ctx == ctx).map fun a => (n, a)).flatten
        units := old.filter (fun u => !mine.any fun v => v.ref == u.ref) ++
          mine.map fun (u : CUnit) => { u with from_ := s.unitCycle u.ref - u.from_ } }
    let s := mine.foldl State.freeUnit s
    let core := fun (k : Core) => { k with
      reqs := k.reqs.filter (fun r => r.ctx != ctx), sent := k.sent.filter (fun r => r.ctx != ctx), px := k.px.filter (fun a => a.ctx != ctx),
      lpr := k.lpr.filter fun e => e.2.ctx != ctx }
    let s := { s with
      groups := s.groups.filter (fun g => g.ctx != ctx), blocks := s.blocks.filter (fun b => b.ctx != ctx),
      clusters := s.clusters.filter (fun k => !(img.clusters.any fun c => c.id == k.id)), mats := s.mats.filter (fun (m : Mat) => m.ctx != ctx),
      cores := s.cores.map core, images := s.images.filter (fun (m : Image) => m.ctx != ctx) ++ [img] }
    s.modCtx ctx fun c => { c with run := .saved }

/-- CONTEXT_SAVE (R336). -/
def execContextSave (ctx : Nat) (s : State) : Host.Outcome State Fault Refusal := event s fun s => s.save ctx

/-- Whether any register of an image holds a proxy, or a trap frame keeps one (R139, R154). -/
def Image.proxied (m : Image) : Bool :=
  m.groups.any fun g => g.regs.any (fun r => match r with | .px _ _ => true | .val _ => false) ||
    match g.trap with | some t => !t.held.isEmpty | none => false

/-- Whether a group stands where it cannot be re-formed: mid-run with written temporaries (R40, R241). -/
def Group.pinned (g : Group) : Bool := g.threads.any fun t => t.live && t.tail && t.xmark != 0

/-- Whether an image's grants are held fixed (R128, R241). -/
def Image.fixed (m : Image) : Bool :=
  m.proxied || m.blocks.any (fun b => b.roles.any Role.locked) ||
  m.groups.any (fun g => g.status == .parked .gang) || m.mats.any (fun x => !x.latch.isEmpty) || m.groups.any Group.pinned

/-- A role of a saved block as it comes back on a core: its grant and the places of its groups. -/
structure RolePlan where
  block : Nat
  role : Nat
  grant : Nat
  places : List (Nat × Nat)

/-- The use of a core's partitions with some places taken at a charge each; none where they are not free. -/
def takePlaces (charge : Nat) : List (Nat × Nat) → List PartUse → Option (List PartUse)
  | [], us => some us
  | (p, k) :: ps, us =>
    match us[p]? with
    | none => none
    | some u =>
      if u.slots.contains k ∨ 262144 < u.bytes + charge then none
      else takePlaces charge ps (modAt us p fun u => { slots := k :: u.slots, bytes := u.bytes + charge, own := u.own + 1 })

/-- A role of a saved block: the block, its number, and its places with their charge, as they were or as they will be. -/
structure RoleAt where
  block : Block
  role : Nat
  charge : Nat
  places : List (Nat × Nat)

/-- A saved role where it was. -/
def Image.roleAt (m : Image) (b : Block) (n : Nat) : RoleAt :=
  let c := match b.roles[n]? with | some r => r.grant * r.allot * 4 | none => 0
  ⟨b, n, c, (m.groups.filter fun g => g.block == b.id && g.role == n).map fun g => (g.part, g.slot)⟩

/-- The use of a core's partitions with some roles in place; those of a block count among its groups (R238). -/
def withRoles (b : Nat) (us : List PartUse) (rs : List RoleAt) : List PartUse :=
  let us := us.map fun (u : PartUse) => { u with own := 0 }
  let put := fun (us : List PartUse) (r : RoleAt) => (takePlaces r.charge r.places us).getD us
  let other := (rs.filter fun r => r.block.id != b).foldl put us
  (rs.filter fun r => r.block.id == b).foldl put (other.map fun (u : PartUse) => { u with own := 0 })

/-- The grant of a role recomputed beside others, with its places (R237, R241). -/
def RoleAt.regrant (x : RoleAt) (maxg : Nat) (us : List PartUse) (others : List RoleAt) : Option (Nat × List (Nat × Nat)) :=
  match x.block.roles[x.role]? with
  | some r => (grantRole maxg r (r.request.getD r.prefW) (withRoles x.block.id us others)).map fun q => (q.1, q.2.1)
  | none => none

/-- The grant that a saved role had. -/
def RoleAt.grant (x : RoleAt) : Nat := match x.block.roles[x.role]? with | some r => r.grant | none => 0

/-- Whether a saved role keeps its groups: its grants are held fixed, it has none, or its grant recomputed beside the other roles where
they were is what it had (R241). -/
def Image.keeps (m : Image) (maxg : Nat) (us : List PartUse) (rs : List RoleAt) (x : RoleAt) : Bool :=
  m.fixed || x.places.isEmpty ||
    ((x.regrant maxg us (rs.filter fun y => !(y.block.id == x.block.id && y.role == x.role))).any fun q => q.1 == x.grant)

/-- The plans of the roles that do not keep their groups, in role order, beside those that are in place (R237, R238, R241). -/
def planRoles (maxg : Nat) (us : List PartUse) : List RoleAt → List RoleAt → Option (List RolePlan)
  | [], _ => some []
  | x :: rest, done =>
    match x.regrant maxg us done with
    | none => none
    | some (g, places) =>
      match x.block.roles[x.role]? with
      | none => none
      | some r =>
        if g = r.grant then
          match takePlaces x.charge x.places (withRoles x.block.id us done) with
          | none => none
          | some _ => (planRoles maxg us rest (done ++ [x])).map fun ps => ⟨x.block.id, x.role, g, x.places⟩ :: ps
        else
          (planRoles maxg us rest (done ++ [⟨x.block, x.role, g * r.allot * 4, places⟩])).map fun ps => ⟨x.block.id, x.role, g, places⟩ :: ps

/-- The use of a core's partitions with some places taken, none where they are not all free. -/
def takeAll : List RoleAt → List PartUse → Option (List PartUse)
  | [], us => some us
  | x :: xs, us => (takePlaces x.charge x.places us).bind (takeAll xs)

/-- The cores that an image's blocks were on. -/
def Image.cores (m : Image) : List Nat := dedup (m.blocks.map Block.core ++ m.mats.map Mat.core)

/-- The use of a core's partitions before a context returns, with the spare that its blocks bring (R243). -/
def useFor (us : List PartUse) (bs : List Block) : List PartUse :=
  us.mapIdx fun p u => { u with bytes := u.bytes + 4 * (bs.map fun b => b.spare.getD p 0).sum }

/-- The plan of an old core's blocks on some use of a core: roles that keep their groups stay where they were, and the others are placed
beside them (R238, R241). -/
def Image.planCore (m : Image) (maxg old : Nat) (us : List PartUse) : Option (List RolePlan) :=
  let bs := m.blocks.filter fun b => b.core == old
  let us := useFor us bs
  let rs := (bs.map fun b => (List.range b.roles.length).map fun n => m.roleAt b n).flatten
  let keep := rs.filter (m.keeps maxg us rs)
  if (takeAll keep us).isNone ∨ keep.any fun x => decide (maxg < x.grant) && !x.places.isEmpty then none
  else (planRoles maxg us (rs.filter fun x => !m.keeps maxg us rs x) keep).map fun ps =>
    (keep.map fun x => ⟨x.block.id, x.role, x.grant, x.places⟩) ++ ps

/-- Scratchpad bases for blocks one after the other beside what is used. -/
def scrBases (used : List (Nat × Nat)) : List Block → Option (List (Nat × Nat))
  | [] => some []
  | b :: bs =>
    match freeRange used 0x100000 b.scrSize with
    | none => none
    | some o => (scrBases ((o, b.scrSize) :: used) bs).map fun xs => (b.id, o) :: xs

/-- How an old core's blocks come back on a new core, when they can now (R147, R154, R166, R241, R273). -/
def State.planOn (s : State) (m : Image) (old new : Nat) : Option (List RolePlan × List (Nat × Nat)) :=
  let bs := m.blocks.filter fun b => b.core == old
  let res := s.blocks.filter fun b => b.core == new
  let held := s.slots.any fun k => k.ctx == m.ctx && k.core == old
  let col := bs.any fun b => b.colSize != 0
  let clash := bs.any fun b => res.any fun r => b.colSize != 0 && r.colSize != 0 && meets b.colBase b.colSize r.colBase r.colSize
  if (held ∧ tileOf old ≠ tileOf new) ∨ (col ∧ old ≠ new) ∨ clash ∨ 16 < res.length + bs.length ∨
      4096 < s.residentThreads new + (bs.map Block.threads).sum ∨ 128 < s.quotas (dedup (m.ctx :: s.admitted new)) then none
  else
    match m.planCore (s.coreAt new).maxG old ((List.range 4).map (s.partUse new s.nextId fun _ => false)),
        scrBases (res.map fun b => (b.scrBase, b.scrSize)) bs with
    | some ps, some scr => some (ps, scr)
    | _, _ => none

/-- A core for each old core of one tile, taken from one tile of the partition: the old core first, then the lowest. -/
def State.planTile (s : State) (m : Image) (tile : Nat) :
    List Nat → List Nat → Option (List (Nat × Nat × List RolePlan × List (Nat × Nat)))
  | [], _ => some []
  | old :: rest, used =>
    let cand := ((if tileOf old = tile then [old] else []) ++ (List.range 4).map fun k => 4 * tile + k).filter fun c => !used.contains c
    match cand.findSome? fun c => (s.planOn m old c).map fun p => (old, c, p.1, p.2) with
    | none => none
    | some x => (s.planTile m tile rest (x.2.1 :: used)).map fun xs => x :: xs

/-- A plan for the blocks of all old cores: those of a tile together on one tile (R154, R336). -/
def State.planAll (s : State) (m : Image) (part : Nat) :
    List Nat → List Nat → Option (List (Nat × Nat × List RolePlan × List (Nat × Nat)))
  | [], _ => some []
  | t :: ts, used =>
    let olds := m.cores.filter fun c => tileOf c == t
    let tiles := (if s.partOf t = part then [t] else []) ++ s.tilesOf part
    match tiles.findSome? fun n => s.planTile m n olds used with
    | none => none
    | some xs => (s.planAll m part ts (xs.map (fun x => x.2.1) ++ used)).map fun ys => xs ++ ys

/-- The package with no context but a saved one. -/
def State.emptied (s : State) (ctx : Nat) : State :=
  { s with groups := [], blocks := [], slots := s.slots.filter fun k => k.ctx == ctx }

/-- Why no core of a partition could hold a saved context, even with nothing else resident (R337); a context for which no tile has enough
cores of the size that it needs has reason 4. -/
def State.ctxcap (s : State) (m : Image) (part : Nat) : Option Nat :=
  let cs := s.coresOf part
  let maxg := (cs.map fun c => (s.coreAt c).maxG).foldl max 0
  let big := (m.groups.map Group.grant).foldl max 0
  let homes := dedup (((s.slots.filter fun k => k.ctx == m.ctx).map fun k => k.home / 256))
  if m.fixed ∧ maxg < big then some 1
  else if m.cores.any fun c => (m.planCore (if m.fixed then 64 else maxg) c emptyUse).isNone then some 2
  else if m.blocks.any fun b => b.roles.any fun r => decide (r.allot < (b.depth + 7) / 8 * 8 + 8) then some 3
  else if homes.any fun t => s.partOf t != part then some 5
  else if m.blocks.any fun b => b.colSize != 0 && s.partOf (tileOf b.core) != part then some 6
  else if 128 < s.quotas [m.ctx] then some 7
  else if m.blocks.any fun b => decide (1 < b.irev) then some 8
  else if (s.emptied m.ctx |>.planAll m part (dedup (m.cores.map tileOf)) []).isNone then some 4
  else none

/-- The new core of an old one. -/
def newCore (plan : List (Nat × Nat × List RolePlan × List (Nat × Nat))) (old : Nat) : Nat :=
  match plan.find? fun x => x.1 == old with
  | some x => x.2.1
  | none => old

/-- The groups of one role as they come back (R239, R241). -/
def restoreRole (m : Image) (new : Nat) (cyc : Nat) (p : RolePlan) (anyNew : Bool) : List Group :=
  let gs := m.groups.filter fun g => g.block == p.block && g.role == p.role
  match gs.head? with
  | none => []
  | some g0 =>
    let gs := if g0.grant = p.grant then gs.map fun (g : Group) => { g with core := new }
      else ((p.places.mapIdx fun k q => reformed gs new p.grant k q.1 q.2 true).filterMap id).filter fun g => g.liveMask != 0
    gs.map fun g => { g.shiftTimes fun t => cyc + t with gang := if anyNew then 0 else g.gang }

/-- A saved unit returns to its number on the target core or tile (R310): what stays frozen in the image, and the state. -/
def State.returnUnit (s : State) (u : CUnit) (ref : UnitRef) : Option CUnit × State :=
  let v := s.unitAt ref
  match v.owner with
  | .free => (none, s.renew { u with ref := ref, from_ := s.unitCycle ref - u.from_, pend := none, pfrec := v.pfrec, pfctl := v.pfctl, lost := v.lost, froze := v.froze })
  | .pf =>
    (none, s.renew { u with
      ref := ref, from_ := s.unitCycle ref - u.from_, pend := none, pfrec := v.pfrec, pfctl := v.pfctl, lost := true,
      froze := (List.range 8).map (s.operatorCount v) })
  | .ctx _ => (some { u with ref := ref }, s)

/-- The proxy accounts that come back on a core, as one; PXPOL is the context's on every core (R131, R141, R153, R154). -/
def Image.account (m : Image) (dest : Nat → Nat) (n : Nat) : List PxAcct :=
  let as := (m.px.filter fun q => dest q.1 == n).map Prod.snd
  let pol : BitVec 1 := if m.px.any fun q => q.2.pol == 1 then 1 else 0
  let used := (as.map PxAcct.used).flatten.foldl (fun (t : Table Nat) e => tset 0 t e.1 (tget 0 t e.1 + e.2)) []
  if pol = 0 ∧ as = [] then [] else [{ ctx := m.ctx, handles := (as.map PxAcct.handles).flatten, used := used, pol := pol }]

/-- A context restored by a plan (R154, R162, R211, R310, R327, R336). -/
def State.putBack (s : State) (m : Image) (part : Nat) (plan : List (Nat × Nat × List RolePlan × List (Nat × Nat))) : State :=
  let dest := newCore plan
  let anyNew := plan.any fun x => x.2.2.1.any fun p => (m.blocks.any fun b => b.id == p.block &&
    match b.roles[p.role]? with | some r => r.grant != p.grant | none => false)
  let moved := fun (r : FRec) => m.groups.any fun g => g.isAt r.core r.part r.slot && g.block == r.block &&
    plan.any fun x => x.2.2.1.any fun p => p.block == g.block && p.role == g.role && p.grant != g.grant
  let gs := (plan.map fun x => (x.2.2.1.map fun p => restoreRole m x.2.1 (s.coreAt x.2.1).cyc p anyNew).flatten).flatten
  let bs := m.blocks.map fun (b : Block) =>
    let x := plan.find? fun x => x.1 == b.core
    let base := match x with | some x => ((x.2.2.2.find? fun q => q.1 == b.id).map Prod.snd).getD b.scrBase | none => b.scrBase
    let grant := fun n (r : Role) => match x with
      | some x => (match x.2.2.1.find? fun p => p.block == b.id && p.role == n with | some p => { r with grant := p.grant } | none => r)
      | none => r
    { b with core := dest b.core, scrBase := base, roles := b.roles.mapIdx grant }
  let core := fun (n : Nat) (k : Core) =>
    { k with
      reqs := k.reqs ++ ((m.reqs.filter fun q => dest q.1 == n).map Prod.snd)
      sent := k.sent ++ ((m.sent.filter fun q => dest q.1 == n).map Prod.snd)
      px := k.px.filter (fun a => a.ctx != m.ctx) ++ m.account dest n
      lpr := k.lpr.filter fun e => e.2.ctx != m.ctx }
  let s := (plan.map fun x => x.2.1).foldl (fun s c => (s.cleanL1 c fun _ => true).dropL1 c fun _ => true) s
  let s := { s with
    groups := s.groups ++ gs, blocks := s.blocks ++ bs, clusters := s.clusters ++ m.clusters,
    mats := s.mats ++ m.mats.map (fun (x : Mat) => { x with core := dest x.core, waiting := if anyNew then [] else x.waiting }), cores := s.cores.mapIdx core,
    slots := s.slots.map fun (k : Slot) => if k.ctx = m.ctx then { k with core := dest k.core } else k
    recs := s.recs.map fun (r : FRec) =>
      if r.ctx = m.ctx then { r with core := dest r.core, stale := r.stale || (decide (r.kind ≤ 4) && moved r) } else r }
  let (frozen, s) := m.units.foldl (fun (acc : List CUnit × State) u =>
    let ref : UnitRef := { u.ref with idx := if u.ref.tile then tileOf (dest (((m.cores.find? fun c => tileOf c == u.ref.idx)).getD (4 * u.ref.idx))) else dest u.ref.idx }
    let (f, s) := acc.2.returnUnit u ref
    (acc.1 ++ f.toList, s)) ([], s)
  let left : List Image := if frozen = [] then []
    else [{ ctx := m.ctx, groups := [], blocks := [], clusters := [], mats := [], reqs := [], sent := [], px := [], units := frozen }]
  let s := { s with images := s.images.filter (fun (x : Image) => x.ctx != m.ctx) ++ left }
  let fresh := gs.filter fun g => m.groups.all fun x => !(x.block == g.block && x.role == g.role && x.grant == g.grant)
  let s := fresh.foldl (fun s g => s.count (s.groupLoc g) 1 4 1) s
  (s.modCtx m.ctx fun c => { c with run := .running, part := part, answer := 0 }).refresh

/-- A restore command tried (R337): CTXCAP changes nothing but its status. -/
def State.tryRestore (s : State) (ctx part : Nat) : State :=
  match s.images.find? fun m => m.ctx == ctx with
  | none => s
  | some m =>
    match s.ctxcap m part with
    | some n => s.modCtx ctx fun c => { c with answer := 256 + n, run := .saved }
    | none =>
      match s.planAll m part (dedup (m.cores.map tileOf)) [] with
      | some plan => s.putBack m part plan
      | none => s.modCtx ctx fun c => { c with answer := 1, run := .restoring, part := part }

/-- RESTORE (R337). -/
def execRestore (ctx part : Nat) (s : State) : Host.Outcome State Fault Refusal :=
  event s fun s =>
    match s.ctxAt ctx with
    | some c => if c.run = .saved then s.tryRestore ctx part else s
    | none => s

/-- RESTORE_COMPLETE (R337): a waiting restore is tried again. -/
def execRestoreComplete (ctx : Nat) (s : State) : Host.Outcome State Fault Refusal :=
  event s fun s =>
    match s.ctxAt ctx with
    | some c => if c.run = .restoring then s.tryRestore ctx c.part else s
    | none => s

/-- A saved group with its proxies brought out as values (R155): the group, and how many registers were brought out. -/
def State.flattenGroup (s : State) (g : Group) : Group × Nat :=
  let px := (List.range g.regs.length).filter fun n => match g.regs[n]? with | some (.px _ _) => true | _ => false
  let slot := fun (n : Nat) => match g.regs[n]? with | some (.px h k) => s.slotAt h g.core g.ctx k | _ => none
  let bad := (px.map fun n => match slot n with
    | some t => (lanesOf t.poison g.grant).map fun l => (n, l)
    | none => []).flatten
  ({ g with
    regs := g.regs.mapIdx fun n r =>
      match r with
      | .val _ => r
      | .px _ _ => .val ((List.range g.grant).map fun l => match slot n with | some t => t.lanes.getD l 0 | none => 0)
    rpoison := g.rpoison ++ bad
    trap := g.trap.map fun t => { t with held := [] } }, px.length)

/-- FLATTEN_CONTEXT (R155). -/
def execFlattenContext (ctx : Nat) (s : State) : Host.Outcome State Fault Refusal :=
  event s fun s =>
    match if (s.ctxAt ctx).any fun c => c.run == .saved then s.images.find? fun m => m.ctx == ctx else none with
    | none => s
    | some m =>
      let out := m.groups.map s.flattenGroup
      let s := (m.groups.zip out).foldl (fun s x => s.count (s.groupLoc x.1) 4 6 x.2.2) s
      let img := { m with groups := out.map Prod.fst, px := m.px.map fun q => (q.1, { q.2 with handles := [], used := [] }) }
      { s with images := s.images.map (fun (x : Image) => if x.ctx = ctx then img else x), slots := s.slots.filter fun k => k.ctx != ctx }

/-- The safe-point table of a block's kernel (R338, R364). -/
def State.safeTable (s : State) (b : Block) : List Byte :=
  match s.launchAt b.launch, s.ctxAt b.ctx with
  | some l, some c =>
    let o := fieldAt l.header 32 8
    match c.objs.find? fun x => x.base == b.base with
    | some x => if o = 0 then [] else x.safept.drop o
    | none => []
  | _, _ => []

/-- The offset that a table gives for a run start; NONE stays (R338, R364). -/
def mapOff (t : List Byte) (off : Word) : Option Word :=
  if off = noMeet then some off
  else ((List.range (fieldAt t 0 4)).find? fun e => fieldAt t (48 + 8 * e) 4 == off.toNat).map
    fun e => BitVec.ofNat 32 (fieldAt t (52 + 8 * e) 4)

/-- A thread with its PC, MEET value and meeting stack mapped (R338). -/
def mapThread (t : List Byte) (th : Thread) : Option Thread :=
  if !th.live then some th
  else
    match mapOff t th.pc, mapOff t th.meet, th.stack.mapM (mapOff t) with
    | some a, some b, some st => some { th with pc := a, meet := b, stack := st }
    | _, _, _ => none

/-- Whether a saved group stands at run starts only (R338). -/
def Group.atStarts (g : Group) : Bool :=
  !g.cont && g.trap.isNone && g.threads.all (fun t => !t.live || !t.tail) &&
    g.regs.all fun r => match r with | .px _ _ => false | .val _ => true

/-- LIVE_MIGRATE (R338): the mapped image is handed over and the context no longer runs here; nothing changes when it is not
eligible. -/
def execLiveMigrate (ctx : Nat) (target : List Byte) (rev : Nat) (s : State) : Host.Outcome State Fault Refusal :=
  event s fun s =>
    match s.images.find? fun m => m.ctx == ctx, s.ctxAt ctx with
    | some m, some c =>
      let tbl := fun (g : Group) => match m.blocks.find? fun b => b.id == g.block with | some b => s.safeTable b | none => []
      let ok := fun (t : List Byte) => decide (0 < fieldAt t 0 4) && fieldAt t 4 1 == rev && (t.drop 16).take 32 == target
      let gs := m.groups.mapM fun g =>
        if ok (tbl g) && g.atStarts then (g.threads.mapM (mapThread (tbl g))).map fun ts =>
          { g with threads := ts, timers := g.timers.map fun (t : Word × Nat) => ((mapOff (tbl g) t.1).getD t.1, t.2) } else none
      match gs with
      | some gs =>
        if c.run ≠ .saved then s
        else
          { s with images := s.images.map fun (x : Image) => if x.ctx = ctx then { x with groups := gs } else x }.modCtx ctx
            fun c => { c with run := .ended }
      | none => s
    | _, _ => s

/-- Whether a context may be drain-migrated: it has a block here or a launch whose header has been read, and each sets FLAGS[1] (R339). -/
def State.mayDrain (s : State) (ctx : Nat) : Bool :=
  let flags := ((s.blocks.filter fun b => b.ctx == ctx).map Block.drain) ++
    (s.launches.filter fun l => l.ctx == ctx && l.state == .ready).map fun l => fieldAt l.header 8 4 / 2 % 2 == 1
  !flags.isEmpty && flags.all id

/-- DRAIN_MIGRATE (R339): the blocks that run here run on, and what is not placed passes to the target: launches not yet begun, and the
next-block counters of those that are. -/
def execDrainMigrate (ctx : Nat) (s : State) : Host.Outcome State Fault Refusal :=
  event s fun s =>
    if !s.mayDrain ctx then s
    else
      let s := { s with
        passed := s.passed ++ (s.launches.filter fun (l : Launch) => l.ctx == ctx && decide (l.next < l.total))
        launches := (s.launches.filter fun (l : Launch) => l.ctx != ctx || l.next != 0 || l.total == 0).map fun (l : Launch) =>
          if l.ctx = ctx then { l with total := l.next } else l }
      (s.modCtx ctx fun c => { c with drained := true }).reportDrain ctx

/-- CONTEXT_DESTROY (R303, R335). -/
def execContextDestroy (ctx : Nat) (s : State) : Host.Outcome State Fault Refusal :=
  event s fun s => match s.ctxAt ctx with | some x => s.destroy x | none => s

/-- DEBUG_ATTACH (R318). -/
def execDebugAttach (ctx : Nat) (byPf : Bool) (s : State) : Host.Outcome State Fault Refusal :=
  event s fun s => s.modCtx ctx fun c => if byPf && fieldAt c.policy 7 1 % 2 == 0 then c else { c with dbg := some byPf }

/-- DEBUG_STOP (R318). -/
def execDebugStop (ctx : Nat) (s : State) : Host.Outcome State Fault Refusal :=
  event s fun s => s.modCtx ctx fun c => if c.dbg.isSome then { c with debugStop := true } else c

/-- DEBUG_RESUME (R318, R319): a stopped group, or the context's launches. -/
def execDebugResume (ctx : Nat) (g : Option GroupRef) (s : State) : Host.Outcome State Fault Refusal :=
  event s fun s =>
    if !s.debugged ctx then s
    else
      match g with
      | some r => s.modGroup r.core r.part r.slot fun g => if g.ctx = ctx then { g with stopped := false } else g
      | none => s.modCtx ctx fun c => { c with debugStop := false }

/-- DEBUG_STEP_SET (R318). -/
def execDebugStepSet (g : GroupRef) (on : Bool) (s : State) : Host.Outcome State Fault Refusal :=
  event s fun s => s.modGroup g.core g.part g.slot fun x => if s.debugged x.ctx then { x with stepBit := on } else x

/-- What a debugger writes of a stopped group (R318); a register that holds a proxy has no lanes here to write. -/
def Group.debugWrite (g : Group) : DumpOp → Group
  | .read => g
  | .writeReg r l v => { g with regs := modAt g.regs r fun x => match x with | .val vs => .val (modAt vs l fun _ => v) | .px h k => .px h k }
  | .writeSreg r v => { g with sregs := modAt g.sregs r fun _ => v }
  | .writePred p l b => { g with preds := modAt g.preds p fun m => (m &&& ~~~BitVec.ofNat 64 (2 ^ l)) ||| (if b then BitVec.ofNat 64 (2 ^ l) else 0) }
  | .writeTemp x l v => { g with threads := modAt g.threads l fun t => { t with x := modAt t.x x fun _ => v, xmark := t.xmark ||| BitVec.ofNat 8 (2 ^ x) } }
  | .writeMeet l v => { g with threads := modAt g.threads l fun t => { t with meet := v } }
  | .writeStack l vs => { g with threads := modAt g.threads l fun t => { t with stack := vs } }
  | .writeTimeout l v => { g with threads := modAt g.threads l fun t => { t with tmo := v } }

/-- What a dump of a stopped group answers: the record that names its tile task, the group, and its block's scratchpad (R314, R318). -/
def State.dumpOf (s : State) (g : Group) : Dump :=
  let r : TraceRec := { tstamp := (s.coreAt g.core).cyc, cmdseq := (s.groupLoc g).seq, taskq := s.taskqOf g.block, engine := 4 * (g.core % 4) + g.part, kind := 7,
                        tag := 0, pc := g.here.toNat, val := 0, ctx := g.ctx, core := g.core, slot := g.gslot }
  ⟨r.bytes, g, match s.blockAt g.block with | some b => b.scratch | none => []⟩

/-- DEBUG_DUMP (R318): what a stopped group and its block's scratchpad hold is answered, or an element is written. -/
def execDebugDump (g : GroupRef) (op : DumpOp) (s : State) : Host.Outcome State Fault Refusal :=
  event s fun s =>
    match s.groupAt g.core g.part g.slot with
    | none => s
    | some x =>
      if !(s.debugged x.ctx && x.stopped) then s
      else
        match op with
        | .read => s.modCtx x.ctx fun c => { c with dump := some (s.dumpOf x) }
        | _ => s.modGroup g.core g.part g.slot fun x => x.debugWrite op

end Sys2Proof.Machine
end

