-- ==== Sys2Proof/Machine/Loader.lean ====
section
/-! DEFINITION. Loading and unloading code objects (R142, R229, R359 to R369). -/

namespace Sys2Proof.Machine

/-- What a recognised section must carry: type, flags, alignment (R360); alignment 0 stands for any. -/
def sectionRule : String → Option (Nat × Nat × Nat)
  | ".text" => some (1, 6, 64)
  | ".sirzin.kern" => some (1, 2, 128)
  | ".sirzin.safept" => some (1, 2, 16)
  | ".data" => some (1, 3, 64)
  | ".bss" => some (8, 3, 64)
  | ".rela.text" => some (4, 0, 8)
  | ".rela.data" => some (4, 0, 8)
  | ".note.sirzin" => some (7, 0, 4)
  | ".symtab" => some (2, 0, 0)
  | ".strtab" => some (3, 0, 0)
  | ".shstrtab" => some (3, 0, 0)
  | _ => none

/-- Whether a section is one that a loader may take or pass over (R360, R361). -/
def sectionOk (x : ObjSection) : Bool :=
  match sectionRule x.name with
  | some (t, f, a) => x.type == t && x.flags == f && (a == 0 || x.align == a)
  | none => !(".sirzin.".isPrefixOf x.name) && !(".rela.sirzin.".isPrefixOf x.name) && x.flags / 2 % 2 == 0

/-- The bytes of a section of an object. -/
def objBytes (o : CodeObject) (n : String) : List Byte :=
  match o.sections.find? fun x => x.name == n with
  | some x => x.bytes
  | none => []

/-- Whether an object has a section. -/
def objHas (o : CodeObject) (n : String) : Bool := o.sections.any fun x => x.name == n

/-- The size of an object's .bss. -/
def objBss (o : CodeObject) : Nat := match o.sections.find? fun x => x.name == ".bss" with | some x => x.size | none => 0

/-- The kernel headers of an object (R360). -/
def objHeaders (o : CodeObject) : List (List Byte) :=
  let k := objBytes o ".sirzin.kern"
  (List.range (k.length / 128)).map fun n => (k.drop (128 * n)).take 128

/-- R359. -/
def objElfOk (o : CodeObject) : Bool :=
  o.eiClass == 2 && o.eiData == 1 && o.eiOsabi == 0 && o.eType == 1 && o.eMachine == 0xC5D8 && o.eEntry == 0 &&
    decide (o.eFlags < 256) && decide (o.eFlags % 16 < 2)

/-- R360 and R361. -/
def objSectionsOk (o : CodeObject) : Bool :=
  let t := (objBytes o ".text").length
  let k := (objBytes o ".sirzin.kern").length
  o.sections.all sectionOk && t % 4 == 0 && decide (t ≤ 2 ^ 32 - 2 ^ 28) && k % 128 == 0 && decide (k ≤ 4096 * 128) &&
    o.symbols.all fun y => !(y.type == 1 && y.section_ == ".sirzin.kern") || (y.value % 128 == 0 && decide (y.value < k))

/-- The word of .text at an offset. -/
def textWord (t : List Byte) (o : Nat) : Word := BitVec.ofNat 32 (fieldAt t o 4)

/-- Whether an offset of .text is a run start of a kernel with some declared entries (R39, R42). -/
def textStart (t : List Byte) (entries : List Nat) (off : Nat) : Bool :=
  let before := textWord t (off - 4)
  entries.contains off ||
    (off % 4 == 0 && off != 0 && decide (off + 4 ≤ t.length) && (isEnd before || isList before) && !isList (textWord t off))

/-- The role entries that a header declares (R245). -/
def roleEntries (h : List Byte) : List Nat := (headerRoles h).map fun r => r.entry.toNat

/-- The handler entry that a header declares (R245, R329). -/
def trapEntries (h : List Byte) : List Nat := if fieldAt h 8 4 % 2 = 1 then [fieldAt h 28 4] else []

/-- Each header, with its entries inside .text and its handler at a run start (R329, R365). -/
def objKernelsOk (o : CodeObject) : Bool :=
  let t := objBytes o ".text"
  (objHeaders o).all fun h => headerOk h && (roleEntries h).all (fun e => decide (e < t.length)) &&
    (trapEntries h).all fun e => decide (e < t.length) && textStart t (roleEntries h) e

/-- The revisions of an object's headers agree with its e_flags (R365). -/
def objRevsOk (o : CodeObject) : Bool :=
  (objHeaders o).all (fun h => fieldAt h 6 1 == o.eFlags % 16) &&
    ((objHeaders o).isEmpty || ((objHeaders o).map fun h => fieldAt h 7 1).foldl min 255 == o.eFlags / 16 % 16)

/-- The bytes of the note name "Sirzin" with its NUL. -/
def sirzin : List Byte := [0x53, 0x69, 0x72, 0x7A, 0x69, 0x6E, 0x00]

/-- The notes that a section's bytes hold: none where the bytes end within a note (R363). -/
def readNotes : Nat → List Byte → Option (List ObjNote)
  | _, [] => some []
  | 0, _ :: _ => none
  | n + 1, b :: bs =>
    let t := b :: bs
    let name := 12 + (fieldAt t 0 4 + 3) / 4 * 4
    let size := name + (fieldAt t 4 4 + 3) / 4 * 4
    if t.length < 12 ∨ t.length < size then none
    else (readNotes n (t.drop size)).map fun r => ⟨(t.drop 12).take (fieldAt t 0 4), fieldAt t 8 4, (t.drop name).take (fieldAt t 4 4)⟩ :: r

/-- R363. -/
def noteOk (n : ObjNote) : Bool :=
  if n.name = sirzin ∧ n.type = 0x00000001 then true
  else if n.name = sirzin ∧ n.type = 0x80000002 then
    n.desc.length == 4 && fieldAt n.desc 0 2 == 8 && decide (fieldAt n.desc 2 2 ≤ Config.stepping.toNat)
  else decide (n.type < 2 ^ 31)

/-- Whether the notes of an object keep R363. -/
def objNotesOk (o : CodeObject) : Bool :=
  let b := objBytes o ".note.sirzin"
  match readNotes b.length b with
  | some ns => ns.all noteOk
  | none => false

/-- Whether a word is an XI, and whether one is a MOVI.x2. -/
def isXiPair (a b : Word) : Option (BitVec 7) :=
  match decode a.toNat, decode b.toNat with
  | .ok (.xi _), .ok (.moviX2 d _) => some d
  | _, _ => none

/-- The value of a relocation when .data lies at an address (R362). -/
def relocValue (r : ObjReloc) (data bss : Nat) : Int :=
  ((if r.symbol.section_ = ".data" then data else bss) + r.symbol.value : Nat) + r.addend

/-- Whether a relocation keeps R362. -/
def objRelocOk (o : CodeObject) (data bss : Nat) (r : ObjReloc) : Bool :=
  let b := objBytes o r.section_
  let v := relocValue r data bss
  (r.section_ == ".text" || r.section_ == ".data") && (r.symbol.section_ == ".data" || r.symbol.section_ == ".bss") &&
    match r.type with
    | 0 => decide (r.offset < b.length)
    | 1 => r.offset % 4 == 0 && decide (r.offset + 8 ≤ b.length) && (isXiPair (textWord b r.offset) (textWord b (r.offset + 4))).isSome &&
        decide (-2 ^ 36 ≤ v) && decide (v < 2 ^ 36)
    | 2 => decide (r.offset + 8 ≤ b.length)
    | _ => false

/-- A section's bytes with its relocations applied (R362). -/
def objPatched (o : CodeObject) (name : String) (data bss : Nat) : List Byte :=
  (o.relocs.filter fun r => r.section_ == name).foldl (fun b r =>
    let v : BitVec 64 := BitVec.ofInt 64 (relocValue r data bss)
    match r.type with
    | 1 =>
      match isXiPair (textWord b r.offset) (textWord b (r.offset + 4)) with
      | some d => putBytes b r.offset (leBytes 4 (encode (.xi (v.extractLsb' 14 23))) ++ leBytes 4 (encode (.moviX2 d (v.setWidth 14))))
      | none => b
    | 2 => putBytes b r.offset (leBytes 8 v.toNat)
    | _ => b) (objBytes o name)

/-- Whether a kernel's safe-point table keeps R364. -/
def tableGood (t sp h : List Byte) : Bool :=
  let o := fieldAt h 32 8
  o == 0 ||
    (let b := sp.drop o
     let n := fieldAt b 0 4
     decide (16 ≤ o) && decide (1 ≤ n) && decide (n ≤ 2 ^ 24) && decide (o + 48 + 8 * n ≤ sp.length) && ((b.drop 5).take 11).all (· == 0) &&
       (List.range n).all fun e =>
         let src := fieldAt b (48 + 8 * e) 4
         textStart t (roleEntries h ++ trapEntries h) src && fieldAt b (52 + 8 * e) 4 % 4 == 0 && (e == 0 || decide (fieldAt b (40 + 8 * e) 4 < src)))

/-- R364 for a whole object. -/
def objSafeOk (o : CodeObject) : Bool :=
  let sp := objBytes o ".sirzin.safept"
  (!(objHas o ".sirzin.safept") || sp.take 16 == leBytes 4 0xC5D15AFE ++ leBytes 12 0) && (objHeaders o).all (tableGood (objBytes o ".text") sp)

/-- n rounded up to a multiple of a. -/
def roundUp (n a : Nat) : Nat := (n + a - 1) / a * a

/-- Whether the tables from one of a partition's context, which covers the addresses from one on, map nothing in a range (R284,
R285): every entry reached is invalid, with no page that is only not resident, or leads to such a table. -/
def State.mapsNone (s : State) (part lo hi : Nat) : List (Nat × Nat × Nat) → Nat → Nat → Bool
  | [], _, _ => false
  | (sh, wd, _) :: rest, base, from_ =>
    let first := (max lo from_ - from_) / 2 ^ sh
    let last := (min hi (from_ + 2 ^ (sh + wd)) - 1 - from_) / 2 ^ sh
    (List.range (last + 1 - first)).all fun j =>
      let e := base + 8 * (first + j)
      let w := BitVec.ofNat 64 (leNat (rdBytes s.mem e 8))
      s.inPart part e && !s.poisoned e &&
        match w.toNat % 4 with
        | 0 => !w.getLsbD 2
        | 1 =>
          match rest with
          | [] => false
          | (_, _, al) :: _ =>
            let next := bitsOf w 40 8 * 256
            bitsOf w 63 41 == 0 && bitsOf w 7 2 == 0 && next % 2 ^ al == 0 && s.mapsNone part lo hi rest next (from_ + (first + j) * 2 ^ sh)
        | _ => false

/-- Whether a range of a context's global space is free: nothing is mapped in it and no loaded object reserves it (R366). -/
def State.rangeFree (s : State) (c : Context) (va n : Nat) : Bool :=
  (n == 0 || s.mapsNone c.part va (va + n) walkLevels c.root 0) && !(c.objs.any fun o => meets va n o.base.toNat (2 ^ 32))

/-- The first of n numbers from k on of which a test holds. -/
def firstFrom (p : Nat → Bool) : Nat → Nat → Option Nat
  | 0, _ => none
  | n + 1, k => if p k then some k else firstFrom p n (k + 1)

/-- A free window of 4 GiB for code, clear of the data range: the lowest from 2^36 on, else the lowest below it (R366; log 22). -/
def State.codeWindow (s : State) (c : Context) (data n : Nat) : Option Nat :=
  let ok := fun (k : Nat) => s.rangeFree c (k * 2 ^ 32) (2 ^ 32) && !meets (k * 2 ^ 32) (2 ^ 32) data n
  ((firstFrom ok (2 ^ 25 - 16) 16).or (firstFrom ok 15 1)).map fun k => k * 2 ^ 32

/-- A free range for data below 2^36: the lowest (R157, R362, R366; log 22). -/
def State.dataRange (s : State) (c : Context) (n : Nat) : Option Nat :=
  (firstFrom (fun k => decide (k * 65536 + n ≤ 2 ^ 36) && s.rangeFree c (k * 65536) n) (2 ^ 20 - 1) 1).map fun k => k * 65536

/-- Whether nothing uses a frame of the package: no VF, table, column, nameless pool or listed byte (R165, R293; log 22). -/
def State.frameFree (s : State) (root f : Nat) : Bool :=
  let t := s.tileAt (f / 2 ^ 20)
  !(tget 0 t.fmap (f % 2 ^ 20)).getLsbD 10 && root / 65536 != f && !(s.contexts.any fun c => c.frames.contains f) &&
    !inColumn ((s.isoAt (s.partOf (f / 2 ^ 20))).column * 2 ^ 28) (f % 2 ^ 20 * 65536) &&
    !(s.mem.any fun e => e.1 / 65536 == f) && !(s.poison.any fun k => k / 512 == f) && !(t.fsm.any fun e => e.1 / 512 == f % 2 ^ 20)

/-- Frames assigned to a VF in the frame map: ignored, with the VF's frame error, where it would hold more than BURST (R294). -/
def State.assign (s : State) (vf f n : Nat) : State :=
  if bitsOf (s.vfAt vf).burst 24 0 < s.framesUsed vf + n then (s.modVf vf fun x => { x with frameErr := true }).pfIrq 4
  else s.modTile (f / 2 ^ 20) fun t => { t with
    fmap := (List.range n).foldl (fun m k => tset 0 m (f % 2 ^ 20 + k) (BitVec.ofNat 16 (1024 + vf % 64))) t.fmap }

/-- n consecutive free frames of a context's partition, aligned, taken for it and given to its VF: the lowest (log 22). -/
def State.takeFrames (s : State) (c : Context) (n : Nat) : Option (Nat × State) :=
  let ok := fun f => (List.range n).all fun k => s.frameFree c.root (f + k)
  let found := (s.tilesOf c.part).findSome? fun t => (firstFrom (fun k => ok (t * 2 ^ 20 + k * n)) (2 ^ 20 / n) 0).map fun k => t * 2 ^ 20 + k * n
  found.map fun f =>
    let s := (List.range n).foldl (fun s k => s.touch ((f + k) * 65536)) (s.assign c.vf f n)
    (f * 65536, s.modCtx c.id fun c => { c with frames := c.frames ++ (List.range n).map fun k => f + k })

/-- A page mapped at an address, with the tables it needs: its physical address (R284 to R286). -/
def State.mapGo (s : State) (c : Context) (va flags : Nat) : List (Nat × Nat × Nat) → Nat → Option (Nat × State)
  | [], _ => none
  | (sh, wd, _) :: rest, base =>
    let e := base + 8 * (va / 2 ^ sh % 2 ^ wd)
    let w := leNat (rdBytes s.mem e 8)
    match rest with
    | [] =>
      if w % 4 ≠ 0 then none
      else (s.takeFrames c 1).map fun x => (x.1, { x.2 with mem := wrBytes x.2.mem e (leBytes 8 (x.1 + flags)) })
    | (_, _, al) :: _ =>
      match w % 4 with
      | 0 =>
        match s.takeFrames c (if al = 17 then 2 else 1) with
        | none => none
        | some (pa, s) => State.mapGo { s with mem := wrBytes s.mem e (leBytes 8 (pa + 1)) } c va flags rest pa
      | 1 => s.mapGo c va flags rest (w / 256 % 2 ^ 33 * 256)
      | _ => none

/-- Bytes placed at an address on pages of their own, with the flags of their leaves (R366). -/
def State.placeBytes (s : State) (c : Context) (va flags : Nat) (bs : List Byte) : Option State :=
  (List.range ((bs.length + 65535) / 65536)).foldlM (fun s k =>
    (s.mapGo c (va + 65536 * k) flags walkLevels c.root).map fun x =>
      { x.2 with mem := wrBytes x.2.mem x.1 ((bs.drop (65536 * k)).take 65536) }) s

/-- The first reason for which an object is refused, before its placement (R365). -/
def objRefusal (o : CodeObject) (data bss : Nat) : Option Nat :=
  if !(objElfOk o) then some 1
  else if !(objSectionsOk o) then some 2
  else if !(objKernelsOk o) then some 3
  else if !(objRevsOk o) then some 4
  else if !(objNotesOk o) then some 5
  else if !(o.relocs.all (objRelocOk o data bss)) then some 6
  else if !(objSafeOk o) then some 7
  else none

/-- The largest quota that an object's kernels ask for (R141, R142). -/
def objQuota (o : CodeObject) : Nat := ((objHeaders o).map fun h => if fieldAt h 24 1 = 255 then 16 else fieldAt h 24 1).foldl max 0

/-- An object placed in a context, when there is room (R366). -/
def State.placeObject (s : State) (c : Context) (o : CodeObject) (w d : Nat) : Option State :=
  let bss := d + roundUp (objBytes o ".data").length 64
  let text := objPatched o ".text" d bss
  let data := objPatched o ".data" d bss
  let kern := objBytes o ".sirzin.kern"
  let safe := objBytes o ".sirzin.safept"
  let k := w + roundUp text.length 65536
  let p := k + roundUp kern.length 65536
  let all := data ++ List.replicate (bss - d - data.length + (objBss o)) 0
  do
    let s ← s.placeBytes c w 0x2A text
    let s ← s.placeBytes c k 0x0A kern
    let s ← s.placeBytes c p 0x0A safe
    let s ← s.placeBytes c d 0x1A all
    some (s.modCtx c.id fun c => { c with
      objs := c.objs ++ [⟨BitVec.ofNat 64 w, d, all.length, p + safe.length - w, safe, padTo 32 (Config.sm3 o.file), none⟩], loadAnswer := none
      quotaWait := if c.quota < (objQuota o) then max c.quotaWait (objQuota o) else c.quotaWait
      mm0Wait := c.mm0Wait || (!c.mm0 && o.eFlags / 16 % 16 == 0) })

/-- LOAD_CODE_OBJECT (R365 to R367): refused with a reason and nothing placed, or placed whole. -/
def execLoadCodeObject (ctx : Nat) (o : CodeObject) (s : State) : Host.Outcome State Fault Refusal :=
  event s fun s =>
    match s.ctxAt ctx with
    | none => s
    | some c =>
      let n := roundUp (objBytes o ".data").length 64 + (objBss o)
      let d := s.dataRange c n
      let no := fun (r : Nat) => s.modCtx ctx fun c => { c with loadAnswer := some r }
      match objRefusal o (d.getD 65536) (d.getD 65536 + roundUp (objBytes o ".data").length 64) with
      | some r => no r
      | none =>
        match d with
        | none => no 8
        | some d =>
          match s.codeWindow c d n with
          | none => no 8
          | some w =>
            match s.placeObject c o w d with
            | some s => s.settleLoads
            | none => no 8

/-- The leaf of a page cleared, and its frame given back (R368). -/
def State.unmapPage (s : State) (c : Context) (va : Nat) : State :=
  match walkGo s c.part va walkLevels c.root with
  | .leaf l =>
    let f := bitsOf l.word 40 16
    let s := { s with mem := wrBytes s.mem l.entry (leBytes 8 0) }
    (s.modTile (f / 2 ^ 20) fun t => { t with fmap := tset 0 t.fmap (f % 2 ^ 20) 0 }).modCtx c.id fun c =>
      { c with frames := c.frames.filter fun x => x != f }
  | .bad _ _ _ _ => s

/-- Whether a queued or resident launch names a header in a window (R368). -/
def State.windowNamed (s : State) (ctx base : Nat) : Bool :=
  s.launches.any fun l => l.ctx == ctx && launchKhdr l.record / 2 ^ 32 * 2 ^ 32 == base

/-- Whether the unloading of an object may be carried out: asked for in an earlier cycle of the base die, with no launch that names a
header in its window and no access under way (R292, R368). -/
def State.mayUnload (s : State) (c : Context) (o : Loaded) : Bool :=
  match o.going with
  | none => false
  | some at_ => (s.coreAt 0).cyc / 2 != at_ / 2 && !s.windowNamed c.id o.base.toNat && !s.accessing c.part

/-- An object unloaded: its accesses performed, its window and data unmapped, their translations invalidated, its record freed
(R292, R368). -/
def State.unload (s : State) (c : Context) (o : Loaded) : State :=
  let pages := fun va n => (List.range ((n + 65535) / 65536)).map fun k => va + 65536 * k
  let s := s.settleWrites c.part fun k => k == c.id
  let s := (pages o.base.toNat o.codeLen ++ pages o.dataVa o.dataLen).foldl (fun s va => s.unmapPage c va) s
  let hit := fun (e : TlbEntry) => e.ctx == c.id && (meets e.leaf.va e.leaf.size o.base.toNat (2 ^ 32) ||
    meets e.leaf.va e.leaf.size o.dataVa (roundUp o.dataLen 65536))
  (s.dropTlb c.part hit).modCtx c.id fun c => { c with objs := c.objs.filter fun x => x.base != o.base }

/-- UNLOAD_CODE_OBJECT (R368): the request, which a launch accepted in the same cycle of the base die precedes, and then, once it may
be, its carrying out. -/
def execUnloadCodeObject (ctx base : Nat) (s : State) : Host.Outcome State Fault Refusal :=
  event s fun s =>
    match s.ctxAt ctx with
    | none => s
    | some c =>
      match c.objs.find? fun o => o.base.toNat == base with
      | none => s
      | some o =>
        match o.going with
        | none => s.modCtx ctx fun c => { c with objs := c.objs.map fun x =>
            if x.base = o.base then { x with going := some (s.coreAt 0).cyc } else x }
        | some _ => if s.mayUnload c o then s.unload c o else s

end Sys2Proof.Machine
end

