-- ==== Sys2Proof/Machine/Cycle.lean ====
section
/-! DEFINITION. What surrounds the execution of one instruction or event in a step: whose slot it is, charging it, the step bit,
the end of a core cycle, and the events that fall due (R40, R276 to R278, R298, R307, R319; log 3). -/

namespace Sys2Proof.Machine

/-- What a step does next: an event of the agenda; nothing beyond what the state has become; an instruction, or a word that is
none, of the group that issues; or a selection. -/
inductive Turn where
  | event (e : Due) (s : State)
  | done (s : State)
  | issue (i : Instr) (s : State)
  | illegal (w : Word) (s : State)
  | select (core part : Nat) (s : State)

/-- Whether each of a group's slots is still taken by a multi-slot instruction, after its first (R278). -/
def extraSlots : Instr → Nat
  | .rcp _ _ _ | .rsq _ _ | .sqrt _ _ _ | .ex2 _ _ | .lg2 _ _ | .sin _ _ | .cos _ _ | .tanh _ _ => 3
  | .lredAddF32 _ _ _ | .lredAddI32 _ _ | .lredMinF32 _ _ | .lredMaxF32 _ _ | .lredMinI32 _ _ | .lredMaxI32 _ _ => 1
  | .lscanAddF32 _ _ _ | .lscanAddI32 _ _ => 1
  | .trn8B8 _ _ => 1
  | .trn8B16 _ _ => 3
  | .trn8B32 _ _ => 7
  | _ => 0

/-- A slot charged to a leaf (R278, R305). -/
def State.charge_ (s : State) (w : Where) (leaf : Nat) : State :=
  let s := (s.count w 0 leaf 1).count w 0 22 1
  if leaf < 3 ∧ w.ctx ≠ 0 then
    s.modCore w.idx fun k => { k with issued := tset 0 k.issued w.vf (tget 0 k.issued w.vf + 1) }
  else s

/-- The leaf of a partition on which no run is current (R278); with the group whose state it is. -/
def State.idleLeaf (s : State) (core part : Nat) : Nat × Option Group :=
  let gs := s.groups.filter fun g => g.core == core && g.part == part
  let run := fun (g : Group) => match s.ctxAt g.ctx with | some c => c.run == .running | none => false
  let pick := fun (n : Nat) (p : Group → Bool) => (gs.find? p).map fun g => (n, some g)
  let park := fun (f : Park → Bool) (g : Group) => match g.status with | .parked w => f w | _ => false
  let first := [
    pick 8 fun g => g.status == .eligible && !g.stopped && run g && (s.damped core || s.capped core g.ctx),
    pick 9 fun g => match g.status with | .gapped _ _ | .awaiting _ => true | _ => false,
    pick 10 (park fun w => match w with | .presence _ => true | _ => false),
    pick 11 (park fun w => match w with | .matrixQueue | .matrixWait _ => true | _ => false),
    pick 12 (park fun w => match w with | .copyQueue _ | .barrierObj _ => true | _ => false),
    pick 13 (park fun w => match w with | .gang => true | _ => false),
    pick 14 fun g => g.status == .held,
    pick 15 (park fun w => w == .barrier),
    pick 16 (park fun w => w == .claim),
    pick 17 (park fun w => match w with | .fault | .pxexh _ _ => true | _ => false),
    pick 18 (park fun w => match w with | .nap _ => true | _ => false),
    pick 19 fun g => g.stopped,
    pick 20 fun g => !run g]
  (first.findSome? id).getD (21, none)

/-- Whether the homes of both rows of a step have come to it in their turns (R16, R181). -/
def State.wholeStep (s : State) (n : Nat) : Bool :=
  match s.rowops[n]? with
  | none => false
  | some o =>
    let hs := (o.rows.take 2).map fun r => homeOf r.1
    !o.half && hs.length == 2 && hs.Nodup && hs.all fun h => s.nextWork h == some (4, n) && !(s.tileAt (h / 256)).gated.contains (.homeLanes h)

/-- The events of the homes that are due: one for each home and base-die cycle of two core cycles (R16). -/
def State.dueHomes (s : State) : List Due :=
  if (s.coreAt 0).cyc % 2 = 1 then []
  else dedup <| s.busyHomes.filterMap fun h =>
    match s.nextWork h with
    | none => none
    | some (k, n) =>
      if (s.tileAt (h / 256)).gated.contains (.homeLanes h) then some (.unitWake (.homeLanes h))
      else some (if k = 4 ∧ s.rowops.length ≤ n then .scrubRead (s.scrubs.getD (n - s.rowops.length) 0)
        else if k = 4 ∧ s.wholeStep n then .rowOpStep n else .homeOperation h)

/-- The events of the units that are due after a core cycle (log 3): what can go on does so. -/
def State.dueUnits (s : State) : List Due :=
  let cyc := fun (c : Nat) => (s.coreAt c).cyc
  let group := fun (g : Group) =>
    let r : GroupRef := ⟨g.core, g.part, g.slot⟩
    (match g.status with
      | .gapped t _ => if t ≤ cyc g.core then [Due.gapExpire r] else []
      | .parked (.nap t) => if t ≤ cyc g.core then [Due.napExpire r] else []
      | _ => []) ++
    (g.sb.filter fun e => e.2 == Pend.handle).map (fun e => Due.scoreboardWriteComplete r e.1) ++
    (match g.status with
      | .awaiting ks => if g.pendingOf ks = [] then [Due.scoreboardWriteComplete r (ks.headD 0)] else []
      | _ => []) ++
    (g.expired (cyc g.core - 1)).map fun m => Due.meetTimeout r m
  let mat := fun (m : Mat) =>
    let u := PowerUnit.matrix m.core m.part
    if m.queue = [] then []
    else if (s.tileAt (tileOf m.core)).gated.contains u then [Due.unitWake u]
    else
      (match m.queue.findIdx? s.canGo with | some n => [Due.matrixOpComplete m.core m.part m.ctx n] | none => []) ++
      (if m.queue.head?.map MatOp.kind = some .wswap then [Due.wswapTakeEffect m.core m.part m.ctx] else []) ++
      (if (List.range m.queue.length).any fun n => s.canStart m n || mayStart m.queue n && s.stallsAt m n
        then [Due.matrixOpStart m.core m.part m.ctx] else [])
  let core := fun (n : Nat) (k : Core) =>
    (if k.answers = [] then [] else [Due.homeAnswerArrival n]) ++ (if k.acks = [] then [] else [Due.creditAckArrival n]) ++
    (match k.reqs.findIdx? s.canCopy with
      | some q => (match k.reqs[q]? with
        | some r => if r.out then [Due.copyOutwardWrite n q] else [Due.copyLineLand n q (r.left.headD 0)]
        | none => [])
      | none => []) ++
    (if k.reqs.any fun r => !r.started then [Due.copyRequestStart n] else []) ++
    (((List.range k.wc.length).filter fun n => match k.wc[n]? with | some w => decide (w.cyc + 4096 ≤ k.cyc) | none => false).reverse.map
      (Due.wcBufferTimeout n)) ++
    (if k.stns = [] then [] else [Due.stnNameReturn n 0])
  (s.groups.map group).flatten ++ (s.mats.map mat).flatten ++ (s.cores.mapIdx core).flatten ++ s.dueHomes ++
    (if s.relqs = [] then [] else [Due.relqInvalidate 0]) ++
    (match s.rowops.findIdx? fun o => o.rows.isEmpty with | some n => [Due.rowOpComplete n] | none => []) ++
    (if s.inflight = [] then [] else [Due.writePerformed 0])

/-- The events of system registers and of firmware that are due after a core cycle, and at the start of a base-die cycle of two core
cycles those of the dispatchers (R271; log 71). -/
def State.dueSystem (s : State) : List Due :=
  let part := fun (p : Nat) (x : IsoPart) =>
    (match x.queue with | [] => [] | c :: _ => [if c.done then Due.invCommandComplete p else Due.invCommandExecute p]) ++
    (if x.flushing then [Due.flushFrameDone p] else [])
  let launch := fun (l : Launch) =>
    match l.state with
    | .waiting => [Due.waitWordPoll l.id]
    | .met => [Due.launchHeaderRead l.id]
    | .ready =>
      if l.next < l.total then
        (if l.boosted = 0 ∧ l.readyAt + 3000000 ≤ (s.coreAt (4 * l.tile)).cyc then [Due.launchPriorityBoost l.id] else []) ++
        (if !l.hold ∧ l.movedAt + 300000 ≤ (s.coreAt (4 * l.tile)).cyc then [Due.launchStarvationHold l.id] else [])
      else if l.ended < l.total then [] else [Due.launchComplete l.id]
  let ready := (s.launches.filter fun l => l.state == .ready && decide (l.next < l.total)).map (fun l => s.partOf l.tile) ++
    (s.contexts.filter fun c => c.loadAnswer.isNone).map Context.part
  let ctx := fun (c : Context) =>
    match c.run with
    | .stopping => [Due.contextSave c.id]
    | .restoring => [Due.restoreComplete c.id]
    | _ => []
  let unload := fun (c : Context) => (c.objs.filter fun o => s.mayUnload c o).map fun o =>
    Due.unloadCodeObject c.id o.base.toNat
  (s.parts.mapIdx part).flatten ++ ((s.tiles.mapIdx fun n (t : Tile) => if t.mapBusy then [Due.mapCommandDone n] else []).flatten) ++
    (if (s.coreAt 0).cyc % 2 = 1 then []
      else (s.launches.map launch).flatten ++ ((List.range 20).filter fun t => ready.contains (s.partOf t)).map Due.blockPlace) ++
    (s.contexts.map ctx).flatten ++ (s.contexts.map unload).flatten ++
    ((List.range 64).filter fun v => (s.vfAt v).attBusy).map (fun v => Due.attestReportReady (some v)) ++
    (if s.pfReport.attBusy then [Due.attestReportReady none] else [])

/-- An event that has fallen due is executed. -/
def State.runDue (s : State) : Due → Host.Outcome State Fault Refusal
  | .attestReportReady who => execAttestReportReady who s
  | .blockPlace tile => execBlockPlace tile s
  | .contextSave ctx => execContextSave ctx s
  | .copyLineLand core req line => execCopyLineLand core req line s
  | .copyOutwardWrite core req => execCopyOutwardWrite core req s
  | .copyRequestStart core => execCopyRequestStart core s
  | .creditAckArrival core => execCreditAckArrival core s
  | .damperEvaluate core => execDamperEvaluate core s
  | .dramRefresh tile bank => execDramRefresh tile bank s
  | .flushFrameDone part => execFlushFrameDone part s
  | .frameAgingTick => execFrameAgingTick s
  | .gapExpire g => execGapExpire g s
  | .heatChargeWindow core => execHeatChargeWindow core s
  | .homeAnswerArrival core => execHomeAnswerArrival core s
  | .homeOperation home => execHomeOperation home s
  | .invCommandComplete part => execInvCommandComplete part s
  | .invCommandExecute part => execInvCommandExecute part s
  | .launchComplete launch => execLaunchComplete launch s
  | .launchHeaderRead launch => execLaunchHeaderRead launch s
  | .launchPriorityBoost launch => execLaunchPriorityBoost launch s
  | .launchStarvationHold launch => execLaunchStarvationHold launch s
  | .lifetimeRecordWrite => execLifetimeRecordWrite s
  | .linkReadTimeout n => execLinkReadTimeout n s
  | .mapCommandDone tile => execMapCommandDone tile s
  | .matrixOpComplete core part ctx n => execMatrixOpComplete core part ctx n s
  | .matrixOpStart core part ctx => execMatrixOpStart core part ctx s
  | .meetTimeout g target => execMeetTimeout g target s
  | .napExpire g => execNapExpire g s
  | .relqInvalidate n => execRelqInvalidate n s
  | .restoreComplete ctx => execRestoreComplete ctx s
  | .reuseTagExpire tile n => execReuseTagExpire tile n s
  | .rowOpComplete n => execRowOpComplete n s
  | .rowOpStep n => execRowOpStep n s
  | .scrubRead sector => execScrubRead sector .clean s
  | .scoreboardWriteComplete g n => execScoreboardWriteComplete g n s
  | .skipCountBoost g => execSkipCountBoost g s
  | .snapshotWindow u => execSnapshotWindow u s
  | .stnNameReturn core n => execStnNameReturn core n s
  | .thermalPowerOff => execThermalPowerOff s
  | .tokenRefill port vf => execTokenRefill port vf s
  | .tracePcSample core => execTracePcSample core s
  | .unitGate u => execUnitGate u s
  | .unitWake u => execUnitWake u s
  | .unloadCodeObject ctx base => execUnloadCodeObject ctx base s
  | .voltageUpdate tile => execVoltageUpdate tile s
  | .waitWordPoll launch => execWaitWordPoll launch s
  | .wcBufferTimeout core n => execWcBufferTimeout core n s
  | .writePerformed n => execWritePerformed n s
  | .wswapTakeEffect core part ctx => execWswapTakeEffect core part ctx s

/-- Whether a core cycle count is a multiple of a period. -/
def due (cyc n : Nat) : Bool := n != 0 && cyc % n == 0

/-- The events of counters, of heat and of time that are due after a core cycle: 10 µs are 30,000 core cycles (R298, R303, R314,
R317, R346, R390, R394 to R396). -/
def State.dueTimed (s : State) : List Due :=
  let cyc := (s.coreAt 0).cyc
  let unit := fun (u : CUnit) =>
    if u.owner = .free then []
    else if u.ref.unit = 4 then
      (if !u.ref.tile && due (s.coreAt u.ref.idx).cyc (if fieldAt u.record 14 1 = 0 then 0 else 2 ^ fieldAt u.record 14 1) then
        [Due.tracePcSample u.ref.idx] else [])
    else if s.minwin u + u.from_ ≤ s.unitCycle u.ref then [Due.snapshotWindow u.ref] else []
  let tags := (s.tiles.mapIdx fun n (t : Tile) => (t.tags.filter fun g => decide (2 ^ 20 ≤ g.d)).map fun g => Due.reuseTagExpire n g.n).flatten
  let bank := fun (k : Nat) =>
    let hot := ((s.tileAt (k / 4)).temps [28 + k % 4]).any fun x => decide (85 * 64 < x)
    if due cyc (if hot then 5850 else 11700) then (List.range 256).map fun b => Due.dramRefresh (k / 4) (k % 4 * 256 + b) else []
  let token := fun (t : Tenant) =>
    let n := fun (c : Nat) => (c - t.since) * fieldAt t.bytes 34 2 / 300000
    if fieldAt t.bytes 39 1 % 2 = 1 ∧ n (cyc - 1) < n cyc then [Due.tokenRefill t.port t.vf] else []
  let late := fun (n : Nat) (r : LinkRead) => if r.answer.isNone ∧ r.sentAt + 150000000 ≤ (s.coreAt r.core).cyc then [Due.linkReadTimeout n] else []
  (s.units.map unit).flatten ++ tags ++ (s.reads.mapIdx late).flatten ++ ((List.range 80).map bank).flatten ++ (s.tenants.map token).flatten ++
    (if due cyc 30000 then (List.range 80).map Due.damperEvaluate ++ (List.range 80).map Due.heatChargeWindow else []) ++
    (if due cyc 300000 then (List.range 20).map Due.voltageUpdate else []) ++
    s.dueGates ++ (if due cyc (3000 * s.period) then [Due.frameAgingTick] else []) ++
    (if due cyc 1800000000000 then [Due.lifetimeRecordWrite] else []) ++
    (if s.hot ≠ 0 ∧ s.hot + 30000000 ≤ cyc + 1 then [Due.thermalPowerOff] else [])

/-- The end of a core cycle: timers, cycle counts, the units that had work, the next scrub read, claims, deadlocks, and the events that are
due. A sector in 24,000 core cycles takes the scrub through every stack in less than 24 hours (R343). -/
def State.endCycle (s : State) : State :=
  let s := { s with
    groups := s.groups.map (fun (g : Group) => g.runTimers (s.coreAt g.core).cyc)
    cores := s.cores.map fun (k : Core) => { k with cyc := k.cyc + 1 } }
  let s := { s with tiles := s.tiles.mapIdx fun n (t : Tile) => s.markUsed n t }
  let s := if due (s.coreAt 0).cyc 24000 then { s with scrubs := s.scrubs ++ [s.scrubAt], scrubAt := (s.scrubAt + 1) % (20 * 2 ^ 29) } else s
  let cs := dedup ((s.blocks.filter fun b => b.roles.any fun r => !r.coll.isEmpty).map Block.core)
  let s := (cs.foldl State.retryClaims s).reportDeadlocks
  { s with agenda := s.agenda ++ s.dueUnits ++ s.dueSystem ++ s.dueTimed }

/-- A slot charged, and the next partition's turn; after the last partition the core cycle ends. -/
def State.tick (s : State) (w : Where) (leaf : Nat) : State :=
  let s := s.charge_ w leaf
  if s.port = 319 then State.endCycle { s with port := 0 } else { s with port := s.port + 1 }

/-- Where a partition's slot is charged when no group is named. -/
def slotLoc (core part : Nat) : Where := ⟨false, core, part, 0, 0, 0⟩

/-- A group stopped by its step bit after an instruction has completed (R319). -/
def State.stepStop (s : State) (g : Group) (w : Where) : State :=
  let s := s.modGroup g.core g.part g.slot fun g =>
    { (match g.status with | .issuing => g.pause .eligible | _ => g) with stopped := true }
  s.traceGroup g w 7 1 g.here.toNat 1

/-- What a step does when nothing stands on the agenda. -/
def State.slotTurn (s : State) : Turn :=
  let core := s.port / 4
  match s.issuer with
  | none => .select core (s.port % 4) s
  | some g =>
    let w := s.groupLoc g
    if s.damped core || s.capped core g.ctx then
      .done ((s.count w 9 (if s.damped core then 0 else 1) 1).tick w 3)
    else if g.busy ≠ 0 then
      let s := s.modGroup g.core g.part g.slot fun g => { g with busy := g.busy - 1 }
      .done ((if g.busy = 1 && g.stepBit then s.stepStop g w else s).tick w 1)
    else
      match s.fetch g with
      | (.error f, t) => if f.code = 4 then .done (((t.fetchFault g f).count w 1 0 1).tick w 0) else .done ((t.fetchFault g f).tick w 6)
      | (.ok word, t) =>
        match decode word.toNat with
        | .ok i => .issue i t
        | .error _ => .illegal word t

/-- What a step does. -/
def State.turn (s : State) : Turn :=
  match s.agenda with
  | e :: es => .event e { s with agenda := es }
  | [] => if s.power = .ready then (if s.port = 0 then s.settleEnds else s).slotTurn else .done s

/-- Whether an instruction is a prefix, which takes no slot of its own (R278). -/
def isPrefix : Instr → Bool
  | .xi _ | .guard _ _ => true
  | _ => false

/-- Whether an instruction is an END. -/
def isTrailer : Instr → Bool
  | .endRun _ _ _ _ => true
  | _ => false

/-- Whether a group is held at the same word after its slot, to execute it again in its run. A word that parks its group has issued in
its slot, and issues again in another (R278; log 6). -/
def Group.sameWord (g : Group) (before : Group) : Bool :=
  let w := fun (x : Group) => match x.pfx.start with | some p => p | none => x.here
  w g == w before && g.trap == before.trap && g.status == .issuing && g.pos == before.pos && g.pfx == before.pfx

/-- The leaf of a slot in which a group waited in its run at a word: on the scoreboard, for the link, or held in place (R278). -/
def waitLeaf (g : Group) : Nat := if g.stall = 0 then 7 else g.stall

/-- Whether a group has parked at its word, which has not completed. -/
def Group.parkedAt (g : Group) (before : Group) : Bool :=
  (match g.status with | .parked _ => g.cont | _ => false) && g.trap == before.trap

/-- After an instruction has been issued: slots, words and the step bit (R278, R305, R319). -/
def State.afterIssue (t : State) (g : Group) (w : Where) (i : Option Instr) : State :=
  let trailer := match i with | some i => isTrailer i | none => false
  match t.groupAt g.core g.part g.slot with
  | none => (t.count w 1 0 1).tick w (if trailer then 2 else 0)
  | some x =>
    if (match i with | some i => isPrefix i | none => false) then t.count w 1 0 1
    else if x.block = g.block ∧ x.sameWord g ∧ !(t.ctxAt g.ctx).any fun c => c.ending.isSome then (t.modGroup g.core g.part g.slot fun x => { x with stall := 0 }).tick w (waitLeaf x)
    else
      let t := t.count w 1 0 1
      let more := match i with | some i => extraSlots i | none => 0
      let t := t.modGroup g.core g.part g.slot fun x => if x.status = .issuing then { x with busy := more } else x
      let t := if x.stepBit && !x.stopped && (more == 0 || x.status != .issuing) && x.block == g.block && (x.trap == g.trap || x.trap.isNone) &&
        !x.parkedAt g then t.stepStop x w else t
      t.tick w (if trailer then 2 else 0)

/-- After a selection: a group that has begun a run issues in this slot; otherwise the slot is charged (R276, R278). -/
def State.afterSelect (t : State) (core part : Nat) : State :=
  if t.issuer.isSome then t
  else
    match t.idleLeaf core part with
    | (n, some g) =>
      let w := if n = 20 then slotLoc core part else t.groupLoc g
      (if n = 8 then t.count w 9 (if t.damped core then 0 else 1) 1 else t).tick w n
    | (n, none) => t.tick (slotLoc core part) n

end Sys2Proof.Machine
end

