-- ==== Sys2Proof/Machine/Atomic.lean ====
section
/-! DEFINITION. Meanings of the atomics (R191 to R194). -/

namespace Sys2Proof.Machine

/-- The new value of an atomic (R192). -/
def atomNew (f : Nat) (old x y : Word) : Word :=
  match f with
  | 0 => old + x
  | 1 => f32op (Fmt.f32.addW 0) old x
  | 2 => iminS old x
  | 3 => imaxS old x
  | 4 => old &&& x
  | 5 => old ||| x
  | 6 => x
  | _ => if old = x then y else old

/-- An order of lanes that the core chooses (R193). -/
def freeOrder : Nat → List Nat → State → List Nat × State
  | 0, ls, s => (ls, s)
  | n + 1, ls, s =>
    if ls.isEmpty then ([], s)
    else
      let (k, s) := s.choose ls.length
      let (rest, s) := freeOrder n (ls.eraseIdx k) s
      (ls.getD k 0 :: rest, s)

/-- Whether the place of an atomic is across the host link (R194). -/
def Place.linked (p : Place) : Bool :=
  match p with
  | .link _ => true
  | .mem _ w _ => bitsOf w 63 62 == 2
  | _ => false

/-- The word at an address of a memory. -/
def word4 (m : Memory) (a : Nat) : Word := BitVec.ofNat 32 (leNat (rdBytes m a 4))

/-- One lane's read-modify-write across the host link (R194, R226): the old value. -/
def State.atomLink (s : State) (i : Iss) (tid a f : Nat) (x y : Word) : Word × State :=
  let s := (s.settleBytes i tid true a 4 .narrow).drainFlight fun w => w.link && tileOf w.core == i.tile
  let old := word4 s.host (hostKey i.vf a)
  let s := { s with host := wrBytes s.host (hostKey i.vf a) (leBytes 4 (atomNew f old x y).toNat) }
  (old, (s.hostBytes i.loc i.tile 4 true).hostBytes i.loc i.tile 4 false)

/-- One lane's read-modify-write in the core's L1 (R194): the old value. -/
def State.atomNear (s : State) (i : Iss) (pa f : Nat) (x y : Word) : Word × State :=
  let c := i.g.core
  let s := if (s.sector c pa).isSome then s.count i.loc 2 0 1 else (s.count i.loc 2 1 1).allocL1 i.loc c i.g.ctx pa
  let old := match s.sector c pa with
    | some x => BitVec.ofNat 32 (leNat ((x.data.drop (pa % 128)).take 4))
    | none => 0
  let s := s.writeSector c pa (leBytes 4 (atomNew f old x y).toNat)
  (old, s.modSector c pa fun z => { z with wide := false })

/-- One lane's read-modify-write at the L2 slice of its line, the core's dirty sector written back first (R194, R219): the old
value. -/
def State.atomSlice (s : State) (i : Iss) (pa f ccls : Nat) (x y : Word) : Word × State :=
  let c := i.g.core
  let s := (s.cleanL1 c fun z => z.pa == pa / 128 * 128).drainFlight fun v => sameRoute v ⟨pa, false, 0, 0, c, 0, false, false, []⟩
  let old := word4 s.mem pa
  (old, s.storeSlice i.loc c pa (leBytes 4 (atomNew f old x y).toNat) (ccls != 2))

/-- Whether an atomic is performed in the core's L1 (R194, R227). -/
def State.atomsNear (s : State) (i : Iss) (w : Addr) (nm : Bool) (scope : Nat) : Bool :=
  !nm && bitsOf w 63 62 == 0 && decide (s.scopeOf i.g.ctx scope < 2) && bitsOf w 61 60 == 0 && !i.g.through

/-- One lane's read-modify-write at its place (R192, R194): the old value. -/
def State.atomAt (s : State) (i : Iss) (l : Nat) (p : Place) (scope f : Nat) (x y : Word) : Word × State :=
  match p with
  | .scr o =>
    let old := match s.blockAt i.b.id with | some b => word4 b.scratch o | none => 0
    (old, s.storeScr i.b.id i.g.gslot o (leBytes 4 (atomNew f old x y).toNat))
  | .col o =>
    let pa := colPa i.g.core (i.b.colBase + o)
    let old := word4 s.mem pa
    (old, ((s.colWrite i.g.core (i.b.colBase + o) (leBytes 4 (atomNew f old x y).toNat)).colAccess i.loc pa 4 false).colAccess i.loc pa 4 true)
  | .priv k =>
    let old := match s.blockAt i.b.id with | some b => word4 b.priv k | none => 0
    (old, s.modBlock i.b.id fun b => { b with priv := wrBytes b.priv k (leBytes 4 (atomNew f old x y).toNat) })
  | .link a => s.atomLink i (i.tid l) a f x y
  | .mem pa w nm =>
    let s := s.settleBytes i (i.tid l) false pa 4 .narrow
    if s.atomsNear i w nm scope then s.atomNear i pa f x y
    else s.atomSlice i pa f (bitsOf w 61 60) x y

/-- Whether an atomic's place holds poisoned data: in the core's sector where it is performed there, else at the slice once the core's
dirty bytes have come to it (R342). -/
def State.atomPoison (s : State) (i : Iss) (p : Place) (scope : Nat) : Bool :=
  match p with
  | .mem pa w nm =>
    match s.sector i.g.core pa with
    | some x => if s.atomsNear i w nm scope then x.poison else (x.poison && x.dirty) || (s.poisoned pa && x.owed != BitVec.allOnes 128)
    | none => s.poisoned pa
  | .priv k => match s.blockAt i.b.id with | some b => b.ppoison.contains (k / 128) | none => false
  | .col o => s.colBad i.g.core (i.b.colBase + o) 4
  | .scr o => i.b.poisonedAt o 4
  | _ => false

/-- The lanes whose operation the host rejects or does not complete: what comes back is poisoned (R389). -/
def State.linkRefused (s : State) (ps : List (Nat × Place)) : List Nat × State :=
  ps.foldl (fun (acc : List Nat × State) p =>
    match p.2 with
    | .link _ => let (ok, s) := acc.2.hostTakes; (if ok then acc.1 else acc.1 ++ [p.1], s)
    | _ => acc) ([], s)

/-- Whether the leaf that a lane has just been given places atomics across the host link (R194). -/
def State.linkLeaf (s : State) (i : Iss) (l : Nat) (a : Addr) : Bool :=
  (s.coreAt i.g.core).lpr.any fun e => e.1 == (i.g.part, l) && e.2.hits i.g.ctx (a.toNat % 2 ^ 57) && bitsOf e.2.leaf.word 63 62 == 2

/-- The check of one lane of an atomic (R184, R194): an operation that the host link cannot carry is no recoverable condition, and its
fault carries the lane's address. -/
def atomCheck (i : Iss) (f : Nat) (a : BitVec 7) (s : State) (l : Nat) : LaneChk × State :=
  let far := f ≠ 0 ∧ f ≠ 6 ∧ f ≠ 7
  let bad : LaneChk := .hard { code := 0x2C, addr := i.rd2 a l }
  match s.checkAddr i l (i.rd2 a l) 4 4 .atomic with
  | (.ok p, s) => (if far ∧ p.linked then bad else .ok p, s)
  | (.soft c v n, s) => (if far ∧ c ≠ 0x27 ∧ s.linkLeaf i l (i.rd2 a l) then bad else .soft c v n, s)
  | r => r

/-- The ATOM family: kind 0 ATOM, 1 ATOMN, 2 ATOMS (R191 to R194). -/
def atomOp (s : State) (kind f scope ord : Nat) (d a : BitVec 7) : Host.Outcome State Fault Refusal :=
  let regs := if f = 7 then 2 else 1
  issue s { reads := [(a, 2), (d, regs)], dsrc := true, writes := if kind = 1 then [] else [(d, 1)] } noTarget fun s i =>
    match (s.settleStp i.g.core).checkLanes i.lanes true (atomCheck i f a) with
    | .fault e => .fault e
    | .soft fs s => .settled (s.parkFault i fs)
    | .ok ps s =>
      match i.b.absentOf (linesOf ps) with
      | l :: ls => .park (s.count i.loc 5 3 1) (.presence (l :: ls))
      | [] =>
        let (no, s) := s.linkRefused ps
        match ps.find? fun p => no.contains p.1 || s.atomPoison i p.2 scope with
        | some p => .fault { code := 0x2F, addr := i.rd2 a p.1 }
        | none =>
          let s := if 2 ≤ ord ∧ hasScope ps then s.release_ i scope else s
          let same := (dedup (ps.map Prod.snd)).length != ps.length
          let (order, s) := if kind = 2 ∨ !same then (ps.map Prod.fst, s) else freeOrder 64 (ps.map Prod.fst) s
          let (olds, s) := order.foldl (fun (acc : List (Nat × Nat) × State) l =>
            match ps.find? fun p => p.1 == l with
            | some p =>
              let (old, s) := acc.2.atomAt i l p.2 scope f (i.rd d 0 l) (i.rd d 1 l)
              (acc.1 ++ [(l, old.toNat)], s)
            | none => acc) ([], s)
          let s := if (ord = 1 ∨ ord = 3) ∧ hasScope ps then s.acquireAt i scope else s
          if kind = 1 then .done s
          else s.writeRegs i [⟨d, 0, i.act, fun l => BitVec.ofNat 32 (valueOf olds l)⟩]

/-- ATOM (R192, R193). -/
def execAtom (_w : BitVec 2) (f : BitVec 3) (d a : BitVec 7) (c : BitVec 3) (o : BitVec 2) (s : State) :
    Host.Outcome State Fault Refusal := atomOp s 0 f.toNat c.toNat o.toNat d a
/-- ATOMN (R192): no register written. -/
def execAtomn (_w : BitVec 2) (f : BitVec 3) (d a : BitVec 7) (c : BitVec 3) (o : BitVec 2) (s : State) :
    Host.Outcome State Fault Refusal := atomOp s 1 f.toNat c.toNat o.toNat d a
/-- ATOMS (R193): lanes in ascending order. -/
def execAtoms (_w : BitVec 2) (f : BitVec 3) (d a : BitVec 7) (c : BitVec 3) (o : BitVec 2) (s : State) :
    Host.Outcome State Fault Refusal := atomOp s 2 f.toNat c.toNat o.toNat d a

end Sys2Proof.Machine
end

