-- ==== Sys2Proof/Machine/Barrier.lean ====
section
/-! DEFINITION. Meanings of the block and cluster barriers (R254 to R256). -/

namespace Sys2Proof.Machine

/-- A barrier of the issuing group's block or cluster (R254). -/
def State.barAt (s : State) (i : Iss) (clu : Bool) (n : Nat) : Barrier :=
  let none_ : Barrier := { phase := false, arrived := 0, expect := none, opens := [] }
  if clu then (match s.clusters.find? fun c => c.id == i.b.cluster with | some c => c.bars.getD n none_ | none => none_)
  else match s.blockAt i.b.id with | some b => b.bars.getD n none_ | none => none_

/-- The number of a lane's thread among a barrier's participants. -/
def Iss.party (i : Iss) (clu : Bool) (l : Nat) : Nat := if clu then 2048 * i.b.rank + i.thread l else i.thread l

/-- One lane arrives, and waits when it must; a completed phase lets every waiting thread go on (R255, R256). -/
def State.arriveOne (s : State) (i : Iss) (clu waits : Bool) (n : Nat) (c : Option Nat) (l : Nat) : State :=
  let w := if clu then Wait.cluster n else Wait.block n
  let s := if waits then s.modIss i fun g => g.modThreads (BitVec.ofNat 64 (2 ^ l)) fun t => { t with wait := w } else s
  let live := if clu then s.liveOfCluster i.b.cluster else s.liveOf i.b
  let (b, done) := (s.barAt i clu n).arrive (i.party clu l) c live
  let s := if clu then s.modCbar i.b.cluster n fun _ => b else s.modBar i.b.id n fun _ => b
  if !done then s
  else if clu then s.wake (fun x => x.cluster == i.b.cluster) w 2
  else s.wake (fun x => x.id == i.b.id) w 1

/-- The end of an instruction after which lanes of the issue set may wait: the run goes on when none does (R256). -/
def State.waitSet (s : State) (i : Iss) : Act :=
  match s.groupAt i.g.core i.g.part i.g.slot with
  | none => .settled s
  | some g =>
    if i.lanes.any fun l => (g.threadAt l).wait != Wait.none then
      .settled (s.modIss i fun g => (g.tailAt g.iset).endSet)
    else .done s

/-- BAR, BARA and CBAR (R254, R255). -/
def arriveOp (s : State) (d : BitVec 7) (n : Nat) (clu waits : Bool) : Host.Outcome State Fault Refusal :=
  issue s { reads := [(d, 1)], dsrc := true, from_ := fromLow, guard := false } noTarget fun s i =>
    let v := (i.rd d 0 i.low).toNat
    let c := if d.toNat = 120 ∨ v = 0 then none else some v
    let b := s.barAt i clu n
    if decide (i.b.threads * (if clu then i.b.csize else 1) < c.getD 0) ||
        (i.lanes.any fun l => b.opens.contains (i.party clu l)) ||
        (decide (0 < b.arrived) && c != b.expect) then .fault { code := 0x0B }
    else
      let s := s.release_ i (if clu then 2 else 1)
      ((i.lanes.foldl (fun s l => s.arriveOne i clu waits n c l) s).refresh).waitSet i

/-- BAR (R255, R256). -/
def execBar (d : BitVec 7) (b : BitVec 4) (s : State) : Host.Outcome State Fault Refusal := arriveOp s d b.toNat false true
/-- BARA (R255). -/
def execBara (d : BitVec 7) (b : BitVec 4) (s : State) : Host.Outcome State Fault Refusal := arriveOp s d b.toNat false false
/-- CBAR (R255, R256). -/
def execCbar (d : BitVec 7) (b : BitVec 3) (s : State) : Host.Outcome State Fault Refusal := arriveOp s d b.toNat true true

/-- BARW (R256): lanes with an open arrival wait for it to close; the others have completed, and acquire (R221). -/
def execBarw (b : BitVec 4) (s : State) : Host.Outcome State Fault Refusal :=
  issue s { guard := false } noTarget fun s i =>
    let x := s.barAt i false b.toNat
    let open_ := maskOf i.g.grant fun l => i.act.getLsbD l && x.opens.contains (i.party false l)
    let s := s.modIss i fun g => g.modThreads open_ fun t => { t with wait := Wait.block b.toNat }
    (s.acquireAt i 1).waitSet i

end Sys2Proof.Machine
end

