-- ==== Sys2Proof/Machine/Branch.lean ====
section
/-! DEFINITION. Meanings of the branches, calls and meetings (R233, R248 to R253). -/

namespace Sys2Proof.Machine

/-- Tk: the active lanes that take a predicated branch (R248, R249). -/
def Iss.taken (i : Iss) (p : BitVec 3) (n : BitVec 1) : Mask :=
  i.act &&& (if n = 1 then ~~~i.g.pred p.toNat else i.g.pred p.toNat)

/-- The instruction's own address plus 4 times a signed word offset (R248). -/
def Iss.target {n : Nat} (i : Iss) (o : BitVec n) : Word := i.pc + 4 * o.signExtend 32

/-- The lanes of a mask sent to their targets, counted as one taken branch (R249, R305). -/
def State.jump (s : State) (i : Iss) (taken : Mask) (tgt : Nat → Word) : State :=
  (s.modIss i fun g => g.go taken tgt).count i.loc 1 3 1

/-- BRA (R249). -/
def execBra (p : BitVec 3) (n : BitVec 1) (o : BitVec 22) (s : State) : Host.Outcome State Fault Refusal :=
  let ahead := fun (i : Iss) => if i.taken p n = 0 then [] else i.startWords (i.target o)
  issue s { preds := [p], psrc := [p], guard := false, ahead := ahead } (fun i => if i.taken p n = 0 then none else s.runStart i (i.target o)) fun s i =>
    if i.taken p n = 0 then .done s else .settled (s.jump i (i.taken p n) fun _ => i.target o)

/-- Whether a meeting stack of some lane of a mask is full (R233, R250). -/
def Iss.full_ (i : Iss) (m : Mask) : Bool := (lanesOf m i.g.grant).any fun l => i.b.depth ≤ (i.g.threadAt l).stack.length

/-- A return address put on the meeting stacks of a mask's lanes (R250). -/
def Group.pushRet (g : Group) (m : Mask) (ret : Word) : Group := g.modThreads m fun t => { t with stack := ret :: t.stack }

/-- The fault that a call meets before its operands: RUNLEN, the fetch ahead, or RUNTGT (R48, R250). -/
def callFault (s : State) (i : Iss) (tgt : Word) : Option Flt :=
  match s.trailer i with
  | .error f => some f
  | .ok _ => s.runStart i tgt

/-- The words that a call fetches ahead (R250). -/
def State.callWords (s : State) (i : Iss) (tgt : Word) : List Word :=
  match s.trailer i with
  | .error f => i.ahead (f.at_.getD i.pc)
  | .ok t => i.startWords tgt ++ match s.pastList i 128 (t + 4) with | .ok r => i.ahead r | .error _ => i.ahead t

/-- CALL (R250). -/
def execCall (p : BitVec 3) (n : BitVec 1) (o : BitVec 22) (s : State) : Host.Outcome State Fault Refusal :=
  let ahead := fun (i : Iss) => if i.taken p n = 0 then [] else s.callWords i (i.target o)
  issue s { preds := [p], psrc := [p], guard := false, ahead := ahead } (fun i => if i.taken p n = 0 then none else callFault s i (i.target o)) fun s i =>
    let tk := i.taken p n
    if tk = 0 then .done s
    else if i.full_ tk then .fault { code := 0x09 }
    else
      match s.trailer i with
      | .error f => .fault f
      | .ok t =>
        match s.pastList i 128 (t + 4) with
        | .error f => .fault f
        | .ok ret => .settled ((s.modIss i fun g => g.pushRet tk ret).jump i tk fun _ => i.target o)

/-- The n list words of a table branch as targets, or the fault they meet: ILLENC, then RUNTGT (R251). -/
def tableTargets (s : State) (i : Iss) (n : Nat) : Except Flt (Word × List Word) :=
  match s.trailer i with
  | .error f => .error f
  | .ok t =>
    let at_ := fun k => t + 4 + BitVec.ofNat 32 (4 * k)
    let ws := (List.range n).map fun k => (at_ k, s.peek i (at_ k))
    let bad := ws.findSome? fun w => match w.2 with
      | .error f => some f
      | .ok v => if v.any fun v => isList v && bitsOf v 25 22 == 0 then none else some { code := 0x01, at_ := some w.1 }
    match bad with
    | some f => .error f
    | none =>
      let ts := ws.filterMap fun w => match w.2 with
        | .ok v => v.map fun v => i.target (v.setWidth 22)
        | .error _ => none
      match ts.findSome? fun x => s.runStart i x with
      | some f => .error f
      | none => .ok (at_ n, ts)

/-- The words that a table branch fetches ahead (R251). -/
def tableWords (s : State) (i : Iss) (n : Nat) : List Word :=
  match tableTargets s i n with
  | .error _ => []
  | .ok (ret, ts) => i.ahead (ret - 4) ++ (ts.map i.startWords).flatten

/-- BRT and CALLT (R251). -/
def tableOp (s : State) (a n : BitVec 7) (call : Bool) : Host.Outcome State Fault Refusal :=
  let chk := fun i => match tableTargets s i n.toNat with | .error f => some f | .ok _ => none
  issue s { reads := [(a, 1)], guard := false, ahead := fun i => tableWords s i n.toNat } chk fun s i =>
    match tableTargets s i n.toNat with
    | .error f => .fault f
    | .ok (ret, ts) =>
      if i.lanes.any fun l => n.toNat ≤ (i.rd a 0 l).toNat then .fault { code := 0x08 }
      else if call && i.full_ i.act then .fault { code := 0x09 }
      else
        let s := if call then s.modIss i fun g => g.pushRet i.act ret else s
        .settled (s.jump i i.act fun l => ts.getD (i.rd a 0 l).toNat 0)

/-- BRT (R251). -/
def execBrt (a n : BitVec 7) (s : State) : Host.Outcome State Fault Refusal := tableOp s a n false
/-- CALLT (R251). -/
def execCallt (a n : BitVec 7) (s : State) : Host.Outcome State Fault Refusal := tableOp s a n true

/-- RET (R252). -/
def execRet (s : State) : Host.Outcome State Fault Refusal :=
  issue s { guard := false } noTarget fun s i =>
    let top := fun l => (i.g.threadAt l).stack.headD noMeet
    if i.lanes.any fun l => top l == noMeet then .fault { code := 0x0A }
    else
      let s := s.modIss i fun g => g.modThreads i.act fun t => { t with stack := t.stack.drop 1 }
      .settled (s.jump i i.act top)

/-- MEET (R253). -/
def execMeet (o : BitVec 14) (s : State) : Host.Outcome State Fault Refusal :=
  issue s { guard := false, ahead := fun i => i.startWords (i.target o) } (fun i => s.runStart i (i.target o)) fun s i =>
    .done (s.modIss i fun g => g.modThreads i.act fun t => { t with meet := i.target o, tmo := none })

/-- MEETW (R253). -/
def execMeetw (d : BitVec 7) (o : BitVec 14) (s : State) : Host.Outcome State Fault Refusal :=
  issue s { reads := [(d, 1)], dsrc := true, guard := false, p6 := false, ahead := fun i => i.startWords (i.target o) } (fun i => s.runStart i (i.target o)) fun s i =>
    let tmo := fun l => if i.rd d 0 l = 0 then none else some (i.rd d 0 l).toNat
    .done (s.modIss i fun g => { g with
      threads := g.threads.mapIdx fun l (t : Thread) =>
        if i.act.getLsbD l then { t with meet := i.target o, tmo := tmo l } else t })

/-- MPUSH (R233). -/
def execMpush (s : State) : Host.Outcome State Fault Refusal :=
  issue s { guard := false } noTarget fun s i =>
    if i.full_ i.act then .fault { code := 0x09 }
    else .done (s.modIss i fun g => g.modThreads i.act fun t => { t with stack := t.meet :: t.stack })

/-- MPOP (R233): the restored meeting has no timeout (R253). -/
def execMpop (s : State) : Host.Outcome State Fault Refusal :=
  issue s { guard := false } noTarget fun s i =>
    .done (s.modIss i fun g => g.modThreads i.act fun t =>
      { t with meet := t.stack.headD noMeet, stack := t.stack.drop 1, tmo := none })

end Sys2Proof.Machine
end

