-- ==== Sys2Proof/Machine/Flags.lean ====
section
/-! DEFINITION. Predicates: compares write one bit a lane, PLOP combines three, PMOV moves them (R31, R89, R90). -/

namespace Sys2Proof.Machine

/-- ICMP and FCMP: kind 0 signed, 1 unsigned, 2 FP32 (R89). -/
def compareOp (s : State) (kind : Nat) (c p : BitVec 3) (a : BitVec 7) (b : Src2) : Host.Outcome State Fault Refusal :=
  issue s { reads := (a, 1) :: b.uses 1, preds := [p], px := true, xi := b.xi } noTarget fun s i =>
    s.compare i kind c.toNat p.toNat (.reg a) (b.opd i)

/-- The truth table of PLOP: a[6:3] gives bits [7:4], b[6:3] bits [3:0] (R45, R90). -/
def plopBit (hi lo : BitVec 4) (pa pb pc : Bool) : Bool :=
  (hi ++ lo).getLsbD ((if pa then 1 else 0) + (if pb then 2 else 0) + (if pc then 4 else 0))

end Sys2Proof.Machine
end

