-- ==== Sys2Proof/Machine/Compare.lean ====
section
/-! DEFINITION. Meanings of the compares, predicate operations, select and moves (R89 to R91). -/

namespace Sys2Proof.Machine

/-- ICMP.s32 (R89). -/
def execIcmpS32 (c p : BitVec 3) (a b : BitVec 7) (s : State) : Host.Outcome State Fault Refusal :=
  compareOp s 0 c p a (.reg b)

/-- ICMP.s32 with an immediate (R89). -/
def execIcmpS32Imm (c p : BitVec 3) (a i : BitVec 7) (s : State) : Host.Outcome State Fault Refusal :=
  compareOp s 0 c p a (.int i)

/-- ICMP.ui32 (R89). -/
def execIcmpUi32 (c p : BitVec 3) (a b : BitVec 7) (s : State) : Host.Outcome State Fault Refusal :=
  compareOp s 1 c p a (.reg b)

/-- ICMP.ui32 with an immediate (R89). -/
def execIcmpUi32Imm (c p : BitVec 3) (a i : BitVec 7) (s : State) : Host.Outcome State Fault Refusal :=
  compareOp s 1 c p a (.int i)

/-- FCMP (R89). -/
def execFcmp (c p : BitVec 3) (a b : BitVec 7) (s : State) : Host.Outcome State Fault Refusal :=
  compareOp s 2 c p a (.reg b)

/-- FCMP with an immediate (R89). -/
def execFcmpImm (c p : BitVec 3) (a i : BitVec 7) (s : State) : Host.Outcome State Fault Refusal :=
  compareOp s 2 c p a (.fp i)

/-- PLOP (R90). -/
def execPlop (c d : BitVec 3) (h : BitVec 4) (a : BitVec 3) (l : BitVec 4) (b : BitVec 3) (s : State) : Host.Outcome State Fault Refusal :=
  issue s { preds := [a, b, c, d], psrc := [a, b, c] } noTarget fun s i =>
    let at_ := fun (p : BitVec 3) k => (i.g.pred p.toNat).getLsbD k
    .done (s.modIss i fun g => g.putPred i.wr d.toNat (i.bits fun k => plopBit h l (at_ a k) (at_ b k) (at_ c k)))

/-- PMOV to a predicate (R90). -/
def execPmovToPred (d : BitVec 3) (a : BitVec 7) (s : State) : Host.Outcome State Fault Refusal :=
  issue s { reads := [(a, 1)], preds := [d] } noTarget fun s i =>
    .done (s.modIss i fun g => g.putPred i.wr d.toNat (i.bits fun l => (i.rd a 0 l).getLsbD 0))

/-- PMOV to a register (R90). -/
def execPmovToReg (d : BitVec 7) (a : BitVec 3) (s : State) : Host.Outcome State Fault Refusal :=
  issue s { writes := [(d, 1)], preds := [a], psrc := [a] } noTarget fun s i =>
    s.writeOne i d fun l => if (i.g.pred a.toNat).getLsbD l then 1 else 0

/-- SEL (R91). -/
def execSel (p : BitVec 3) (d a b : BitVec 7) (s : State) : Host.Outcome State Fault Refusal :=
  issue s { reads := [(a, 1), (b, 1)], writes := [(d, 1)], preds := [p], psrc := [p], px := true, toPx := true } noTarget fun s i =>
    s.alu i d [0] (.reg a) (.reg b) .nil fun _ => .sel (i.predOf p.toNat)

/-- The homes at which the registers of a MOV need a new slot: the source's when its lanes are moved in part (R137), else that of a
destination that takes values in part. -/
def movHomes (i : Iss) (d a : BitVec 7) (n : Nat) : List Nat :=
  if i.full ∨ 96 ≤ d.toNat then []
  else (List.range n).filterMap fun j => ((i.proxy a j).orElse fun _ => i.proxy d j).map Prod.fst

/-- One register of a MOV: a value, a shared slot when all lanes are written, else a new slot at the source's home, or with `out`
values brought out of it (R91, R137, R138, R146). -/
def movElem (i : Iss) (d a : BitVec 7) (out : Bool) (j : Nat) (s : State) : Act :=
  match i.proxy a j with
  | none => .done (s.putRegs i out [⟨d, j, i.wr, i.rd a j⟩])
  | some (h, k) =>
    if 96 ≤ d.toNat then .done s
    else if i.full then .done (s.shareSlot i d j h k)
    else if out then s.fallbackAlu i d [j] (.reg (fieldAdd a j)) .nil .nil fun _ => .move
    else .done (s.makeAt i h d [j] (.reg (fieldAdd a j)) .nil .nil fun _ => .move)

/-- MOV (R91): every register of the operand, with the credits and handles of all of them there (R143). -/
def execMov (w : BitVec 2) (d a : BitVec 7) (s : State) : Host.Outcome State Fault Refusal :=
  let n := 2 ^ w.toNat
  issue s { reads := [(a, n)], writes := [(d, n)], px := true, toPx := true } noTarget fun s i =>
    let run := fun (out : Bool) (s : State) =>
      (List.range n).foldl (fun act j => act.andThen (movElem i d a out j)) (.done s)
    match s.shortAll i (movHomes i d a n) with
    | none => run false s
    | some f => if s.fallback i then run true (s.count i.loc 4 7 1) else .fault f

/-- MOVI (R91). -/
def execMovi (d : BitVec 7) (k : BitVec 14) (s : State) : Host.Outcome State Fault Refusal :=
  issue s { writes := [(d, 1)], xi := true } noTarget fun s i =>
    s.writeOne i d fun _ => (immL i.x k).setWidth 32

/-- MOVI.x2 (R91). -/
def execMoviX2 (d : BitVec 7) (k : BitVec 14) (s : State) : Host.Outcome State Fault Refusal :=
  issue s { writes := [(d, 2)], xi := true } noTarget fun s i =>
    s.writePair i d i.wr fun _ => immL i.x k

end Sys2Proof.Machine
end

