-- ==== Sys2Proof/Machine/Float.lean ====
section
/-! DEFINITION. Meanings of the floating-point, special-function and conversion instructions (R92 to R99). -/

namespace Sys2Proof.Machine

/-- FADD (R92). -/
def execFadd (r : BitVec 2) (d a b : BitVec 7) (s : State) : Host.Outcome State Fault Refusal :=
  alu2 s d a (.reg b) (.fadd r)

/-- FADD with an immediate (R92). -/
def execFaddImm (r : BitVec 2) (d a i : BitVec 7) (s : State) : Host.Outcome State Fault Refusal :=
  alu2 s d a (.fp i) (.fadd r)

/-- FSUB (R92). -/
def execFsub (r : BitVec 2) (d a b : BitVec 7) (s : State) : Host.Outcome State Fault Refusal :=
  alu2 s d a (.reg b) (.fsub r)

/-- FSUB with an immediate (R92). -/
def execFsubImm (r : BitVec 2) (d a i : BitVec 7) (s : State) : Host.Outcome State Fault Refusal :=
  alu2 s d a (.fp i) (.fsub r)

/-- FMUL (R92). -/
def execFmul (r : BitVec 2) (d a b : BitVec 7) (s : State) : Host.Outcome State Fault Refusal :=
  alu2 s d a (.reg b) (.fmul r)

/-- FMUL with an immediate (R92). -/
def execFmulImm (r : BitVec 2) (d a i : BitVec 7) (s : State) : Host.Outcome State Fault Refusal :=
  alu2 s d a (.fp i) (.fmul r)

/-- FFMA (R92). -/
def execFfma (r : BitVec 2) (d a b : BitVec 7) (s : State) : Host.Outcome State Fault Refusal :=
  alu3 s d a (.reg b) (.ffma r)

/-- FFMA with an immediate (R92). -/
def execFfmaImm (r : BitVec 2) (d a i : BitVec 7) (s : State) : Host.Outcome State Fault Refusal :=
  alu3 s d a (.fp i) (.ffma r)

/-- FMIN (R66, R92). -/
def execFmin (d a b : BitVec 7) (s : State) : Host.Outcome State Fault Refusal :=
  alu2 s d a (.reg b) .fmin

/-- FMIN with an immediate (R66, R92). -/
def execFminImm (d a i : BitVec 7) (s : State) : Host.Outcome State Fault Refusal :=
  alu2 s d a (.fp i) .fmin

/-- FMAX (R66, R92). -/
def execFmax (d a b : BitVec 7) (s : State) : Host.Outcome State Fault Refusal :=
  alu2 s d a (.reg b) .fmax

/-- FMAX with an immediate (R66, R92). -/
def execFmaxImm (d a i : BitVec 7) (s : State) : Host.Outcome State Fault Refusal :=
  alu2 s d a (.fp i) .fmax

/-- FCLASS (R93). -/
def execFclass (d a : BitVec 7) (s : State) : Host.Outcome State Fault Refusal :=
  lane1 s d a fclassOf

/-- A packed operation on both 16-bit elements (R94). -/
def packed (t : BitVec 1) (f : Fmt → Nat → Nat → Nat → Nat) (a b d : Word) : Word :=
  let k := if t = 0 then Fmt.f16 else Fmt.bf16
  let e := fun n => f k (a.toNat / 2 ^ (16 * n) % 65536) (b.toNat / 2 ^ (16 * n) % 65536) (d.toNat / 2 ^ (16 * n) % 65536)
  BitVec.ofNat 32 (e 0 + 65536 * e 1)

/-- HADD2 (R94). -/
def execHadd2 (r : BitVec 2) (t : BitVec 1) (d a b : BitVec 7) (s : State) : Host.Outcome State Fault Refusal :=
  lane2 s d a (.reg b) (fun a b => packed t (fun k x y _ => k.addW r x y) a b 0)

/-- HMUL2 (R94). -/
def execHmul2 (r : BitVec 2) (t : BitVec 1) (d a b : BitVec 7) (s : State) : Host.Outcome State Fault Refusal :=
  lane2 s d a (.reg b) (fun a b => packed t (fun k x y _ => k.mulW r x y) a b 0)

/-- HFMA2 (R94). -/
def execHfma2 (r : BitVec 2) (t : BitVec 1) (d a b : BitVec 7) (s : State) : Host.Outcome State Fault Refusal :=
  lane3 s d a (.reg b) (packed t (fun k x y z => k.fmaW r x y z))

/-- HMAX2 (R66, R94). -/
def execHmax2 (t : BitVec 1) (d a b : BitVec 7) (s : State) : Host.Outcome State Fault Refusal :=
  lane2 s d a (.reg b) fun a b => packed t (fun k x y _ => k.minMax true x y) a b 0

/-- RCP (R95). -/
def execRcp (r : BitVec 2) (d a : BitVec 7) (s : State) : Host.Outcome State Fault Refusal :=
  lane1 s d a (rcpOf r)

/-- SQRT (R95). -/
def execSqrt (r : BitVec 2) (d a : BitVec 7) (s : State) : Host.Outcome State Fault Refusal :=
  lane1 s d a (sqrtOf r)

/-- RSQ (R95), the implementation's choice within the bound. -/
def execRsq (d a : BitVec 7) (s : State) : Host.Outcome State Fault Refusal :=
  lane1 s d a rsqOf

/-- EX2 (R95), the implementation's choice within the bound. -/
def execEx2 (d a : BitVec 7) (s : State) : Host.Outcome State Fault Refusal :=
  lane1 s d a ex2Of

/-- LG2 (R95), the implementation's choice within the bound. -/
def execLg2 (d a : BitVec 7) (s : State) : Host.Outcome State Fault Refusal :=
  lane1 s d a lg2Of

/-- SIN (R95), the implementation's choice within the bound. -/
def execSin (d a : BitVec 7) (s : State) : Host.Outcome State Fault Refusal :=
  lane1 s d a (fun a => sinCosOf false (Config.sin a) a)

/-- COS (R95), the implementation's choice within the bound. -/
def execCos (d a : BitVec 7) (s : State) : Host.Outcome State Fault Refusal :=
  lane1 s d a (fun a => sinCosOf true (Config.cos a) a)

/-- TANH (R95), the implementation's choice within the bound. -/
def execTanh (d a : BitVec 7) (s : State) : Host.Outcome State Fault Refusal :=
  lane1 s d a tanhOf

/-- Whether a CVT pair accepts a proxy (R133). -/
def cvtPx (s t : Nat) : Bool :=
  match s, t with
  | 0, 5 | 5, 0 | 0, 10 | 10, 0 => true
  | _, _ => false

/-- CVT (R67, R96, R97): single, packing and unpacking forms. -/
def execCvt (r : BitVec 2) (st : BitVec 3) (d a : BitVec 7) (t : BitVec 4) (h x : BitVec 1) (s : State) : Host.Outcome State Fault Refusal :=
  let src := h.toNat * 8 + st.toNat
  let dst := t.toNat
  let sat := x == 1
  let na := if src = 0 ∧ 9 ≤ dst ∧ dst ≤ 12 then (packOf dst).2 else 1
  let nd := if dst = 0 ∧ 9 ≤ src ∧ src ≤ 12 then (packOf src).2 else 1
  issue s { reads := [(a, na)], writes := [(d, nd)], px := cvtPx src dst, toPx := cvtPx src dst } noTarget fun s i =>
    if cvtPx src dst then
      s.alu i d (List.range nd) (.reg a) (if na = 2 then .reg (fieldAdd a 1) else .nil) .nil fun e => .cvt src dst r sat e
    else if na ≠ 1 then
      let (k, n) := packOf dst
      s.writeOne i d fun l =>
        (List.range n).foldl (fun w e => w ||| (cvtElem 0 k r sat (i.rd a e l) <<< (32 / n * e))) 0
    else if nd ≠ 1 then
      let (k, n) := packOf src
      s.writeRegs i ((List.range n).map fun e =>
        ⟨d, e, i.wr, fun l => cvtElem k 0 r sat ((i.rd a 0 l >>> (32 / n * e)) &&& BitVec.ofNat 32 (2 ^ (32 / n) - 1))⟩)
    else s.writeOne i d fun l => cvtElem src dst r sat (i.rd a 0 l)

/-- CVTSR (R69, R98). -/
def execCvtsr (x : BitVec 1) (f : BitVec 2) (d a b : BitVec 7) (s : State) : Host.Outcome State Fault Refusal :=
  let k := match f.toNat with | 0 => Fmt.bf16 | 1 => Fmt.f16 | 2 => Fmt.e4m3 | _ => Fmt.e5m2
  lane2 s d a (.reg b) (stochRound k (x == 1))

/-- RNG (R99). -/
def execRng (d a b : BitVec 7) (s : State) : Host.Outcome State Fault Refusal :=
  lane2 s d a (.reg b) rngOf

end Sys2Proof.Machine
end

