-- ==== Sys2Proof/Machine/Integer.lean ====
section
/-! DEFINITION. Meanings of the integer instructions (R80 to R83). -/

namespace Sys2Proof.Machine

/-- The high word of the signed product (R80). -/
def mulhS (a b : Word) : Word := BitVec.ofInt 32 (a.toInt * b.toInt / 2 ^ 32)
/-- The high word of the unsigned product (R80). -/
def mulhU (a b : Word) : Word := BitVec.ofNat 32 (a.toNat * b.toNat / 2 ^ 32)
/-- d plus four byte products, signed or unsigned (R80). -/
def dp4 (signed : Bool) (a b d : Word) : Word :=
  let byte := fun (w : Word) k => let v := (w >>> (8 * k)).setWidth 8; if signed then v.toInt else (v.toNat : Int)
  d + BitVec.ofInt 32 ((List.range 4).foldl (fun t k => t + byte a k * byte b k) 0)

/-- IADD (R80, R81). -/
def execIadd (w : BitVec 2) (d a b : BitVec 7) (s : State) : Host.Outcome State Fault Refusal :=
  if w = 0 then alu2 s d a (.reg b) .iadd else pair2 s d a (.reg b) (· + ·)

/-- IADD with an immediate (R80, R81). -/
def execIaddImm (w : BitVec 2) (d a i : BitVec 7) (s : State) : Host.Outcome State Fault Refusal :=
  if w = 0 then alu2 s d a (.int i) .iadd else pair2 s d a (.int i) (· + ·)

/-- ISUB (R80, R81). -/
def execIsub (w : BitVec 2) (d a b : BitVec 7) (s : State) : Host.Outcome State Fault Refusal :=
  if w = 0 then alu2 s d a (.reg b) .isub else pair2 s d a (.reg b) (· - ·)

/-- ISUB with an immediate (R80, R81). -/
def execIsubImm (w : BitVec 2) (d a i : BitVec 7) (s : State) : Host.Outcome State Fault Refusal :=
  if w = 0 then alu2 s d a (.int i) .isub else pair2 s d a (.int i) (· - ·)

/-- IMUL (R80). -/
def execImul (d a b : BitVec 7) (s : State) : Host.Outcome State Fault Refusal :=
  alu2 s d a (.reg b) .imul

/-- IMUL (R80), immediate. -/
def execImulImm (d a i : BitVec 7) (s : State) : Host.Outcome State Fault Refusal :=
  alu2 s d a (.int i) .imul

/-- IMIN.s32 (R80). -/
def execIminS32 (d a b : BitVec 7) (s : State) : Host.Outcome State Fault Refusal :=
  alu2 s d a (.reg b) .iminS

/-- IMIN.s32 (R80), immediate. -/
def execIminS32Imm (d a i : BitVec 7) (s : State) : Host.Outcome State Fault Refusal :=
  alu2 s d a (.int i) .iminS

/-- IMAX.s32 (R80). -/
def execImaxS32 (d a b : BitVec 7) (s : State) : Host.Outcome State Fault Refusal :=
  alu2 s d a (.reg b) .imaxS

/-- IMAX.s32 (R80), immediate. -/
def execImaxS32Imm (d a i : BitVec 7) (s : State) : Host.Outcome State Fault Refusal :=
  alu2 s d a (.int i) .imaxS

/-- IMULH.s32 (R80). -/
def execImulhS32 (d a b : BitVec 7) (s : State) : Host.Outcome State Fault Refusal :=
  lane2 s d a (.reg b) mulhS

/-- IMULH.s32 (R80), immediate. -/
def execImulhS32Imm (d a i : BitVec 7) (s : State) : Host.Outcome State Fault Refusal :=
  lane2 s d a (.int i) mulhS

/-- IMAD (R80). -/
def execImad (d a b : BitVec 7) (s : State) : Host.Outcome State Fault Refusal :=
  lane3 s d a (.reg b) fun a b d => a * b + d

/-- IMAD (R80), immediate. -/
def execImadImm (d a i : BitVec 7) (s : State) : Host.Outcome State Fault Refusal :=
  lane3 s d a (.int i) fun a b d => a * b + d

/-- IDP4.s8 (R80). -/
def execIdp4S8 (d a b : BitVec 7) (s : State) : Host.Outcome State Fault Refusal :=
  lane3 s d a (.reg b) (dp4 true)

/-- IABS (R80, R82). -/
def execIabs (d a : BitVec 7) (s : State) : Host.Outcome State Fault Refusal :=
  lane1 s d a fun a => if a.toInt < 0 then -a else a

/-- IMULH.ui32 (R80). -/
def execImulhUi32 (d a b : BitVec 7) (s : State) : Host.Outcome State Fault Refusal :=
  lane2 s d a (.reg b) mulhU

/-- IMIN.ui32 (R80). -/
def execIminUi32 (d a b : BitVec 7) (s : State) : Host.Outcome State Fault Refusal :=
  alu2 s d a (.reg b) .iminU

/-- IMAX.ui32 (R80). -/
def execImaxUi32 (d a b : BitVec 7) (s : State) : Host.Outcome State Fault Refusal :=
  alu2 s d a (.reg b) .imaxU

/-- IDP4.ui8 (R80). -/
def execIdp4Ui8 (d a b : BitVec 7) (s : State) : Host.Outcome State Fault Refusal :=
  lane3 s d a (.reg b) (dp4 false)

/-- LEA (R83). -/
def execLea (f : BitVec 3) (d a b : BitVec 7) (s : State) : Host.Outcome State Fault Refusal :=
  issue s { reads := [(a, 2), (b, 1)], writes := [(d, 2)] } noTarget fun s i =>
    s.writePair i d i.wr fun l => i.rd2 a l + (i.rd b 0 l).signExtend 64 <<< f.toNat

end Sys2Proof.Machine
end

