-- ==== Sys2Proof/Machine/Lane.lean ====
section
/-! DEFINITION. Meanings of the lane-exchange instructions (R100 to R104). -/

namespace Sys2Proof.Machine

/-- The lanes whose elements a lane of an exchange reads: of a, its source lane's; of b, its own, or with `low` the lowest active
lane's (R100). -/
def exchangeFrom (src : Iss → Nat → Option Nat) (low : Bool) (n : Nat) (i : Iss) (l _ : Nat) : Mask :=
  if n = 0 then (match src i l with | some k => laneBit k | none => 0) else laneBit (if low then i.low else l)

/-- Writes to each written lane the value of a source lane; a lane with none keeps its destination (R76, R100). -/
def exchange (s : State) (d a : BitVec 7) (b : Option (BitVec 7)) (src : Iss → Nat → Option Nat) (low : Bool := false) :
    Host.Outcome State Fault Refusal :=
  issue s { reads := (a, 1) :: b.toList.map fun f => (f, 1), from_ := exchangeFrom src low, writes := [(d, 1)] } noTarget fun s i =>
    let wr := i.wr &&& maskOf i.g.grant fun l => (src i l).isSome
    s.writeRegs i [⟨d, 0, wr, fun l => i.rd a 0 ((src i l).getD l)⟩]

/-- The register form's number in a lane. -/
def bNum (b : BitVec 7) (i : Iss) (l : Nat) : Nat := (i.rd b 0 l).toNat

/-- SHFLUP's source lane (R100). -/
def upFrom (n l : Nat) : Option Nat := if n ≤ l then some (l - n) else none
/-- SHFLDN's source lane (R100). -/
def downFrom (g n l : Nat) : Option Nat := if l + n < g then some (l + n) else none
/-- The permutation of a quad with a lexicographic rank (R101). -/
def quadPerm (r k : Nat) : Nat :=
  let a := r / 6
  let l1 := [0, 1, 2, 3].filter (· != a)
  let b := l1.getD (r % 6 / 2) 0
  let l2 := l1.filter (· != b)
  let c := l2.getD (r % 2) 0
  [a, b, c, (l2.filter (· != c)).headD 0].getD k 0

/-- SHFL (R100). -/
def execShfl (d a b : BitVec 7) (s : State) : Host.Outcome State Fault Refusal :=
  exchange s d a (some b) fun i l => some (bNum b i l % i.g.grant)

/-- SHFL with an immediate (R100). -/
def execShflImm (d a i : BitVec 7) (s : State) : Host.Outcome State Fault Refusal :=
  exchange s d a none fun i' _ => some (i.toNat % i'.g.grant)

/-- SHFLX (R100). -/
def execShflx (d a b : BitVec 7) (s : State) : Host.Outcome State Fault Refusal :=
  exchange s d a (some b) fun i l => some ((l ^^^ bNum b i l) % i.g.grant)

/-- SHFLX with an immediate (R100). -/
def execShflxImm (d a i : BitVec 7) (s : State) : Host.Outcome State Fault Refusal :=
  exchange s d a none fun i' l => some ((l ^^^ i.toNat) % i'.g.grant)

/-- SHFLUP (R100). -/
def execShflup (d a b : BitVec 7) (s : State) : Host.Outcome State Fault Refusal :=
  exchange s d a (some b) fun i l => upFrom (bNum b i l) l

/-- SHFLUP with an immediate (R100). -/
def execShflupImm (d a i : BitVec 7) (s : State) : Host.Outcome State Fault Refusal :=
  exchange s d a none fun _ l => upFrom (i.toNat) l

/-- SHFLDN (R100). -/
def execShfldn (d a b : BitVec 7) (s : State) : Host.Outcome State Fault Refusal :=
  exchange s d a (some b) fun i l => downFrom i.g.grant (bNum b i l) l

/-- SHFLDN with an immediate (R100). -/
def execShfldnImm (d a i : BitVec 7) (s : State) : Host.Outcome State Fault Refusal :=
  exchange s d a none fun i' l => downFrom i'.g.grant (i.toNat) l

/-- QSWZ with a pattern register (R101). -/
def execQswz (d a b : BitVec 7) (s : State) : Host.Outcome State Fault Refusal :=
  exchange s d a (some b) fun i l => some (l / 4 * 4 + bNum b i l / 4 ^ (l % 4) % 4)

/-- QSWZ with a permutation index (R101). -/
def execQswzImm (d a i : BitVec 7) (s : State) : Host.Outcome State Fault Refusal :=
  exchange s d a none fun _ l => some (l / 4 * 4 + quadPerm i.toNat (l % 4))

/-- QBC (R100). -/
def execQbc (d a b : BitVec 7) (s : State) : Host.Outcome State Fault Refusal :=
  exchange s d a (some b) fun i l => some (l / 4 * 4 + bNum b i l % 4)

/-- QBC with an immediate (R100). -/
def execQbcImm (d a i : BitVec 7) (s : State) : Host.Outcome State Fault Refusal :=
  exchange s d a none fun _ l => some (l / 4 * 4 + i.toNat)

/-- LBC (R100). -/
def execLbc (d a b : BitVec 7) (s : State) : Host.Outcome State Fault Refusal :=
  exchange s d a (some b) (fun i _ => some (bNum b i i.low % i.g.grant)) true

/-- LBC with an immediate (R100). -/
def execLbcImm (d a i : BitVec 7) (s : State) : Host.Outcome State Fault Refusal :=
  exchange s d a none fun i' _ => some (i.toNat % i'.g.grant)

/-- VOTE: one value to every active lane (R102). -/
def vote (s : State) (d : BitVec 7) (p : BitVec 3) (v : Iss → Word) : Host.Outcome State Fault Refusal :=
  issue s { writes := [(d, 1)], preds := [p], psrc := [p] } noTarget fun s i => s.writeRegs i [⟨d, 0, i.act, fun _ => v i⟩]

/-- VOTE.all (R102). -/
def execVoteAll (d : BitVec 7) (p : BitVec 3) (s : State) : Host.Outcome State Fault Refusal :=
  vote s d p fun i => if i.act &&& ~~~i.g.pred p.toNat = 0 then 1 else 0

/-- VOTE.any (R102). -/
def execVoteAny (d : BitVec 7) (p : BitVec 3) (s : State) : Host.Outcome State Fault Refusal :=
  vote s d p fun i => if i.act &&& i.g.pred p.toNat = 0 then 0 else 1

/-- VOTE.ballot (R102). -/
def execVoteBallot (d : BitVec 7) (p : BitVec 3) (s : State) : Host.Outcome State Fault Refusal :=
  issue s { writes := [(d, 2)], preds := [p], psrc := [p] } noTarget fun s i => s.writePair i d i.act fun _ => i.act &&& i.g.pred p.toNat

/-- MATCH (R102). -/
def execMatchLanes (d a : BitVec 7) (s : State) : Host.Outcome State Fault Refusal :=
  issue s { reads := [(a, 1)], from_ := fromActive, writes := [(d, 2)] } noTarget fun s i =>
    s.writePair i d i.act fun l => maskOf i.g.grant fun k => i.act.getLsbD k && i.rd a 0 k == i.rd a 0 l

/-- The lanes whose elements a lane of TRN8 reads of a register: the eight of its run, in the register of its own element (R104). -/
def trn8From (e : Nat) (_ : Nat) (_ : Iss) (l j : Nat) : Mask :=
  if l % 8 / (32 / e) = j then BitVec.ofNat 64 (0xFF * 2 ^ (l / 8 * 8)) else 0

/-- TRN8 on elements of e bits in 2^w registers (R104). -/
def trn8 (s : State) (w e : Nat) (d a : BitVec 7) : Host.Outcome State Fault Refusal :=
  issue s { reads := [(a, 2 ^ w)], from_ := trn8From e, writes := [(d, 2 ^ w)] } noTarget fun s i =>
    let per := 32 / e
    let elem := fun l m => (i.rd a (m / per) l).toNat / 2 ^ (e * (m % per)) % 2 ^ e
    s.writeRegs i ((List.range (2 ^ w)).map fun j => ⟨d, j, i.wr, fun l =>
      BitVec.ofNat 32 ((List.range per).foldl (fun t q => t + elem (l / 8 * 8 + (j * per + q)) (l % 8) * 2 ^ (e * q)) 0)⟩)

/-- TRN8.b8 (R104). -/
def execTrn8B8 (d a : BitVec 7) (s : State) : Host.Outcome State Fault Refusal :=
  trn8 s 1 8 d a

/-- TRN8.b16 (R104). -/
def execTrn8B16 (d a : BitVec 7) (s : State) : Host.Outcome State Fault Refusal :=
  trn8 s 2 16 d a

/-- TRN8.b32 (R104). -/
def execTrn8B32 (d a : BitVec 7) (s : State) : Host.Outcome State Fault Refusal :=
  trn8 s 3 32 d a

/-- One level of the pairwise tree of LRED (R74). -/
def treeStep (f : Word → Word → Word) (g st : Nat) (t : List Word) : List Word :=
  (List.range g).map fun k => if k % (2 * st) = 0 then f (t.getD k 0) (t.getD (k + st) 0) else t.getD k 0
/-- One level of the doubling order of LSCAN (R103). -/
def scanStep (f : Word → Word → Word) (g st : Nat) (t : List Word) : List Word :=
  (List.range g).map fun k => if st ≤ k then f (t.getD (k - st) 0) (t.getD k 0) else t.getD k 0
/-- The strides 1, 2, 4 … below a grant. -/
def strides (g : Nat) : List Nat := [1, 2, 4, 8, 16, 32].filter fun st => decide (st < g)
/-- LRED and LSCAN: inactive lanes contribute the identity, active lanes are written (R74, R103). -/
def reduce (s : State) (scan : Bool) (ident : Word) (f : Word → Word → Word) (d a : BitVec 7) :
    Host.Outcome State Fault Refusal :=
  issue s { reads := [(a, 1)], from_ := fromActive, writes := [(d, 1)] } noTarget fun s i =>
    let g := i.g.grant
    let t := (List.range g).map fun l => if i.act.getLsbD l then i.rd a 0 l else ident
    let r := (strides g).foldl (fun t st => if scan then scanStep f g st t else treeStep f g st t) t
    s.writeRegs i [⟨d, 0, i.act, fun l => r.getD (if scan then l else 0) 0⟩]

/-- LredAddI32 (R74, R103). -/
def execLredAddI32 (d a : BitVec 7) (s : State) : Host.Outcome State Fault Refusal :=
  reduce s false 0 (· + ·) d a

/-- LredAddF32 (R74, R103). -/
def execLredAddF32 (r : BitVec 2) (d a : BitVec 7) (s : State) : Host.Outcome State Fault Refusal :=
  reduce s false 0x80000000 (f32op (Fmt.f32.addW r)) d a

/-- LredMinF32 (R74, R103). -/
def execLredMinF32 (d a : BitVec 7) (s : State) : Host.Outcome State Fault Refusal :=
  reduce s false 0x7F800000 (f32op (Fmt.f32.minMax false)) d a

/-- LredMaxF32 (R74, R103). -/
def execLredMaxF32 (d a : BitVec 7) (s : State) : Host.Outcome State Fault Refusal :=
  reduce s false 0xFF800000 (f32op (Fmt.f32.minMax true)) d a

/-- LscanAddI32 (R74, R103). -/
def execLscanAddI32 (d a : BitVec 7) (s : State) : Host.Outcome State Fault Refusal :=
  reduce s true 0 (· + ·) d a

/-- LscanAddF32 (R74, R103). -/
def execLscanAddF32 (r : BitVec 2) (d a : BitVec 7) (s : State) : Host.Outcome State Fault Refusal :=
  reduce s true 0x80000000 (f32op (Fmt.f32.addW r)) d a

/-- LredMinI32 (R74, R103). -/
def execLredMinI32 (d a : BitVec 7) (s : State) : Host.Outcome State Fault Refusal :=
  reduce s false 0x7FFFFFFF iminS d a

/-- LredMaxI32 (R74, R103). -/
def execLredMaxI32 (d a : BitVec 7) (s : State) : Host.Outcome State Fault Refusal :=
  reduce s false 0x80000000 imaxS d a

end Sys2Proof.Machine
end

