-- ==== Sys2Proof/Machine/Logic.lean ====
section
/-! DEFINITION. Meanings of the logic, shift and bit-field instructions (R84 to R88). -/

namespace Sys2Proof.Machine

/-- SHF: the funnel shift right of a ‖ d (R85). -/
def shfW (a n d : Word) : Word := ((a ++ d) >>> (min n.toNat 32)).setWidth 32
/-- The number of set bits (R86). -/
def popW (a : Word) : Word := BitVec.ofNat 32 ((List.range 32).filter fun k => a.getLsbD k).length
/-- The number of leading zero bits (R86). -/
def clzW (a : Word) : Word := BitVec.ofNat 32 (if a = 0 then 32 else 31 - Nat.log2 a.toNat)
/-- The bits in reverse order (R86). -/
def brevW (a : Word) : Word := BitVec.ofNat 32 ((List.range 32).foldl (fun t k => if a.getLsbD k then t + 2 ^ (31 - k) else t) 0)
/-- Position and length of a field control (R87). -/
def fieldCtl (c : Word) : Nat × Nat := (bitsOf c 4 0, min (bitsOf c 10 5) (32 - bitsOf c 4 0))
/-- BFX (R87). -/
def bfxW (signed : Bool) (a c : Word) : Word :=
  let (p, n) := fieldCtl c
  let v := a.toNat / 2 ^ p % 2 ^ n
  if signed && n != 0 && v / 2 ^ (n - 1) == 1 then BitVec.ofInt 32 ((v : Int) - 2 ^ n) else BitVec.ofNat 32 v
/-- BFI (R87). -/
def bfiW (a c d : Word) : Word :=
  let (p, n) := fieldCtl c
  let m : Word := BitVec.ofNat 32 ((2 ^ n - 1) * 2 ^ p)
  (d &&& ~~~m) ||| ((a <<< p) &&& m)
/-- PRMT (R88). -/
def prmtW (a c d : Word) : Word :=
  let src := a.toNat + d.toNat * 2 ^ 32
  BitVec.ofNat 32 ((List.range 4).foldl (fun t k =>
    let v := src / 2 ^ (8 * bitsOf c (3 * k + 2) (3 * k)) % 256
    let v := if c.getLsbD (12 + k) then 0 else v
    t + (if c.getLsbD (16 + k) then 255 - v else v) * 2 ^ (8 * k)) 0)

/-- AND (R84). -/
def execAnd (d a b : BitVec 7) (s : State) : Host.Outcome State Fault Refusal :=
  alu2 s d a (.reg b) .and

/-- AND (R84), immediate. -/
def execAndImm (d a i : BitVec 7) (s : State) : Host.Outcome State Fault Refusal :=
  alu2 s d a (.int i) .and

/-- OR (R84). -/
def execOr (d a b : BitVec 7) (s : State) : Host.Outcome State Fault Refusal :=
  alu2 s d a (.reg b) .or

/-- OR (R84), immediate. -/
def execOrImm (d a i : BitVec 7) (s : State) : Host.Outcome State Fault Refusal :=
  alu2 s d a (.int i) .or

/-- XOR (R84). -/
def execXor (d a b : BitVec 7) (s : State) : Host.Outcome State Fault Refusal :=
  alu2 s d a (.reg b) .xor

/-- XOR (R84), immediate. -/
def execXorImm (d a i : BitVec 7) (s : State) : Host.Outcome State Fault Refusal :=
  alu2 s d a (.int i) .xor

/-- SHL (R84). -/
def execShl (d a b : BitVec 7) (s : State) : Host.Outcome State Fault Refusal :=
  alu2 s d a (.reg b) .shl

/-- SHL (R84), immediate. -/
def execShlImm (d a i : BitVec 7) (s : State) : Host.Outcome State Fault Refusal :=
  alu2 s d a (.int i) .shl

/-- SHR (R84). -/
def execShr (d a b : BitVec 7) (s : State) : Host.Outcome State Fault Refusal :=
  alu2 s d a (.reg b) .shr

/-- SHR (R84), immediate. -/
def execShrImm (d a i : BitVec 7) (s : State) : Host.Outcome State Fault Refusal :=
  alu2 s d a (.int i) .shr

/-- SAR (R84). -/
def execSar (d a b : BitVec 7) (s : State) : Host.Outcome State Fault Refusal :=
  alu2 s d a (.reg b) .sar

/-- SAR (R84), immediate. -/
def execSarImm (d a i : BitVec 7) (s : State) : Host.Outcome State Fault Refusal :=
  alu2 s d a (.int i) .sar

/-- ANDN (R84). -/
def execAndn (d a b : BitVec 7) (s : State) : Host.Outcome State Fault Refusal :=
  lane2 s d a (.reg b) fun a b => a &&& ~~~b

/-- ANDN (R84), immediate. -/
def execAndnImm (d a i : BitVec 7) (s : State) : Host.Outcome State Fault Refusal :=
  lane2 s d a (.int i) fun a b => a &&& ~~~b

/-- SHF (R85). -/
def execShf (d a b : BitVec 7) (s : State) : Host.Outcome State Fault Refusal :=
  lane3 s d a (.reg b) shfW

/-- SHF (R85), immediate. -/
def execShfImm (d a i : BitVec 7) (s : State) : Host.Outcome State Fault Refusal :=
  lane3 s d a (.int i) shfW

/-- POPC (R86). -/
def execPopc (d a : BitVec 7) (s : State) : Host.Outcome State Fault Refusal :=
  lane1 s d a popW

/-- CLZ (R86). -/
def execClz (d a : BitVec 7) (s : State) : Host.Outcome State Fault Refusal :=
  lane1 s d a clzW

/-- BREV (R86). -/
def execBrev (d a : BitVec 7) (s : State) : Host.Outcome State Fault Refusal :=
  lane1 s d a brevW

/-- BFX.s32 (R87). -/
def execBfxS32 (d a b : BitVec 7) (s : State) : Host.Outcome State Fault Refusal :=
  lane2 s d a (.reg b) (bfxW true)

/-- BFX.s32 (R87), immediate. -/
def execBfxS32Imm (d a i : BitVec 7) (s : State) : Host.Outcome State Fault Refusal :=
  lane2 s d a (.int i) (bfxW true)

/-- BFX.ui32 (R87). -/
def execBfxUi32 (d a b : BitVec 7) (s : State) : Host.Outcome State Fault Refusal :=
  lane2 s d a (.reg b) (bfxW false)

/-- BFX.ui32 (R87), immediate. -/
def execBfxUi32Imm (d a i : BitVec 7) (s : State) : Host.Outcome State Fault Refusal :=
  lane2 s d a (.int i) (bfxW false)

/-- BFI (R87). -/
def execBfi (d a b : BitVec 7) (s : State) : Host.Outcome State Fault Refusal :=
  lane3 s d a (.reg b) bfiW

/-- BFI (R87), immediate. -/
def execBfiImm (d a i : BitVec 7) (s : State) : Host.Outcome State Fault Refusal :=
  lane3 s d a (.int i) bfiW

/-- PRMT (R88). -/
def execPrmt (d a b : BitVec 7) (s : State) : Host.Outcome State Fault Refusal :=
  lane3 s d a (.reg b) prmtW

/-- PRMT (R88), immediate. -/
def execPrmtImm (d a i : BitVec 7) (s : State) : Host.Outcome State Fault Refusal :=
  lane3 s d a (.int i) prmtW

end Sys2Proof.Machine
end

