-- ==== Sys2Proof/Machine/Proxy.lean ====
section
/-! DEFINITION. Meanings of the proxy instructions (R148 to R151). -/

namespace Sys2Proof.Machine

/-- The home that an LDP leaves its words at, if it does not decline (R132, R148). -/
def ldpHome (i : Iss) (ps : List (Nat × Place)) : Option Nat :=
  let hs := ps.map fun p => match p.2 with | .mem pa _ false => some pa | _ => none
  match hs with
  | some pa :: _ =>
    if pa / 2 ^ 36 = i.tile ∧ hs.all (fun x => match x with | some q => homeOf q == homeOf pa | none => false)
    then some (homeOf pa) else none
  | _ => none

/-- The lines of some words made current at the device and dropped from the core's L1 (R148, R149, R152): a later load of the core then
sees what the home has seen (R214). -/
def State.exposeLines (s : State) (i : Iss) (pas : List Nat) : State :=
  (dedup (pas.map fun pa => pa / 1024)).foldl (fun s line =>
    let s := s.drainFlight fun w => w.core == i.g.core && !w.link && meets w.addr w.bytes.length (1024 * line) 1024
    let s := s.drainWc i.g.core fun w => !w.link && meets w.addr 128 (1024 * line) 1024
    let q := fun (x : Sector) => x.pa / 1024 == line
    (s.cleanL1 i.g.core q).dropL1 i.g.core q) s

/-- The words of helper lanes that lie at a home and whose load would raise no fault (R148). -/
def State.ldpHelpers (s : State) (i : Iss) (home : Nat) (chk : State → Nat → LaneChk × State) : List (Nat × Nat) × State :=
  i.helpers.foldl (fun (acc : List (Nat × Nat) × State) l =>
    match chk acc.2 l with
    | (.ok (.mem pa _ false), s) => (if homeOf pa = home ∧ !s.poisoned pa then acc.1 ++ [(l, pa)] else acc.1, s)
    | (_, s) => (acc.1, s)) ([], s)

/-- LDP (R148). -/
def execLdp (p : BitVec 3) (d a o : BitVec 7) (s : State) : Host.Outcome State Fault Refusal :=
  issue s { reads := [(a, 2)], writes := [(d, 1)], preds := [p], xi := true, p6 := false } noTarget fun s i =>
    let chk := fun (s : State) l => s.checkAddr i l (memAddr i a (immM i.x o) 4 l) 4 4 .read
    match (s.settleStp i.g.core).checkLanes i.lanes false chk with
    | .fault f => .fault f
    | .soft fs s => .settled (s.parkFault i fs)
    | .ok ps s =>
      let setP := fun (s : State) (v : Mask) => s.modIss i fun g => g.putPred i.wr p.toNat v
      let decline := fun (s : State) ev =>
        (s.loadBody i d 1 4 (BitVec.ofNat 32) true (memAddr i a (immM i.x o) 4) chk noBefore noBefore).andThen fun s => .done ((setP s 0).count i.loc 4 ev 1)
      match ldpHome i ps with
      | none => decline s 4
      | some home =>
        match s.shortOf i home 1 with
        | some f => if s.fallback i then decline s 7 else .fault f
        | none =>
          let words := ps.filterMap fun q => match q.2 with | .mem pa _ _ => some (q.1, pa) | _ => none
          let (hw, s) := s.ldpHelpers i home chk
          let s := s.exposeLines i ((words ++ hw).map Prod.snd)
          let (inw, fwd) := i.restCost home d 0
          let s := (s.count i.loc 4 0 1).pxBytes i (16 + 8 * words.length + inw) 0 fwd
          let (h, s) := s.takeHandle i home
          let s := s.send i home (.load h (words ++ hw) (i.priorAt d 0) i.wr)
          .done (setP (s.bindProxy i d 0 home h) (~~~0))

/-- STP (R149). -/
def execStp (d a o : BitVec 7) (s : State) : Host.Outcome State Fault Refusal :=
  issue s { reads := [(a, 2)], also := [(d, 1)], dsrc := true, xi := true, p6 := false } noTarget fun s i =>
    let chk := fun (s : State) l => s.checkAddr i l (memAddr i a (immM i.x o) 4 l) 4 4 .write
    match i.proxy d 0 with
    | none => s.storeBody i (storeBytes i d 1 4) .narrow chk noBefore
    | some (home, h) =>
      match (s.settleStp i.g.core).checkLanes i.lanes true chk with
      | .fault f => .fault f
      | .soft fs s => .settled (s.parkFault i fs)
      | .ok ps s =>
        let (bad, s) := s.probe i [(home, h)]
        if bad then .fault { code := 0x2F }
        else
          let words := ps.filterMap fun q => match q.2 with | .mem pa _ false => some (q.1, pa) | _ => none
          let past := ps.filterMap fun q => match q.2 with | .mem pa w false => if bitsOf w 61 60 = 2 then some pa else none | _ => none
          if words.length = ps.length then
            let s := s.exposeLines i (words.map Prod.snd)
            let away := (words.filter fun w => homeOf w.2 != home).length
            let s := (s.count i.loc 4 0 1).pxBytes i (16 + 8 * words.length) 0 (4 * away)
            .done (s.send i home (.store words past h))
          else
            let s := s.drainHomes i.g.core
            let lanes := (s.slotLanes i home h).1
            (s.storeBody i (fun l => leBytes 4 (lanes.getD l 0).toNat) .narrow chk noBefore).andThen fun s =>
              .done (((s.count i.loc 4 0 1).count i.loc 4 6 1).pxBytes i 16 (4 * ps.length) 0)

/-- The lanes that MAT brings out: one for an s register, none for a field that takes no write (R28, R30, R150). -/
def matLanes (i : Iss) (d : BitVec 7) : Mask :=
  if 96 ≤ d.toNat ∧ d.toNat < 112 then BitVec.ofNat 64 (2 ^ i.low) else if d.toNat < 120 then i.wr else 0

/-- MAT (R150). -/
def execMat (d a : BitVec 7) (s : State) : Host.Outcome State Fault Refusal :=
  issue s { also := [(a, 1)], writes := [(d, 1)], p6 := false } noTarget fun s i =>
    match i.proxy a 0 with
    | none => s.writeOne i d (i.rd a 0)
    | some (home, h) =>
      let (bad, s) := s.probe i [(home, h)]
      if bad then .fault { code := 0x2F }
      else
        match regKey i.g.win d 0 with
        | none => .done s
        | some key =>
          let wr := matLanes i d
          let s := (s.count i.loc 4 0 1).pxBytes i 16 (4 * (lanesOf wr i.g.grant).length) 0
          let s := s.send i home (.bring h wr i.g.part i.g.slot key)
          let pend := fun (s : State) => s.modIss i fun g => { g with sb := g.sb ++ [(key, .matWords)] }
          match i.proxy d 0 with
          | none => .done (pend s)
          | some (h0, k0) =>
            let s := if i.full then s else
              (s.drainHomes i.g.core).pxBytes i 0 (4 * (i.g.grant - (lanesOf i.wr i.g.grant).length)) 0
            let (old, dead) := s.slotLanes i h0 k0
            let s := s.modIss i fun g => g.setFrom key i.wr (fun _ => 0) old dead
            .done (pend (s.releaseAlone i.loc i.g.core i.g.ctx i.g.gslot h0 k0))

/-- PDROP (R150). -/
def execPdrop (a : BitVec 7) (s : State) : Host.Outcome State Fault Refusal :=
  issue s { tags := [(a, 1)], p6 := false } noTarget fun s i =>
    match i.proxy a 0 with
    | none => .done s
    | some (home, h) =>
      let s := s.modIss i fun g => g.setReg (g.win.toNat * 32 + a.toNat) (.val (List.replicate g.grant 0))
      .done (s.releaseAlone i.loc i.g.core i.g.ctx i.g.gslot home h)

/-- The descriptor word of a proxy (R130). -/
def pxWord (home handle : Nat) : Word := BitVec.ofNat 32 (2 ^ 31 + home * 4096 + handle)

/-- PQRY to a register (R150). -/
def execPqry (d a : BitVec 7) (s : State) : Host.Outcome State Fault Refusal :=
  issue s { tags := [(a, 1)], writes := [(d, 1)], p6 := false } noTarget fun s i =>
    s.writeOne i d fun _ => match i.proxy a 0 with | some (h, k) => pxWord h k | none => 0

/-- PQRY to a predicate (R150). -/
def execPqryPred (p : BitVec 3) (a : BitVec 7) (s : State) : Host.Outcome State Fault Refusal :=
  issue s { tags := [(a, 1)], preds := [p], p6 := false } noTarget fun s i =>
    .done (s.modIss i fun g => g.putPred i.wr p.toNat (if (i.proxy a 0).isSome then ~~~0 else 0))

/-- A new proxy at a home from the lanes of a register, with their poison (R134, R150, R151). -/
def State.migrate (s : State) (i : Iss) (d a : BitVec 7) (home : Nat) : State :=
  let n := (lanesOf i.wr i.g.grant).length
  let cost := (Opd.reg a).cost i home n
  let rest := i.restCost home d 0
  let s := (s.count i.loc 4 0 1).pxBytes i (16 + cost.1 + rest.1) 0 (cost.2 + rest.2)
  let (h, s) := s.takeHandle i home
  let src := match i.proxy a 0 with | some (h0, k0) => .slot h0 k0 | none => i.valsOf a 0
  (s.send i home (.make h .move src .none .none (i.priorAt d 0) i.wr)).bindProxy i d 0 home h

/-- PMIGR of a value register without a credit, under FALLBACK: it stays in the core, its poison with it (R146, R151). -/
def State.migrateVal (s : State) (i : Iss) (d a : BitVec 7) : Act :=
  let bad := ((List.range i.g.grant).filter fun l => i.wr.getLsbD l && (i.poisonOf a 0).getLsbD l).map fun l => (i.g.win.toNat * 32 + d.toNat, l)
  .done ((s.putRegs i true [⟨d, 0, i.wr, i.rd a 0⟩]).modIss i fun g => { g with rpoison := g.rpoison ++ bad })

/-- PMIGR (R150, R151). -/
def execPmigr (d a b : BitVec 7) (s : State) : Host.Outcome State Fault Refusal :=
  issue s { reads := [(b, 1)], from_ := fromLow, tags := [(a, 1)], writes := [(d, 1)], p6 := false } noTarget fun s i =>
    let v := (i.rd b 0 i.low).toNat
    if 2 ^ 13 ≤ v ∨ v / 256 ≠ i.tile then .fault { code := 0x31 }
    else
      match i.proxy a 0 with
      | some (home, h) =>
        if home = v ∧ i.full then .done (s.shareSlot i d 0 home h)
        else
          match s.shortOf i v 1 with
          | none => .done (s.migrate i d a v)
          | some f => if s.fallback i then (s.count i.loc 4 7 1).fallbackAlu i d [0] (.reg a) .nil .nil fun _ => .move else .fault f
      | none =>
        match s.shortOf i v 1 with
        | none => .done (s.migrate i d a v)
        | some f => if s.fallback i then (s.count i.loc 4 7 1).migrateVal i d a else .fault f

end Sys2Proof.Machine
end

