-- ==== Sys2Proof/Machine/Width.lean ====
section
/-! DEFINITION. Meanings of the width, pool and window instructions (R239 to R243, R259, R260). -/

namespace Sys2Proof.Machine

/-- The arrival of an issue set at a role-collective (R242): its threads wait at the next word, and the last arrival of the
role completes it. -/
def collective (s : State) (c : Instr) : Host.Outcome State Fault Refusal :=
  issue s { guard := false, p6 := false } noTarget fun s i =>
    let s := s.modRole i.b.id i.g.role fun r => { r with
      coll := (r.coll.filter fun e => !(i.lanes.any fun l => i.thread l == e.1)) ++ i.lanes.map fun l => (i.thread l, c) }
    let s := s.modIss i fun g => ((g.modThreads i.act fun t => { t with wait := Wait.coll }).tailAt g.iset).endSet
    .settled (s.tryColl i.b.id i.g.role)

/-- WIDTH (R239, R259). -/
def execWidth (w : BitVec 2) (s : State) : Host.Outcome State Fault Refusal := collective s (.width w)
/-- WLOCK (R240, R259). -/
def execWlock (s : State) : Host.Outcome State Fault Refusal := collective s .wlock
/-- WFREE (R240, R259). -/
def execWfree (s : State) : Host.Outcome State Fault Refusal := collective s .wfree
/-- RCLAIM (R243, R259). -/
def execRclaim (n : BitVec 8) (s : State) : Host.Outcome State Fault Refusal := collective s (.rclaim n)
/-- RGIVE (R243, R259). -/
def execRgive (n : BitVec 8) (s : State) : Host.Outcome State Fault Refusal := collective s (.rgive n)

/-- WIN (R260). -/
def execWin (n : BitVec 3) (s : State) : Host.Outcome State Fault Refusal :=
  issue s { guard := false } noTarget fun s i => .done (s.modIss i fun g => { g with win := n })

end Sys2Proof.Machine
end

