-- ==== Sys2Proof/Machine/Dispatch.lean ====
section
/-! DEFINITION. The dispatch of instructions and events to their meanings. -/

namespace Sys2Proof.Machine

def exec (i : Instr) (s : State) : Host.Outcome State Fault Refusal :=
  match i with
  | .iadd w d a b => Sys2Proof.Machine.execIadd w d a b s
  | .isub w d a b => Sys2Proof.Machine.execIsub w d a b s
  | .imul d a b => Sys2Proof.Machine.execImul d a b s
  | .imulhS32 d a b => Sys2Proof.Machine.execImulhS32 d a b s
  | .iminS32 d a b => Sys2Proof.Machine.execIminS32 d a b s
  | .imaxS32 d a b => Sys2Proof.Machine.execImaxS32 d a b s
  | .imad d a b => Sys2Proof.Machine.execImad d a b s
  | .idp4S8 d a b => Sys2Proof.Machine.execIdp4S8 d a b s
  | .iaddImm w d a ki => Sys2Proof.Machine.execIaddImm w d a ki s
  | .isubImm w d a ki => Sys2Proof.Machine.execIsubImm w d a ki s
  | .imulImm d a ki => Sys2Proof.Machine.execImulImm d a ki s
  | .imulhS32Imm d a ki => Sys2Proof.Machine.execImulhS32Imm d a ki s
  | .iminS32Imm d a ki => Sys2Proof.Machine.execIminS32Imm d a ki s
  | .imaxS32Imm d a ki => Sys2Proof.Machine.execImaxS32Imm d a ki s
  | .imadImm d a ki => Sys2Proof.Machine.execImadImm d a ki s
  | .iabs d a => Sys2Proof.Machine.execIabs d a s
  | .imulhUi32 d a b => Sys2Proof.Machine.execImulhUi32 d a b s
  | .iminUi32 d a b => Sys2Proof.Machine.execIminUi32 d a b s
  | .imaxUi32 d a b => Sys2Proof.Machine.execImaxUi32 d a b s
  | .idp4Ui8 d a b => Sys2Proof.Machine.execIdp4Ui8 d a b s
  | .lea ks d a b => Sys2Proof.Machine.execLea ks d a b s
  | .and d a b => Sys2Proof.Machine.execAnd d a b s
  | .or d a b => Sys2Proof.Machine.execOr d a b s
  | .xor d a b => Sys2Proof.Machine.execXor d a b s
  | .andn d a b => Sys2Proof.Machine.execAndn d a b s
  | .shl d a b => Sys2Proof.Machine.execShl d a b s
  | .shr d a b => Sys2Proof.Machine.execShr d a b s
  | .sar d a b => Sys2Proof.Machine.execSar d a b s
  | .shf d a b => Sys2Proof.Machine.execShf d a b s
  | .andImm d a ki => Sys2Proof.Machine.execAndImm d a ki s
  | .orImm d a ki => Sys2Proof.Machine.execOrImm d a ki s
  | .xorImm d a ki => Sys2Proof.Machine.execXorImm d a ki s
  | .andnImm d a ki => Sys2Proof.Machine.execAndnImm d a ki s
  | .shlImm d a ki => Sys2Proof.Machine.execShlImm d a ki s
  | .shrImm d a ki => Sys2Proof.Machine.execShrImm d a ki s
  | .sarImm d a ki => Sys2Proof.Machine.execSarImm d a ki s
  | .shfImm d a ki => Sys2Proof.Machine.execShfImm d a ki s
  | .popc d a => Sys2Proof.Machine.execPopc d a s
  | .clz d a => Sys2Proof.Machine.execClz d a s
  | .brev d a => Sys2Proof.Machine.execBrev d a s
  | .bfxS32 d a b => Sys2Proof.Machine.execBfxS32 d a b s
  | .bfxUi32 d a b => Sys2Proof.Machine.execBfxUi32 d a b s
  | .bfi d a b => Sys2Proof.Machine.execBfi d a b s
  | .prmt d a b => Sys2Proof.Machine.execPrmt d a b s
  | .bfxS32Imm d a ki => Sys2Proof.Machine.execBfxS32Imm d a ki s
  | .bfxUi32Imm d a ki => Sys2Proof.Machine.execBfxUi32Imm d a ki s
  | .bfiImm d a ki => Sys2Proof.Machine.execBfiImm d a ki s
  | .prmtImm d a ki => Sys2Proof.Machine.execPrmtImm d a ki s
  | .icmpS32 c p a b => Sys2Proof.Machine.execIcmpS32 c p a b s
  | .icmpS32Imm c p a ki => Sys2Proof.Machine.execIcmpS32Imm c p a ki s
  | .icmpUi32 c p a b => Sys2Proof.Machine.execIcmpUi32 c p a b s
  | .icmpUi32Imm c p a ki => Sys2Proof.Machine.execIcmpUi32Imm c p a ki s
  | .plop c d h a l b => Sys2Proof.Machine.execPlop c d h a l b s
  | .pmovToPred d a => Sys2Proof.Machine.execPmovToPred d a s
  | .pmovToReg d a => Sys2Proof.Machine.execPmovToReg d a s
  | .sel p d a b => Sys2Proof.Machine.execSel p d a b s
  | .mov w d a => Sys2Proof.Machine.execMov w d a s
  | .movi d ki => Sys2Proof.Machine.execMovi d ki s
  | .moviX2 d ki => Sys2Proof.Machine.execMoviX2 d ki s
  | .fadd r d a b => Sys2Proof.Machine.execFadd r d a b s
  | .fsub r d a b => Sys2Proof.Machine.execFsub r d a b s
  | .fmul r d a b => Sys2Proof.Machine.execFmul r d a b s
  | .ffma r d a b => Sys2Proof.Machine.execFfma r d a b s
  | .fmin d a b => Sys2Proof.Machine.execFmin d a b s
  | .fmax d a b => Sys2Proof.Machine.execFmax d a b s
  | .fclass d a => Sys2Proof.Machine.execFclass d a s
  | .faddImm r d a ki => Sys2Proof.Machine.execFaddImm r d a ki s
  | .fsubImm r d a ki => Sys2Proof.Machine.execFsubImm r d a ki s
  | .fmulImm r d a ki => Sys2Proof.Machine.execFmulImm r d a ki s
  | .ffmaImm r d a ki => Sys2Proof.Machine.execFfmaImm r d a ki s
  | .fminImm d a ki => Sys2Proof.Machine.execFminImm d a ki s
  | .fmaxImm d a ki => Sys2Proof.Machine.execFmaxImm d a ki s
  | .fcmp c p a b => Sys2Proof.Machine.execFcmp c p a b s
  | .fcmpImm c p a ki => Sys2Proof.Machine.execFcmpImm c p a ki s
  | .hadd2 r t d a b => Sys2Proof.Machine.execHadd2 r t d a b s
  | .hmul2 r t d a b => Sys2Proof.Machine.execHmul2 r t d a b s
  | .hfma2 r t d a b => Sys2Proof.Machine.execHfma2 r t d a b s
  | .hmax2 t d a b => Sys2Proof.Machine.execHmax2 t d a b s
  | .rcp r d a => Sys2Proof.Machine.execRcp r d a s
  | .rsq d a => Sys2Proof.Machine.execRsq d a s
  | .sqrt r d a => Sys2Proof.Machine.execSqrt r d a s
  | .ex2 d a => Sys2Proof.Machine.execEx2 d a s
  | .lg2 d a => Sys2Proof.Machine.execLg2 d a s
  | .sin d a => Sys2Proof.Machine.execSin d a s
  | .cos d a => Sys2Proof.Machine.execCos d a s
  | .tanh d a => Sys2Proof.Machine.execTanh d a s
  | .cvt r ks d a t h x => Sys2Proof.Machine.execCvt r ks d a t h x s
  | .cvtsr x f d a b => Sys2Proof.Machine.execCvtsr x f d a b s
  | .rng d a b => Sys2Proof.Machine.execRng d a b s
  | .shfl d a b => Sys2Proof.Machine.execShfl d a b s
  | .shflx d a b => Sys2Proof.Machine.execShflx d a b s
  | .shflup d a b => Sys2Proof.Machine.execShflup d a b s
  | .shfldn d a b => Sys2Proof.Machine.execShfldn d a b s
  | .qswz d a b => Sys2Proof.Machine.execQswz d a b s
  | .qbc d a b => Sys2Proof.Machine.execQbc d a b s
  | .lbc d a b => Sys2Proof.Machine.execLbc d a b s
  | .shflImm d a ki => Sys2Proof.Machine.execShflImm d a ki s
  | .shflxImm d a ki => Sys2Proof.Machine.execShflxImm d a ki s
  | .shflupImm d a ki => Sys2Proof.Machine.execShflupImm d a ki s
  | .shfldnImm d a ki => Sys2Proof.Machine.execShfldnImm d a ki s
  | .qswzImm d a ki => Sys2Proof.Machine.execQswzImm d a ki s
  | .qbcImm d a ki => Sys2Proof.Machine.execQbcImm d a ki s
  | .lbcImm d a ki => Sys2Proof.Machine.execLbcImm d a ki s
  | .voteAll d p => Sys2Proof.Machine.execVoteAll d p s
  | .voteAny d p => Sys2Proof.Machine.execVoteAny d p s
  | .voteBallot d p => Sys2Proof.Machine.execVoteBallot d p s
  | .matchLanes d a => Sys2Proof.Machine.execMatchLanes d a s
  | .trn8B8 d a => Sys2Proof.Machine.execTrn8B8 d a s
  | .trn8B16 d a => Sys2Proof.Machine.execTrn8B16 d a s
  | .trn8B32 d a => Sys2Proof.Machine.execTrn8B32 d a s
  | .lredAddI32 d a => Sys2Proof.Machine.execLredAddI32 d a s
  | .lredAddF32 r d a => Sys2Proof.Machine.execLredAddF32 r d a s
  | .lredMinF32 d a => Sys2Proof.Machine.execLredMinF32 d a s
  | .lredMaxF32 d a => Sys2Proof.Machine.execLredMaxF32 d a s
  | .lscanAddI32 d a => Sys2Proof.Machine.execLscanAddI32 d a s
  | .lscanAddF32 r d a => Sys2Proof.Machine.execLscanAddF32 r d a s
  | .lredMinI32 d a => Sys2Proof.Machine.execLredMinI32 d a s
  | .lredMaxI32 d a => Sys2Proof.Machine.execLredMaxI32 d a s
  | .ldp p d a o => Sys2Proof.Machine.execLdp p d a o s
  | .stp d a o => Sys2Proof.Machine.execStp d a o s
  | .mat d a => Sys2Proof.Machine.execMat d a s
  | .pdrop a => Sys2Proof.Machine.execPdrop a s
  | .pqry d a => Sys2Proof.Machine.execPqry d a s
  | .pqryPred p a => Sys2Proof.Machine.execPqryPred p a s
  | .pmigr d a b => Sys2Proof.Machine.execPmigr d a b s
  | .ld w f d a o => Sys2Proof.Machine.execLd w f d a o s
  | .st w f d a o => Sys2Proof.Machine.execSt w f d a o s
  | .ldq w p d a o => Sys2Proof.Machine.execLdq w p d a o s
  | .ldsB32 w d a o => Sys2Proof.Machine.execLdsB32 w d a o s
  | .stsB32 w d a o => Sys2Proof.Machine.execStsB32 w d a o s
  | .ldsUi16 d a o => Sys2Proof.Machine.execLdsUi16 d a o s
  | .ldsS16 d a o => Sys2Proof.Machine.execLdsS16 d a o s
  | .stsB16 d a o => Sys2Proof.Machine.execStsB16 d a o s
  | .ldsUi8 d a o => Sys2Proof.Machine.execLdsUi8 d a o s
  | .ldsS8 d a o => Sys2Proof.Machine.execLdsS8 d a o s
  | .stsB8 d a o => Sys2Proof.Machine.execStsB8 d a o s
  | .lda w ks d a o => Sys2Proof.Machine.execLda w ks d a o s
  | .stl w ks d a o => Sys2Proof.Machine.execStl w ks d a o s
  | .atom w f d a ks o => Sys2Proof.Machine.execAtom w f d a ks o s
  | .atomn w f d a ks o => Sys2Proof.Machine.execAtomn w f d a ks o s
  | .atoms w f d a ks o => Sys2Proof.Machine.execAtoms w f d a ks o s
  | .fence k ks => Sys2Proof.Machine.execFence k ks s
  | .wcdrain => Sys2Proof.Machine.execWcdrain s
  | .pref a c => Sys2Proof.Machine.execPref a c s
  | .cvta d a m => Sys2Proof.Machine.execCvta d a m s
  | .cpkick a b => Sys2Proof.Machine.execCpkick a b s
  | .boinit a b => Sys2Proof.Machine.execBoinit a b s
  | .boarr a b => Sys2Proof.Machine.execBoarr a b s
  | .bowait d a => Sys2Proof.Machine.execBowait d a s
  | .stn w d a p => Sys2Proof.Machine.execStn w d a p s
  | .nfence => Sys2Proof.Machine.execNfence s
  | .relq a b => Sys2Proof.Machine.execRelq a b s
  | .pgreq d a b => Sys2Proof.Machine.execPgreq d a b s
  | .rzero d a b => Sys2Proof.Machine.execRzero d a b s
  | .rcopy d a b => Sys2Proof.Machine.execRcopy d a b s
  | .wload d a => Sys2Proof.Machine.execWload d a s
  | .wloadT d a => Sys2Proof.Machine.execWloadT d a s
  | .wswap => Sys2Proof.Machine.execWswap s
  | .accz a => Sys2Proof.Machine.execAccz a s
  | .accld w d a => Sys2Proof.Machine.execAccld w d a s
  | .accldScr a b => Sys2Proof.Machine.execAccldScr a b s
  | .accst w d a => Sys2Proof.Machine.execAccst w d a s
  | .accstScr a b => Sys2Proof.Machine.execAccstScr a b s
  | .gang a => Sys2Proof.Machine.execGang a s
  | .opfence => Sys2Proof.Machine.execOpfence s
  | .mmaC8 d a => Sys2Proof.Machine.execMmaC8 d a s
  | .mmaBf16 d a => Sys2Proof.Machine.execMmaBf16 d a s
  | .mmao d a b => Sys2Proof.Machine.execMmao d a b s
  | .mwait a => Sys2Proof.Machine.execMwait a s
  | .bra p n o => Sys2Proof.Machine.execBra p n o s
  | .call p n o => Sys2Proof.Machine.execCall p n o s
  | .brt a n => Sys2Proof.Machine.execBrt a n s
  | .callt a n => Sys2Proof.Machine.execCallt a n s
  | .ret => Sys2Proof.Machine.execRet s
  | .meet ki => Sys2Proof.Machine.execMeet ki s
  | .meetw d ki => Sys2Proof.Machine.execMeetw d ki s
  | .mpush => Sys2Proof.Machine.execMpush s
  | .mpop => Sys2Proof.Machine.execMpop s
  | .exit => Sys2Proof.Machine.execExit s
  | .nap n => Sys2Proof.Machine.execNap n s
  | .yield => Sys2Proof.Machine.execYield s
  | .bar d b => Sys2Proof.Machine.execBar d b s
  | .bara d b => Sys2Proof.Machine.execBara d b s
  | .barw b => Sys2Proof.Machine.execBarw b s
  | .cbar d b => Sys2Proof.Machine.execCbar d b s
  | .width w => Sys2Proof.Machine.execWidth w s
  | .wlock => Sys2Proof.Machine.execWlock s
  | .wfree => Sys2Proof.Machine.execWfree s
  | .rclaim n => Sys2Proof.Machine.execRclaim n s
  | .rgive n => Sys2Proof.Machine.execRgive n s
  | .win n => Sys2Proof.Machine.execWin n s
  | .srd d ks => Sys2Proof.Machine.execSrd d ks s
  | .swr d ks => Sys2Proof.Machine.execSwr d ks s
  | .launch d p => Sys2Proof.Machine.execLaunch d p s
  | .trap c => Sys2Proof.Machine.execTrap c s
  | .tret => Sys2Proof.Machine.execTret s
  | .bkpt c => Sys2Proof.Machine.execBkpt c s
  | .cntclm d t u p => Sys2Proof.Machine.execCntclm d t u p s
  | .cntrd d h t u c => Sys2Proof.Machine.execCntrd d h t u c s
  | .cntrel t u => Sys2Proof.Machine.execCntrel t u s
  | .trmark d t => Sys2Proof.Machine.execTrmark d t s
  | .endRun g y a n => Sys2Proof.Machine.execEndRun g y a n s
  | .xi x => Sys2Proof.Machine.execXi x s
  | .guard p n => Sys2Proof.Machine.execGuard p n s
  | .runSelect core part => Sys2Proof.Machine.execRunSelect core part s
  | .skipCountBoost g => Sys2Proof.Machine.execSkipCountBoost g s
  | .gapExpire g => Sys2Proof.Machine.execGapExpire g s
  | .scoreboardWriteComplete g n => Sys2Proof.Machine.execScoreboardWriteComplete g n s
  | .napExpire g => Sys2Proof.Machine.execNapExpire g s
  | .meetTimeout g target => Sys2Proof.Machine.execMeetTimeout g target s
  | .homeOperation home => Sys2Proof.Machine.execHomeOperation home s
  | .homeAnswerArrival core => Sys2Proof.Machine.execHomeAnswerArrival core s
  | .creditAckArrival core => Sys2Proof.Machine.execCreditAckArrival core s
  | .matrixOpStart core part ctx => Sys2Proof.Machine.execMatrixOpStart core part ctx s
  | .wswapTakeEffect core part ctx => Sys2Proof.Machine.execWswapTakeEffect core part ctx s
  | .matrixOpComplete core part ctx n => Sys2Proof.Machine.execMatrixOpComplete core part ctx n s
  | .copyRequestStart core => Sys2Proof.Machine.execCopyRequestStart core s
  | .copyLineLand core req line => Sys2Proof.Machine.execCopyLineLand core req line s
  | .copyOutwardWrite core req => Sys2Proof.Machine.execCopyOutwardWrite core req s
  | .wcBufferTimeout core n => Sys2Proof.Machine.execWcBufferTimeout core n s
  | .stnNameReturn core n => Sys2Proof.Machine.execStnNameReturn core n s
  | .relqInvalidate n => Sys2Proof.Machine.execRelqInvalidate n s
  | .rowOpStep n => Sys2Proof.Machine.execRowOpStep n s
  | .rowOpComplete n => Sys2Proof.Machine.execRowOpComplete n s
  | .dramRefresh tile bank => Sys2Proof.Machine.execDramRefresh tile bank s
  | .scrubRead sector found => Sys2Proof.Machine.execScrubRead sector found s
  | .launchWindowDmwr vf offset record => Sys2Proof.Machine.execLaunchWindowDmwr vf offset record s
  | .launchWindowPostedWrite vf => Sys2Proof.Machine.execLaunchWindowPostedWrite vf s
  | .fabricLaunch port vf tenant record => Sys2Proof.Machine.execFabricLaunch port vf tenant record s
  | .tokenRefill port vf => Sys2Proof.Machine.execTokenRefill port vf s
  | .fabricMemoryPacket p => Sys2Proof.Machine.execFabricMemoryPacket p s
  | .waitWordPoll launch => Sys2Proof.Machine.execWaitWordPoll launch s
  | .launchHeaderRead launch => Sys2Proof.Machine.execLaunchHeaderRead launch s
  | .launchPriorityBoost launch => Sys2Proof.Machine.execLaunchPriorityBoost launch s
  | .launchStarvationHold launch => Sys2Proof.Machine.execLaunchStarvationHold launch s
  | .blockPlace tile => Sys2Proof.Machine.execBlockPlace tile s
  | .launchComplete launch => Sys2Proof.Machine.execLaunchComplete launch s
  | .meshForeignPacket tile source => Sys2Proof.Machine.execMeshForeignPacket tile source s
  | .linkReadCompletion n answer => Sys2Proof.Machine.execLinkReadCompletion n answer s
  | .linkReadTimeout n => Sys2Proof.Machine.execLinkReadTimeout n s
  | .partidWrite tile v => Sys2Proof.Machine.execPartidWrite tile v s
  | .ctxdescWrite vf slot v => Sys2Proof.Machine.execCtxdescWrite vf slot v s
  | .resctlWrite tile n v => Sys2Proof.Machine.execResctlWrite tile n v s
  | .invPages part v => Sys2Proof.Machine.execInvPages part v s
  | .invContext part v => Sys2Proof.Machine.execInvContext part v s
  | .invPartition part v => Sys2Proof.Machine.execInvPartition part v s
  | .invCommandExecute part => Sys2Proof.Machine.execInvCommandExecute part s
  | .invCommandComplete part => Sys2Proof.Machine.execInvCommandComplete part s
  | .fqResolve part v => Sys2Proof.Machine.execFqResolve part v s
  | .fqRefuse part v => Sys2Proof.Machine.execFqRefuse part v s
  | .fqResumePxexh part v => Sys2Proof.Machine.execFqResumePxexh part v s
  | .fqheadWrite vf v => Sys2Proof.Machine.execFqheadWrite vf v s
  | .fqctlWrite vf v => Sys2Proof.Machine.execFqctlWrite vf v s
  | .victimWrite part vf => Sys2Proof.Machine.execVictimWrite part vf s
  | .vfFrameCountWrite vf burst v => Sys2Proof.Machine.execVfFrameCountWrite vf burst v s
  | .frameAgingTick => Sys2Proof.Machine.execFrameAgingTick s
  | .mapReadSector tile v => Sys2Proof.Machine.execMapReadSector tile v s
  | .mapDonateUnit tile v => Sys2Proof.Machine.execMapDonateUnit tile v s
  | .mapReclaimUnit tile v => Sys2Proof.Machine.execMapReclaimUnit tile v s
  | .mapWriteFrame tile v => Sys2Proof.Machine.execMapWriteFrame tile v s
  | .mapCommandDone tile => Sys2Proof.Machine.execMapCommandDone tile s
  | .flushFrame part v => Sys2Proof.Machine.execFlushFrame part v s
  | .flushFrameDone part => Sys2Proof.Machine.execFlushFrameDone part s
  | .pfClaimUnit u v => Sys2Proof.Machine.execPfClaimUnit u v s
  | .pfReleaseUnit u => Sys2Proof.Machine.execPfReleaseUnit u s
  | .pfAckTrace u v => Sys2Proof.Machine.execPfAckTrace u v s
  | .tenantEntryWrite port vf offset data => Sys2Proof.Machine.execTenantEntryWrite port vf offset data s
  | .registerWrite window offset v => Sys2Proof.Machine.execRegisterWrite window offset v s
  | .snapshotWindow u => Sys2Proof.Machine.execSnapshotWindow u s
  | .tracePcSample core => Sys2Proof.Machine.execTracePcSample core s
  | .reuseTagExpire tile n => Sys2Proof.Machine.execReuseTagExpire tile n s
  | .heatChargeWindow core => Sys2Proof.Machine.execHeatChargeWindow core s
  | .coneSample tile n valid temp => Sys2Proof.Machine.execConeSample tile n valid temp s
  | .damperEvaluate core => Sys2Proof.Machine.execDamperEvaluate core s
  | .thermalPowerOff => Sys2Proof.Machine.execThermalPowerOff s
  | .powerFloorUpdate watts => Sys2Proof.Machine.execPowerFloorUpdate watts s
  | .vfCapUpdate vf watts => Sys2Proof.Machine.execVfCapUpdate vf watts s
  | .voltageUpdate tile => Sys2Proof.Machine.execVoltageUpdate tile s
  | .unitGate u => Sys2Proof.Machine.execUnitGate u s
  | .unitWake u => Sys2Proof.Machine.execUnitWake u s
  | .powerOnReset fw => Sys2Proof.Machine.execPowerOnReset fw s
  | .packageReset => Sys2Proof.Machine.execPackageReset s
  | .vfFlr vf => Sys2Proof.Machine.execVfFlr vf s
  | .recoveryImageWrite fw => Sys2Proof.Machine.execRecoveryImageWrite fw s
  | .lifetimeRecordWrite => Sys2Proof.Machine.execLifetimeRecordWrite s
  | .orderlyShutdown => Sys2Proof.Machine.execOrderlyShutdown s
  | .attestRequest who => Sys2Proof.Machine.execAttestRequest who s
  | .attestReportReady who => Sys2Proof.Machine.execAttestReportReady who s
  | .bindTenantKey vf tenant key => Sys2Proof.Machine.execBindTenantKey vf tenant key s
  | .contextCreate vf slot desc policy => Sys2Proof.Machine.execContextCreate vf slot desc policy s
  | .preempt ctx => Sys2Proof.Machine.execPreempt ctx s
  | .contextSave ctx => Sys2Proof.Machine.execContextSave ctx s
  | .restore ctx part => Sys2Proof.Machine.execRestore ctx part s
  | .restoreComplete ctx => Sys2Proof.Machine.execRestoreComplete ctx s
  | .flattenContext ctx => Sys2Proof.Machine.execFlattenContext ctx s
  | .liveMigrate ctx target rev => Sys2Proof.Machine.execLiveMigrate ctx target rev s
  | .drainMigrate ctx => Sys2Proof.Machine.execDrainMigrate ctx s
  | .debugAttach ctx byPf => Sys2Proof.Machine.execDebugAttach ctx byPf s
  | .debugStop ctx => Sys2Proof.Machine.execDebugStop ctx s
  | .debugResume ctx g => Sys2Proof.Machine.execDebugResume ctx g s
  | .debugStepSet g on => Sys2Proof.Machine.execDebugStepSet g on s
  | .debugDump g op => Sys2Proof.Machine.execDebugDump g op s
  | .setColumnSize part units => Sys2Proof.Machine.execSetColumnSize part units s
  | .setLowWater ctx sectors => Sys2Proof.Machine.execSetLowWater ctx sectors s
  | .setAgingPeriod micros => Sys2Proof.Machine.execSetAgingPeriod micros s
  | .loadCodeObject ctx o => Sys2Proof.Machine.execLoadCodeObject ctx o s
  | .unloadCodeObject ctx base => Sys2Proof.Machine.execUnloadCodeObject ctx base s
  | .illegalEncoding w => Sys2Proof.Machine.execIllegalEncoding w s
  | .writePerformed n => Sys2Proof.Machine.execWritePerformed n s
  | .powerFailure => Sys2Proof.Machine.execPowerFailure s
  | .voltageDroop tile => Sys2Proof.Machine.execVoltageDroop tile s
  | .contextDestroy ctx => Sys2Proof.Machine.execContextDestroy ctx s

end Sys2Proof.Machine
end

