-- ==== Sys2Proof/Machine/Place.lean ====
section
/-! DEFINITION. A group set up to issue from a word of memory (log 5). -/

namespace Sys2Proof.Machine

/-- A context of VF 0 on partition 0 whose tables stand at a physical address. -/
def placeCtx (root : Nat) : Context :=
  { id := 1, vf := 0, part := 0, root := root, run := .running, quota := 0, quotaWait := 0, mm0 := false, mm0Wait := false, objs := [],
    frames := [], policy := [], seq := 0, low := 0, dbg := none, debugStop := false, drained := false, reported := false, answer := 0, loadAnswer := some 0, dump := none, ending := none }

/-- A role of 64 threads in groups of 16. -/
def placeRole : Role :=
  { entry := 0, threads := 64, allot := 64, minW := 16, prefW := 16, cls := 0, pmask := 0xF, grant := 16, request := none,
    locked := false, coll := [] }

/-- A block of that role on core 0, with its code at 2^36. -/
def placeBlk : Block :=
  { id := 0, ctx := 1, launch := 0, core := 0, lin := 0, coord := (0, 0, 0), dim := (1, 1, 1), csize := 1, rank := 0, cluster := 0,
    cluIdx := 0, base := 0x1000000000, irev := 1, mmrev := 1, depth := 0, scrBase := 0, scrSize := 1024, colBase := 0, colSize := 0,
    privSize := 0, trapEnt := none, drain := false, roles := [placeRole], scratch := [], absent := [], spoison := [], unfenced := [],
    priv := [], ppoison := [], bars := List.replicate 16 Barrier.init, spare := [0, 0, 0, 0] }

/-- The group of a partition of core 0 in that block. -/
def placeGroup (k : Nat) : Group := startGroup [] 0 1 0 0 placeRole k (k, 0)

/-- A state with four groups of one context, the first of which issues at code offset 0 in the slot of partition 0: the level-0
table at 0x10000, the level-1 table at 0x20000, and a page of 32 GiB that maps 2^36 to the foot of stack 0. -/
def State.setup (s : State) : State :=
  { s with
    power := .ready, agenda := [], port := 0, contexts := [placeCtx 0x10000], blocks := [placeBlk],
    clusters := [⟨0, List.replicate 8 Barrier.init⟩]
    groups := [(placeGroup 0).begin_, placeGroup 1, placeGroup 2, placeGroup 3]
    mem := wrBytes (wrBytes s.mem 0x10000 (leBytes 8 0x20001)) 0x20010 (leBytes 8 0xBA) }

/-- Whether the next step fetches a word at once. -/
def State.fetches (s : State) : Option Nat :=
  if s.power ≠ .ready ∨ s.agenda ≠ [] ∨ s.contexts.any fun c => c.ending.isSome then none
  else
    match s.issuer with
    | none => none
    | some g =>
      match s.blockAt g.block with
      | none => none
      | some b =>
        if s.damped g.core || s.capped g.core g.ctx || g.busy != 0 then none
        else
          match s.reach (tileOf g.core) g.ctx (b.base + g.here.setWidth 64) .fetch with
          | (.ok pa leaf, _) => if leaf.getLsbD 58 then none else some pa
          | (.bad _ _ _, _) => none

/-- A word placed where the next step fetches. -/
def State.withWord (s : State) (w : Word) : State :=
  let put := fun (s : State) (pa : Nat) => State.markSector { s with mem := wrBytes s.mem pa (leBytes 4 w.toNat) } (pa / 128) false
  match s.fetches with
  | some pa => put s pa
  | none => put s.setup 0

end Sys2Proof.Machine
end

