-- ==== Sys2Proof/Machine/Step.lean ====
section
/-! DEFINITION. One step of the machine, and the placing of one instruction where the next step fetches it. -/

namespace Sys2Proof.Machine

/-- A next state gone on from; a stop stays. -/
def andNext (r : Host.Outcome State Fault Refusal) (f : State → State) : Host.Outcome State Fault Refusal :=
  match r with
  | .next s => .next (f s)
  | r => r

/-- One step: an event that has fallen due, or what a partition does with its slot; without power nothing moves (R276, R346;
log 3). -/
def step (s : State) : Host.Outcome State Fault Refusal :=
  if s.power = .off then .fault .unpowered
  else
    match s.turn with
    | .event e t => t.runDue e
    | .done t => .next t
    | .select core part t => andNext (execRunSelect core part t) fun u => u.afterSelect core part
    | .illegal w t =>
      match t.issuer with
      | some g => andNext (execIllegalEncoding w t) fun u => u.afterIssue g (t.groupLoc g) none
      | none => .refused .noIssuer
    | .issue i t =>
      match t.issuer with
      | some g => andNext (exec i t) fun u => u.afterIssue g (t.groupLoc g) (some i)
      | none => .refused .noIssuer

/-- A state in which the next step fetches a word: its bytes stand where the group that issues fetches, or a group that issues
at code offset 0 is set up with them (log 5). -/
def State.withFetchWord (s : State) (_ w : Nat) : State := s.withWord (BitVec.ofNat 32 w)

end Sys2Proof.Machine
end

