-- ==== Sys2Proof/Safety.lean ====
section
/-! DEFINITION. The terms in which claims speak of one instruction: when it executes, and what it leaves. -/

namespace Sys2Proof.Machine

/-- The issue context of the group whose slot it is, if one issues. -/
def State.issueCtx (s : State) : Option Iss :=
  match s.issuer with
  | none => none
  | some g => s.issOf g

/-- An instruction that names `u` executes now, on lanes of its own: a group issues, nothing it names is pending (R40), no check of
R37, R47, R29, R78 or R340 stops it, some lane is active, system software has not refused it (R326), and no helper lane reads a
poisoned element, whose result would be a free value (R77). -/
structure Ready (s : State) (i : Iss) (u : Uses) : Prop where
  ctx : s.issueCtx = some i
  free : i.stalls u = false
  prefixes : i.prefixFault u = none
  active : i.act ≠ 0
  accepted : i.g.refused = none
  operands : i.operandFault u = none
  sighted : i.blind u = 0

/-- Every register that the instruction reads or writes holds values, no proxy (R129). -/
def Plain (i : Iss) (u : Uses) : Prop :=
  ∀ f ∈ u.reads ++ u.also ++ u.tags ++ u.writes, ∀ j < f.2, i.proxy f.1 j = none

/-- The state as an instruction's body finds it: the words that it names have been fetched ahead (R289), and a read of an unwritten
temporary has been counted (R41). -/
def counted (s : State) (i : Iss) (u : Uses) : State :=
  let s := s.look i (u.ahead i)
  if i.unwritten u then s.count i.loc 1 2 1 else s

/-- The issue set moved to the next word (R40). -/
def State.nextWord (s : State) (i : Iss) : State := s.modIss i Group.advance

/-- The value that a write to elements 0, 1 … of a vector operand gives the register numbered k, if it names it (R25, R26). -/
def vecDest (win : BitVec 3) (d : BitVec 7) (vs : List (Nat → Word)) (k : Nat) : Option (Nat → Word) :=
  let first := win.toNat * 32 + d.toNat
  if d.toNat < 96 ∧ first ≤ k then vs[k - first]? else none

/-- The value that a write gives the s register numbered k, if it names it (R30). -/
def scalarDest (d : BitVec 7) (vs : List (Nat → Word)) (k : Nat) : Option (Nat → Word) :=
  if 96 ≤ d.toNat ∧ d.toNat < 112 ∧ d.toNat - 96 ≤ k then vs[k - (d.toNat - 96)]? else none

/-- The value that a write gives the temporary numbered k, if it names it (R41). -/
def tempDest (d : BitVec 7) (vs : List (Nat → Word)) (k : Nat) : Option (Nat → Word) :=
  if 112 ≤ d.toNat ∧ d.toNat < 120 ∧ d.toNat - 112 ≤ k then vs[k - (d.toNat - 112)]? else none

/-- The value that a write gives the register of a number that counts all registers of a group, if it names it (R28, R340). -/
def keyDest (win : BitVec 3) (d : BitVec 7) (vs : List (Nat → Word)) (k : Nat) : Option (Nat → Word) :=
  match regKey win d 0 with
  | some first => if first ≤ k ∧ (first < 256 → k < 256) then vs[k - first]? else none
  | none => none

/-- Whether a write in the lanes of a mask stores in the element of a lane: an s register takes the word of the lowest active lane
(R30, R76). -/
def storesIn (grant : Nat) (act wr : Mask) (d : BitVec 7) (l : Nat) : Bool :=
  if 96 ≤ d.toNat ∧ d.toNat < 112 then (lanesOf act grant).head?.any fun l => wr.getLsbD l else wr.getLsbD l

/-- A vector register after a write in the lanes of a mask: the other lanes keep what they held (R76). -/
def lanesWritten (grant : Nat) (wr : Mask) (v : Nat → Word) (old : VReg) : VReg :=
  .val ((List.range grant).map fun l =>
    if wr.getLsbD l then v l else match old with | .val o => o.getD l 0 | .px _ _ => 0)

/-- A thread after an instruction of its group that wrote temporaries in the lanes of a mask: it has moved to the next word if it
is in the issue set; the temporaries written have their marks set (R40, R41). -/
structure ThreadWritten (t t' : Thread) (moved written : Bool) (d : BitVec 7) (vs : List (Nat → Word)) (l : Nat) : Prop where
  rest : t' = { t with pc := if moved then t.pc + 4 else t.pc, via := if moved then false else t.via, x := t'.x, xmark := t'.xmark }
  temps : ∀ k, t'.x[k]? = t.x[k]?.map fun old => match tempDest d vs k with | some v => if written then v l else old | none => old
  marks : ∀ k < 8, t'.xmark.getLsbD k = (t.xmark.getLsbD k || (written && (tempDest d vs k).isSome))

/-- A group after an instruction that wrote `vs` to the operand d and its successors in the lanes of `wr`, and nothing else: every
other register, every predicate and every other field as before; field 120 takes no write (R28, R30, R41, R76). -/
structure GroupWritten (g g' : Group) (act wr : Mask) (d : BitVec 7) (vs : List (Nat → Word)) : Prop where
  rest : g' = { g with threads := g'.threads, regs := g'.regs, sregs := g'.sregs, rpoison := g'.rpoison,
                       pos := g.pos + 1, pfx := Pfx.none, again := false, through := false }
  regs : ∀ k : Nat, g'.regs[k]? = g.regs[k]?.map fun old =>
    match vecDest g.win d vs k with | some v => lanesWritten g.grant wr v old | none => old
  sregs : ∀ k : Nat, g'.sregs[k]? = g.sregs[k]?.map fun old =>
    match scalarDest d vs k, (lanesOf act g.grant).head? with | some v, some l => if wr.getLsbD l then v l else old | _, _ => old
  threads : ∀ l : Nat, (g'.threads[l]? = none ↔ g.threads[l]? = none) ∧
    ∀ t t', g.threads[l]? = some t → g'.threads[l]? = some t' → ThreadWritten t t' (g.iset.getLsbD l) (wr.getLsbD l) d vs l
  poison : g'.rpoison = g.rpoison.filter fun e => !((keyDest g.win d vs e.1).isSome && storesIn g.grant act wr d e.2)

/-- A state after such an instruction of the issuing group: memory, every other group and everything else as before. -/
structure RegsWritten (s t : State) (i : Iss) (wr : Mask) (d : BitVec 7) (vs : List (Nat → Word)) : Prop where
  rest : t = { s with groups := t.groups }
  others : ∀ k : Nat, ∀ g : Group, s.groups[k]? = some g → g.isAt i.g.core i.g.part i.g.slot = false → t.groups[k]? = some g
  count : t.groups.length = s.groups.length
  issuer : ∀ k : Nat, ∀ g : Group, s.groups[k]? = some g → g.isAt i.g.core i.g.part i.g.slot = true →
    ∃ g', t.groups[k]? = some g' ∧ GroupWritten g g' i.act wr d vs

/-- The instruction x, which names u, gives the lanes of wr the values vs in d and its successors, and changes nothing else, whenever
it executes on values. -/
def Gives (s : State) (i : Iss) (x : Instr) (u : Uses) (wr : Mask) (d : BitVec 7) (vs : List (Nat → Word)) : Prop :=
  Ready s i u → Plain i u → ∃ t, exec x s = .next t ∧ RegsWritten (counted s i u) t i wr d vs

/-- A group after an instruction that wrote `v` to the predicate p in the lanes of `wr`, and nothing else: a write to p7 is discarded
(R31, R76). -/
structure GroupPred (g g' : Group) (wr : Mask) (p : BitVec 3) (v : Mask) : Prop where
  rest : g' = { g.advance with preds := g'.preds, rpoison := g'.rpoison }
  preds : ∀ k : Nat, g'.preds[k]? = g.preds[k]?.map fun old =>
    if k = p.toNat then (old &&& ~~~wr) ||| (v &&& wr) else old
  poison : g'.rpoison = g.rpoison.filter fun e => !(e.1 == predKey p.toNat && wr.getLsbD e.2)

/-- A state after such an instruction of the issuing group. -/
structure PredWritten (s t : State) (i : Iss) (wr : Mask) (p : BitVec 3) (v : Mask) : Prop where
  rest : t = { s with groups := t.groups }
  others : ∀ k : Nat, ∀ g : Group, s.groups[k]? = some g → g.isAt i.g.core i.g.part i.g.slot = false → t.groups[k]? = some g
  count : t.groups.length = s.groups.length
  issuer : ∀ k : Nat, ∀ g : Group, s.groups[k]? = some g → g.isAt i.g.core i.g.part i.g.slot = true →
    ∃ g', t.groups[k]? = some g' ∧ GroupPred g g' wr p v

/-- The instruction x, which names u, gives the lanes of wr the bits v in the predicate p, and changes nothing else. -/
def GivesPred (s : State) (i : Iss) (x : Instr) (u : Uses) (wr : Mask) (p : BitVec 3) (v : Mask) : Prop :=
  Ready s i u → Plain i u → ∃ t, exec x s = .next t ∧ PredWritten (counted s i u) t i wr p v

/-- The low and the high word of a 64-bit value for each lane (R25). -/
def words2 (v : Nat → Addr) : List (Nat → Word) := [fun l => (v l).setWidth 32, fun l => (v l >>> 32).setWidth 32]

/-- Two source registers and a destination. -/
def usesRR (d a b : BitVec 7) : Uses := { reads := [(a, 1), (b, 1)], writes := [(d, 1)] }
/-- A source register, an immediate and a destination. -/
def usesRI (d a : BitVec 7) : Uses := { reads := [(a, 1)], writes := [(d, 1)], xi := true }
/-- One source register and a destination. -/
def usesR (d a : BitVec 7) : Uses := { reads := [(a, 1)], writes := [(d, 1)] }
/-- Two source registers, the prior destination and the destination. -/
def usesRRD (d a b : BitVec 7) : Uses := { reads := [(a, 1), (b, 1), (d, 1)], dsrc := true, writes := [(d, 1)] }
/-- A source register, an immediate, the prior destination and the destination. -/
def usesRID (d a : BitVec 7) : Uses := { reads := [(a, 1), (d, 1)], dsrc := true, writes := [(d, 1)], xi := true }
/-- An instruction of R78, which accepts proxies. -/
def withPx (u : Uses) : Uses := { u with px := true, toPx := true }

/-- The groups of a state with the issuing one changed. -/
def groupsAfter (s : State) (i : Iss) (f : Group → Group) : List Group :=
  s.groups.map fun g => if g.isAt i.g.core i.g.part i.g.slot then f g else g

/-- Only the issuing group changes, by f. -/
def onlyGroup (s : State) (i : Iss) (f : Group → Group) : State := { s with groups := groupsAfter s i f }

/-- The number of a vector register among all a group has (R26). -/
def vecKey (i : Iss) (d : BitVec 7) : Nat := i.g.win.toNat * 32 + d.toNat

/-- A vector register replaced. -/
def withReg (g : Group) (key : Nat) (r : VReg) : Group := { g with regs := modAt g.regs key fun _ => r }

/-- A vector register that takes a new value or a proxy: no element of it is poisoned any more (R340). -/
def newReg (g : Group) (key : Nat) (r : VReg) : Group :=
  { withReg g key r with rpoison := g.rpoison.filter fun e => e.1 != key }

/-- A register or predicate named as pending (R40). -/
def withPending (g : Group) (key : Nat) (p : Pend) : Group := { g with sb := g.sb ++ [(key, p)] }

/-- The state after an instruction that did something to the machine and then moved to the next word, every group otherwise as it was. -/
structure Moved (s t : State) (i : Iss) : Prop where
  groups : t.groups = groupsAfter s i Group.advance
  contexts : t.contexts = s.contexts
  power : t.power = s.power

/-- A thread after a branch that took the lanes of `taken`: sent to its target, with its stack changed; at the next word, the tail of its
run, when it was in the issue set and was not taken (R40, R249). -/
def jumpedThread (g : Group) (taken : Mask) (tgt : Nat → Word) (stk : Nat → List Word → List Word) (l : Nat) (t : Thread) : Thread :=
  if taken.getLsbD l then { t with pc := tgt l, stack := stk l t.stack, tail := false, pos := 0, via := true }
  else if g.iset.getLsbD l then { t with pc := t.pc + 4, tail := true, pos := g.pos + 1, via := false }
  else t

/-- A state after a branch of the issuing group: its threads so, its run over, every register, every other group, memory and all else
but counters as before (R40, R249). -/
structure Jumped (s t : State) (i : Iss) (taken : Mask) (tgt : Nat → Word) (stk : Nat → List Word → List Word) : Prop where
  rest : t = { s with groups := t.groups, units := t.units, vfs := t.vfs, pfCauses := t.pfCauses }
  count : t.groups.length = s.groups.length
  others : ∀ k : Nat, ∀ g : Group, s.groups[k]? = some g → g.isAt i.g.core i.g.part i.g.slot = false → t.groups[k]? = some g
  issuer : ∀ k : Nat, ∀ g : Group, s.groups[k]? = some g → g.isAt i.g.core i.g.part i.g.slot = true → ∃ g', t.groups[k]? = some g' ∧
    g' = { g with threads := g'.threads, ptr := g'.ptr, cont := false, again := false, pos := 0, pfx := Pfx.none, busy := 0, status := g'.status } ∧
    ∀ l : Nat, g'.threads[l]? = g.threads[l]?.map (jumpedThread g taken tgt stk l)

/-- A thread at the entry of its trap handler (R330). -/
def trapThread (entry : Word) (priv : Nat) (t : Thread) : Thread :=
  { t with trapfp := BitVec.ofNat 32 priv, pc := entry, xmark := 0, pos := 0, tail := false, via := true, wait := .none }

/-- A state in which the issuing group has entered its trap handler with some lanes: window 0, every register and predicate as before, the
threads of the lanes at TRAPENT (R330). -/
structure Trapped (s t : State) (i : Iss) (entry : Word) : Prop where
  others : ∀ k : Nat, ∀ g : Group, s.groups[k]? = some g → g.isAt i.g.core i.g.part i.g.slot = false → t.groups[k]? = some g
  issuer : ∀ k : Nat, ∀ g : Group, s.groups[k]? = some g → g.isAt i.g.core i.g.part i.g.slot = true → ∃ g', t.groups[k]? = some g' ∧
    g'.regs = g.regs ∧ g'.sregs = g.sregs ∧ g'.preds = g.preds ∧ g'.win = 0 ∧ g'.status = .eligible ∧ g'.trap.isSome ∧
    ∀ l : Nat, g'.threads[l]? = g.threads[l]?.map fun th => if i.set.getLsbD l then trapThread entry i.b.privSize th else th

/-- A field of the trap frame of a lane, in its thread's private memory from PRIVSIZE on (R331). -/
def frameField (t : State) (i : Iss) (l off n : Nat) : Nat :=
  match t.blockAt i.b.id with
  | some b => leNat (rdBytes b.priv (i.thread l * 2 ^ 17 + i.b.privSize + off) n)
  | none => 0

/-- The move x answers a next state of which P holds. -/
def Becomes (x : Instr) (s : State) (P : State → Prop) : Prop := ∃ t, exec x s = .next t ∧ P t

/-- One group has become g'; every other group and everything else is as before. -/
structure GroupChanged (s t : State) (r : GroupRef) (g' : Group) : Prop where
  rest : t = { s with groups := t.groups }
  count : t.groups.length = s.groups.length
  others : ∀ k : Nat, ∀ h : Group, s.groups[k]? = some h → h.isAt r.core r.part r.slot = false → t.groups[k]? = some h
  now : t.groupAt r.core r.part r.slot = some g'

/-- Every resident block has a resident group, so that none ends with the move. -/
def AllHeld (s : State) : Prop := ∀ b ∈ s.blocks, ∃ g ∈ s.groups, g.block = b.id

/-- A context with no handler to take a fault has ended: no group and no block of it is left, and a record of kind CTXEND with the code is
the last of the fault log (R322, R334, R335). -/
structure ContextEnded (t : State) (ctx code : Nat) : Prop where
  groups : ∀ g ∈ t.groups, g.ctx ≠ ctx
  blocks : ∀ b ∈ t.blocks, b.ctx ≠ ctx
  launches : ∀ l ∈ t.launches, l.ctx ≠ ctx
  run : ∀ c, t.ctxAt ctx = some c → c.run = .ended
  record : ∃ r, t.faultLog.getLast? = some r ∧ fieldAt r 12 2 = ctx % 65536 ∧ fieldAt r 14 1 = 8 ∧ fieldAt r 15 1 = code

/-- A fault of the issuing group ends its context when this core cycle is over: of several the one of the lowest partition and slot stays (R335);
no group and no block has changed yet. -/
def ContextEnds (s t : State) (i : Iss) (code : Nat) : Prop :=
  ∀ c, s.ctxAt i.g.ctx = some c → ∃ e, t.ctxAt i.g.ctx = some { c with ending := some e } ∧ t.groups = s.groups ∧ t.blocks = s.blocks ∧
    match c.ending with
    | some old => if old.gslot ≤ i.g.gslot then e = old else e.code = code ∧ e.gslot = i.g.gslot
    | none => e.code = code ∧ e.gslot = i.g.gslot ∧ e.pc = i.pc.toNat

/-- What a trappable fault of the issuing instruction leaves (R322, R330, R331, R334, R335): its group in its handler with a frame for each lane of
the set; or its context about to end, with TRAPNEST when the group was in the handler already. -/
def FaultTaken (s t : State) (i : Iss) (code : Nat) : Prop :=
  match i.b.trapEnt, i.g.trap with
  | some entry, none => Trapped s t i entry ∧ ∀ l ∈ lanesOf i.set i.g.grant, frameField t i l 16 1 = code ∧ frameField t i l 8 4 = i.pc.toNat
  | _, none => ContextEnds s t i code
  | _, some _ => ContextEnds s t i 0x4A

/-- Every memory and table of the machine that instructions write is in its canonical form. -/
structure Canonical (s : State) : Prop where
  mem : s.mem.wf = true
  host : s.host.wf = true
  blocks : ∀ b ∈ s.blocks, b.scratch.wf = true ∧ b.priv.wf = true
  tiles : ∀ t ∈ s.tiles, tableOk 0 0 t.fsm = true ∧ tableOk 0 0 t.fmap = true
  mats : ∀ m ∈ s.mats, tableOk 0 0 m.acc = true
  turns : tableOk 0 0 s.turns = true
  life : tableOk 0 0 s.life = true
  accounts : ∀ k ∈ s.cores, ∀ a ∈ k.px, tableOk 0 0 a.used = true
  images : ∀ m ∈ s.images, (∀ b ∈ m.blocks, b.scratch.wf = true ∧ b.priv.wf = true) ∧ ∀ x ∈ m.mats, tableOk 0 0 x.acc = true

/-- The invariant of the machine: canonical memories and tables, 20 tiles of 4 cores (R1, R14), the partitions and VFs, the eight
scale-out ports, and a port counter that names a partition of a core (log 3). -/
structure Inv (s : State) : Prop where
  canonical : Canonical s
  port : s.port < 320
  cores : s.cores.length = 80
  tiles : s.tiles.length = 20
  parts : s.parts.length = 20
  vfs : s.vfs.length = 64
  ports : s.ports.length = 8

/-- A fault can be taken: the issuing group stands in its slot, its context runs, and its trap frames fit its private memory. -/
structure Faultable (s : State) (i : Iss) : Prop where
  canonical : Canonical s
  group : s.groupAt i.g.core i.g.part i.g.slot = some i.g
  context : ∃ c, s.ctxAt i.g.ctx = some c ∧ c.run ≠ .ended
  frame : i.b.privSize + 128 ≤ 2 ^ 17

end Sys2Proof.Machine
end

