-- ==== Sys2Proof/Certificates/Slice0/Obligations.lean ====
section
/-! DEFINITION. The statements for the provers. -/

open Sys2Proof Sys2Proof.Machine

/-- R80 to R83: IADD, ISUB, IMUL, IMULH, IMIN, IMAX, IMAD, IDP4, IABS and LEA, register and immediate forms, execute on values, write
the results of the tables to the written lanes of d, and change nothing else but the PCs. -/
def Obligations.IntegerResults : Prop :=
  ∀ (s : State) (i : Iss) (d a b k : BitVec 7) (f : BitVec 3),
    let A := i.rd a 0; let B := i.rd b 0; let D := i.rd d 0; let K := immI i.x k
    let one := fun (x : Instr) (u : Uses) (v : Nat → Word) => Gives s i x u i.wr d [v]
    let two := fun (x : Instr) (u : Uses) (v : Nat → Addr) => Gives s i x u i.wr d (words2 v)
    let dot := fun (byte : Word → Nat → Int) (x y z : Word) =>
      z + BitVec.ofInt 32 (byte x 0 * byte y 0 + byte x 1 * byte y 1 + byte x 2 * byte y 2 + byte x 3 * byte y 3)
    let s8 := fun (w : Word) (n : Nat) => ((w >>> (8 * n)).setWidth 8).toInt
    let ui8 := fun (w : Word) (n : Nat) => (((w >>> (8 * n)).setWidth 8).toNat : Int)
    one (.iadd 0 d a b) (withPx (usesRR d a b)) (fun l => A l + B l) ∧
    one (.iaddImm 0 d a k) (withPx (usesRI d a)) (fun l => A l + K) ∧
    one (.isub 0 d a b) (withPx (usesRR d a b)) (fun l => A l - B l) ∧
    one (.isubImm 0 d a k) (withPx (usesRI d a)) (fun l => A l - K) ∧
    one (.imul d a b) (withPx (usesRR d a b)) (fun l => A l * B l) ∧
    one (.imulImm d a k) (withPx (usesRI d a)) (fun l => A l * K) ∧
    one (.imulhS32 d a b) (usesRR d a b) (fun l => BitVec.ofInt 32 ((A l).toInt * (B l).toInt / 2 ^ 32)) ∧
    one (.imulhS32Imm d a k) (usesRI d a) (fun l => BitVec.ofInt 32 ((A l).toInt * K.toInt / 2 ^ 32)) ∧
    one (.imulhUi32 d a b) (usesRR d a b) (fun l => BitVec.ofNat 32 ((A l).toNat * (B l).toNat / 2 ^ 32)) ∧
    one (.iminS32 d a b) (withPx (usesRR d a b)) (fun l => if (A l).toInt < (B l).toInt then A l else B l) ∧
    one (.iminS32Imm d a k) (withPx (usesRI d a)) (fun l => if (A l).toInt < K.toInt then A l else K) ∧
    one (.imaxS32 d a b) (withPx (usesRR d a b)) (fun l => if (A l).toInt < (B l).toInt then B l else A l) ∧
    one (.imaxS32Imm d a k) (withPx (usesRI d a)) (fun l => if (A l).toInt < K.toInt then K else A l) ∧
    one (.iminUi32 d a b) (withPx (usesRR d a b)) (fun l => if (A l).toNat < (B l).toNat then A l else B l) ∧
    one (.imaxUi32 d a b) (withPx (usesRR d a b)) (fun l => if (A l).toNat < (B l).toNat then B l else A l) ∧
    one (.imad d a b) (usesRRD d a b) (fun l => A l * B l + D l) ∧
    one (.imadImm d a k) (usesRID d a) (fun l => A l * K + D l) ∧
    one (.idp4S8 d a b) (usesRRD d a b) (fun l => dot s8 (A l) (B l) (D l)) ∧
    one (.idp4Ui8 d a b) (usesRRD d a b) (fun l => dot ui8 (A l) (B l) (D l)) ∧
    one (.iabs d a) (usesR d a) (fun l => if (A l).toInt < 0 then 0 - A l else A l) ∧
    two (.iadd 1 d a b) { reads := [(a, 2), (b, 2)], writes := [(d, 2)] } (fun l => i.rd2 a l + i.rd2 b l) ∧
    two (.iaddImm 1 d a k) { reads := [(a, 2)], writes := [(d, 2)], xi := true } (fun l => i.rd2 a l + K.signExtend 64) ∧
    two (.isub 1 d a b) { reads := [(a, 2), (b, 2)], writes := [(d, 2)] } (fun l => i.rd2 a l - i.rd2 b l) ∧
    two (.isubImm 1 d a k) { reads := [(a, 2)], writes := [(d, 2)], xi := true } (fun l => i.rd2 a l - K.signExtend 64) ∧
    two (.lea f d a b) { reads := [(a, 2), (b, 1)], writes := [(d, 2)] }
      (fun l => i.rd2 a l + (B l).signExtend 64 * BitVec.ofNat 64 (2 ^ f.toNat))

/-- R84, R85: the logic and shift instructions, register and immediate forms: n is the count read as ui32. -/
def Obligations.LogicResults : Prop :=
  ∀ (s : State) (i : Iss) (d a b k : BitVec 7),
    let A := i.rd a 0; let B := i.rd b 0; let D := i.rd d 0; let K := immI i.x k
    let one := fun (x : Instr) (u : Uses) (v : Nat → Word) => Gives s i x u i.wr d [v]
    let shl := fun (x n : Word) => if n.toNat < 32 then BitVec.ofNat 32 (x.toNat * 2 ^ n.toNat) else 0
    let shr := fun (x n : Word) => if n.toNat < 32 then BitVec.ofNat 32 (x.toNat / 2 ^ n.toNat) else 0
    let sar := fun (x n : Word) =>
      if n.toNat < 32 then BitVec.ofInt 32 (x.toInt / 2 ^ n.toNat) else if 0 ≤ x.toInt then 0 else 0xFFFFFFFF
    let shf := fun (x n z : Word) => BitVec.ofNat 32 ((x.toNat * 2 ^ 32 + z.toNat) / 2 ^ (min n.toNat 32))
    one (.and d a b) (withPx (usesRR d a b)) (fun l => A l &&& B l) ∧
    one (.andImm d a k) (withPx (usesRI d a)) (fun l => A l &&& K) ∧
    one (.or d a b) (withPx (usesRR d a b)) (fun l => A l ||| B l) ∧
    one (.orImm d a k) (withPx (usesRI d a)) (fun l => A l ||| K) ∧
    one (.xor d a b) (withPx (usesRR d a b)) (fun l => A l ^^^ B l) ∧
    one (.xorImm d a k) (withPx (usesRI d a)) (fun l => A l ^^^ K) ∧
    one (.andn d a b) (usesRR d a b) (fun l => A l &&& ~~~B l) ∧
    one (.andnImm d a k) (usesRI d a) (fun l => A l &&& ~~~K) ∧
    one (.shl d a b) (withPx (usesRR d a b)) (fun l => shl (A l) (B l)) ∧
    one (.shlImm d a k) (withPx (usesRI d a)) (fun l => shl (A l) K) ∧
    one (.shr d a b) (withPx (usesRR d a b)) (fun l => shr (A l) (B l)) ∧
    one (.shrImm d a k) (withPx (usesRI d a)) (fun l => shr (A l) K) ∧
    one (.sar d a b) (withPx (usesRR d a b)) (fun l => sar (A l) (B l)) ∧
    one (.sarImm d a k) (withPx (usesRI d a)) (fun l => sar (A l) K) ∧
    one (.shf d a b) (usesRRD d a b) (fun l => shf (A l) (B l) (D l)) ∧
    one (.shfImm d a k) (usesRID d a) (fun l => shf (A l) K (D l))

/-- R86 to R88: POPC, CLZ, BREV, BFX, BFI and PRMT. For BFX and BFI pos = c[4:0] and len = min(c[10:5], 32 − pos); byte n of PRMT's
result comes from the bytes of d ‖ a by its selector, zeroed by ZM and then inverted by IM. -/
def Obligations.BitFieldResults : Prop :=
  ∀ (s : State) (i : Iss) (d a b k : BitVec 7),
    let A := i.rd a 0; let B := i.rd b 0; let D := i.rd d 0; let K := immI i.x k
    let one := fun (x : Instr) (u : Uses) (v : Nat → Word) => Gives s i x u i.wr d [v]
    let pos := fun (c : Word) => c.toNat % 32
    let len := fun (c : Word) => min (c.toNat / 32 % 64) (32 - pos c)
    let ufield := fun (x c : Word) => x.toNat / 2 ^ pos c % 2 ^ len c
    let sfield := fun (x c : Word) =>
      if len c ≠ 0 ∧ ufield x c / 2 ^ (len c - 1) = 1 then BitVec.ofInt 32 (ufield x c - 2 ^ len c) else BitVec.ofNat 32 (ufield x c)
    let ins := fun (x c z : Word) =>
      let m : Word := BitVec.ofNat 32 ((2 ^ len c - 1) * 2 ^ pos c)
      (z &&& ~~~m) ||| ((x <<< pos c) &&& m)
    one (.popc d a) (usesR d a) (fun l => BitVec.ofNat 32 ((List.range 32).filter (A l).getLsbD).length) ∧
    one (.clz d a) (usesR d a) (fun l => BitVec.ofNat 32 (if A l = 0 then 32 else 31 - Nat.log2 (A l).toNat)) ∧
    one (.brev d a) (usesR d a) (fun l => brevW (A l)) ∧
    (∀ (x : Word) (n : Nat), n < 32 → (brevW x).getLsbD n = x.getLsbD (31 - n)) ∧
    one (.bfxUi32 d a b) (usesRR d a b) (fun l => BitVec.ofNat 32 (ufield (A l) (B l))) ∧
    one (.bfxUi32Imm d a k) (usesRI d a) (fun l => BitVec.ofNat 32 (ufield (A l) K)) ∧
    one (.bfxS32 d a b) (usesRR d a b) (fun l => sfield (A l) (B l)) ∧
    one (.bfxS32Imm d a k) (usesRI d a) (fun l => sfield (A l) K) ∧
    one (.bfi d a b) (usesRRD d a b) (fun l => ins (A l) (B l) (D l)) ∧
    one (.bfiImm d a k) (usesRID d a) (fun l => ins (A l) K (D l)) ∧
    one (.prmt d a b) (usesRRD d a b) (fun l => prmtW (A l) (B l) (D l)) ∧
    one (.prmtImm d a k) (usesRID d a) (fun l => prmtW (A l) K (D l)) ∧
    (∀ (x c z : Word) (n : Nat), n < 4 →
      let sel := (c >>> (3 * n)).toNat % 8
      let byte := (z ++ x).extractLsb' (8 * sel) 8
      let byte := if c.getLsbD (12 + n) then 0 else byte
      (prmtW x c z).extractLsb' (8 * n) 8 = if c.getLsbD (16 + n) then ~~~byte else byte)

/-- R89, R90: ICMP and FCMP in both forms, PLOP and PMOV to a predicate write one bit for each written lane and change nothing else; a
write to p7 is discarded (R31). -/
def Obligations.PredicateResults : Prop :=
  ∀ (s : State) (i : Iss) (c p q r : BitVec 3) (a b k : BitVec 7) (hi lo : BitVec 4),
    let A := i.rd a 0; let B := i.rd b 0; let K := immI i.x k
    let bits := fun (f : Nat → Bool) => maskOf i.g.grant f
    let cmp := fun (x : Instr) (xi : Bool) (reads : List (BitVec 7 × Nat)) (f : Nat → Bool) =>
      GivesPred s i x { reads := reads, preds := [p], px := true, xi := xi } i.wr p (bits f)
    let order := fun (lt : Word → Word → Bool) (x y : Word) =>
      if c = 0 then x == y else if c = 1 then x != y else if c = 2 then lt x y else if c = 3 then !lt y x
      else if c = 4 then lt y x else !lt x y
    cmp (.icmpS32 c p a b) false [(a, 1), (b, 1)] (fun l => order (fun x y => decide (x.toInt < y.toInt)) (A l) (B l)) ∧
    cmp (.icmpS32Imm c p a k) true [(a, 1)] (fun l => order (fun x y => decide (x.toInt < y.toInt)) (A l) K) ∧
    cmp (.icmpUi32 c p a b) false [(a, 1), (b, 1)] (fun l => order (fun x y => decide (x.toNat < y.toNat)) (A l) (B l)) ∧
    cmp (.icmpUi32Imm c p a k) true [(a, 1)] (fun l => order (fun x y => decide (x.toNat < y.toNat)) (A l) K) ∧
    cmp (.fcmp c p a b) false [(a, 1), (b, 1)] (fun l => fcond c.toNat (A l) (B l)) ∧
    cmp (.fcmpImm c p a k) true [(a, 1)] (fun l => fcond c.toNat (A l) (immF i.x k)) ∧
    GivesPred s i (.plop c p hi q lo r) { preds := [q, r, c, p], psrc := [q, r, c] } i.wr p (bits fun l =>
      let bit := fun (z : BitVec 3) => if (i.g.pred z.toNat).getLsbD l then 1 else 0
      (hi ++ lo).getLsbD (bit q + 2 * bit r + 4 * bit c)) ∧
    GivesPred s i (.pmovToPred p a) { reads := [(a, 1)], preds := [p] } i.wr p (bits fun l => (A l).getLsbD 0)

/-- R91: SEL, MOV, MOVI and MOVI.x2, and PMOV to a register (R90), of values: MOV copies the 2^W registers of its operand. -/
def Obligations.MoveResults : Prop :=
  ∀ (s : State) (i : Iss) (d a b : BitVec 7) (p : BitVec 3) (w : BitVec 2) (k : BitVec 14),
    let K : Addr := match i.x with | none => k.signExtend 64 | some x => (x ++ k).signExtend 64
    Gives s i (.sel p d a b) { withPx (usesRR d a b) with preds := [p], psrc := [p] } i.wr d
      [fun l => if (i.g.pred p.toNat).getLsbD l then i.rd a 0 l else i.rd b 0 l] ∧
    Gives s i (.mov w d a) { reads := [(a, 2 ^ w.toNat)], writes := [(d, 2 ^ w.toNat)], px := true, toPx := true } i.wr d
      ((List.range (2 ^ w.toNat)).map fun j => i.rd a j) ∧
    Gives s i (.movi d k) { writes := [(d, 1)], xi := true } i.wr d [fun _ => K.setWidth 32] ∧
    Gives s i (.moviX2 d k) { writes := [(d, 2)], xi := true } i.wr d (words2 fun _ => K) ∧
    Gives s i (.pmovToReg d p) { writes := [(d, 1)], preds := [p], psrc := [p] } i.wr d
      [fun l => if (i.g.pred p.toNat).getLsbD l then 1 else 0]

/-- R92, R93: the FP32 instructions, each rounded once by r, give what the operations of FP32 give (R64 to R66), and FCLASS its mask. -/
def Obligations.FloatResults : Prop :=
  ∀ (s : State) (i : Iss) (d a b k : BitVec 7) (r : BitVec 2),
    let A := i.rd a 0; let B := i.rd b 0; let D := i.rd d 0; let K := immF i.x k
    let one := fun (x : Instr) (u : Uses) (v : Nat → Word) => Gives s i x u i.wr d [v]
    let f := fun (g : Nat → Nat → Nat) (x y : Word) => BitVec.ofNat 32 (g x.toNat y.toNat)
    let fma := fun (x y z : Word) => BitVec.ofNat 32 (Fmt.f32.fmaW r x.toNat y.toNat z.toNat)
    one (.fadd r d a b) (withPx (usesRR d a b)) (fun l => f (Fmt.f32.addW r) (A l) (B l)) ∧
    one (.faddImm r d a k) (withPx (usesRI d a)) (fun l => f (Fmt.f32.addW r) (A l) K) ∧
    one (.fsub r d a b) (withPx (usesRR d a b)) (fun l => f (Fmt.f32.subW r) (A l) (B l)) ∧
    one (.fsubImm r d a k) (withPx (usesRI d a)) (fun l => f (Fmt.f32.subW r) (A l) K) ∧
    one (.fmul r d a b) (withPx (usesRR d a b)) (fun l => f (Fmt.f32.mulW r) (A l) (B l)) ∧
    one (.fmulImm r d a k) (withPx (usesRI d a)) (fun l => f (Fmt.f32.mulW r) (A l) K) ∧
    one (.ffma r d a b) (withPx (usesRRD d a b)) (fun l => fma (A l) (B l) (D l)) ∧
    one (.ffmaImm r d a k) (withPx (usesRID d a)) (fun l => fma (A l) K (D l)) ∧
    one (.fmin d a b) (withPx (usesRR d a b)) (fun l => f (Fmt.f32.minMax false) (A l) (B l)) ∧
    one (.fminImm d a k) (withPx (usesRI d a)) (fun l => f (Fmt.f32.minMax false) (A l) K) ∧
    one (.fmax d a b) (withPx (usesRR d a b)) (fun l => f (Fmt.f32.minMax true) (A l) (B l)) ∧
    one (.fmaxImm d a k) (withPx (usesRI d a)) (fun l => f (Fmt.f32.minMax true) (A l) K) ∧
    one (.fclass d a) (usesR d a) (fun l => fclassOf (A l))

/-- R94, R95, R98, R99: the packed 16-bit instructions work on elements 0 and 1 apart, each rounded once in its own format; RCP, SQRT
and the functions with a bound give their function of a, CVTSR rounds a with the random word b, RNG mixes a key and a counter. -/
def Obligations.PackedResults : Prop :=
  ∀ (s : State) (i : Iss) (d a b : BitVec 7) (r : BitVec 2) (t x : BitVec 1) (f : BitVec 2),
    let A := i.rd a 0; let B := i.rd b 0; let D := i.rd d 0
    let one := fun (y : Instr) (u : Uses) (v : Nat → Word) => Gives s i y u i.wr d [v]
    let fmt := if t = 0 then Fmt.f16 else Fmt.bf16
    let half := fun (w : Word) (n : Nat) => w.toNat / 2 ^ (16 * n) % 65536
    let both := fun (g : Nat → Nat) => BitVec.ofNat 32 (g 0 + 65536 * g 1)
    one (.hadd2 r t d a b) (usesRR d a b) (fun l => both fun n => fmt.addW r (half (A l) n) (half (B l) n)) ∧
    one (.hmul2 r t d a b) (usesRR d a b) (fun l => both fun n => fmt.mulW r (half (A l) n) (half (B l) n)) ∧
    one (.hfma2 r t d a b) (usesRRD d a b) (fun l => both fun n => fmt.fmaW r (half (A l) n) (half (B l) n) (half (D l) n)) ∧
    one (.hmax2 t d a b) (usesRR d a b) (fun l => both fun n => fmt.minMax true (half (A l) n) (half (B l) n)) ∧
    one (.rcp r d a) (usesR d a) (fun l => rcpOf r (A l)) ∧
    one (.sqrt r d a) (usesR d a) (fun l => sqrtOf r (A l)) ∧
    one (.rsq d a) (usesR d a) (fun l => rsqOf (A l)) ∧
    one (.ex2 d a) (usesR d a) (fun l => ex2Of (A l)) ∧
    one (.lg2 d a) (usesR d a) (fun l => lg2Of (A l)) ∧
    one (.sin d a) (usesR d a) (fun l => sinCosOf false (Config.sin (A l)) (A l)) ∧
    one (.cos d a) (usesR d a) (fun l => sinCosOf true (Config.cos (A l)) (A l)) ∧
    one (.tanh d a) (usesR d a) (fun l => tanhOf (A l)) ∧
    one (.cvtsr x f d a b) (usesRR d a b) (fun l =>
      stochRound (if f = 0 then Fmt.bf16 else if f = 1 then Fmt.f16 else if f = 2 then Fmt.e4m3 else Fmt.e5m2) (x == 1) (A l) (B l)) ∧
    one (.rng d a b) (usesRR d a b) (fun l => rngOf (A l) (B l))

/-- R96, R97: CVT of values, by its three shapes. Type codes 9 to 12 are the packed ones: a pack takes the words of consecutive
registers, aligned, into one, an unpack gives each element a register of its own, any other pair converts one element. -/
def Obligations.ConvertResults : Prop :=
  ∀ (s : State) (i : Iss) (d a : BitVec 7) (r : BitVec 2) (st : BitVec 3) (t : BitVec 4) (h x : BitVec 1),
    let src := h.toNat * 8 + st.toNat
    let dst := t.toNat
    let packs := src = 0 ∧ 9 ≤ dst ∧ dst ≤ 12
    let unpacks := dst = 0 ∧ 9 ≤ src ∧ src ≤ 12
    let elems := fun (k : Nat) => if k = 9 ∨ k = 10 then 2 else 4
    let type := fun (k : Nat) => if k = 9 then 1 else if k = 10 then 2 else if k = 11 then 3 else 4
    let narrow := fun (k : Nat) (l e : Nat) => cvtElem 0 (type k) r (x == 1) (i.rd a e l)
    let uses := fun (n m : Nat) => ({ reads := [(a, n)], writes := [(d, m)], px := cvtPx src dst, toPx := cvtPx src dst } : Uses)
    (packs → a.toNat % elems dst = 0 → Gives s i (.cvt r st d a t h x) (uses (elems dst) 1) i.wr d
      [fun l => (List.range (elems dst)).foldl (fun w e => w ||| (narrow dst l e <<< (32 / elems dst * e))) 0]) ∧
    (unpacks → Gives s i (.cvt r st d a t h x) (uses 1 (elems src)) i.wr d
      ((List.range (elems src)).map fun e l =>
        let n := 32 / elems src
        cvtElem (type src) 0 r (x == 1) ((i.rd a 0 l >>> (n * e)) &&& BitVec.ofNat 32 (2 ^ n - 1)))) ∧
    (¬ packs ∧ ¬ unpacks → Gives s i (.cvt r st d a t h x) (uses 1 1) i.wr d [fun l => cvtElem src dst r (x == 1) (i.rd a 0 l)])

/-- R100, R101: SHFL, SHFLX, SHFLUP, SHFLDN, QSWZ, QBC and LBC, register and immediate forms: each written lane that has a source lane
takes a's value there, read before any write; SHFLUP and SHFLDN leave a lane without one as it was. -/
def Obligations.LaneExchange : Prop :=
  ∀ (s : State) (i : Iss) (d a b k : BitVec 7),
    let g := i.g.grant
    let B := fun (i : Iss) (l : Nat) => (i.rd b 0 l).toNat
    let K := k.toNat
    let quad := fun (l : Nat) => l / 4 * 4
    let moves := fun (x : Instr) (u : Uses) (low : Bool) (src : Iss → Nat → Option Nat) =>
      Gives s i x { u with from_ := exchangeFrom src low } (i.wr &&& maskOf g fun l => (src i l).isSome) d
        [fun l => i.rd a 0 ((src i l).getD l)]
    let reg := fun (x : Instr) (src : Iss → Nat → Option Nat) => moves x (usesRR d a b) false src
    let imm := fun (x : Instr) (src : Iss → Nat → Option Nat) => moves x (usesR d a) false src
    reg (.shfl d a b) (fun i l => some (B i l % i.g.grant)) ∧
    imm (.shflImm d a k) (fun i _ => some (K % i.g.grant)) ∧
    reg (.shflx d a b) (fun i l => some ((l ^^^ B i l) % i.g.grant)) ∧
    imm (.shflxImm d a k) (fun i l => some ((l ^^^ K) % i.g.grant)) ∧
    reg (.shflup d a b) (fun i l => if B i l ≤ l then some (l - B i l) else none) ∧
    imm (.shflupImm d a k) (fun _ l => if K ≤ l then some (l - K) else none) ∧
    reg (.shfldn d a b) (fun i l => if l + B i l < i.g.grant then some (l + B i l) else none) ∧
    imm (.shfldnImm d a k) (fun i l => if l + K < i.g.grant then some (l + K) else none) ∧
    reg (.qswz d a b) (fun i l => some (quad l + B i l / 4 ^ (l % 4) % 4)) ∧
    imm (.qswzImm d a k) (fun _ l => some (quad l + quadPerm K (l % 4))) ∧
    reg (.qbc d a b) (fun i l => some (quad l + B i l % 4)) ∧
    imm (.qbcImm d a k) (fun _ l => some (quad l + K)) ∧
    moves (.lbc d a b) (usesRR d a b) true (fun i _ => some (B i i.low % i.g.grant)) ∧
    imm (.lbcImm d a k) (fun i _ => some (K % i.g.grant))

/-- R102, R104: VOTE and MATCH count active lanes only and write the active lanes; TRN8 exchanges row and element within each run of
eight lanes: element q of lane 8g + r becomes element r of lane 8g + q. -/
def Obligations.VoteAndTranspose : Prop :=
  ∀ (s : State) (i : Iss) (d a : BitVec 7) (p : BitVec 3),
    let P := i.g.pred p.toNat
    let votes := fun (x : Instr) (v : Word) => Gives s i x { writes := [(d, 1)], preds := [p], psrc := [p] } i.act d [fun _ => v]
    let trn := fun (x : Instr) (n e : Nat) =>
      let per := 32 / e
      let elem := fun (l m : Nat) => (i.rd a (m / per) l).toNat / 2 ^ (e * (m % per)) % 2 ^ e
      Gives s i x { reads := [(a, n)], from_ := trn8From e, writes := [(d, n)] } i.wr d ((List.range n).map fun j l => BitVec.ofNat 32
        ((List.range per).foldl (fun t q => t + elem (l / 8 * 8 + (j * per + q)) (l % 8) * 2 ^ (e * q)) 0))
    votes (.voteAll d p) (if i.act &&& ~~~P = 0 then 1 else 0) ∧
    votes (.voteAny d p) (if i.act &&& P = 0 then 0 else 1) ∧
    Gives s i (.voteBallot d p) { writes := [(d, 2)], preds := [p], psrc := [p] } i.act d (words2 fun _ => i.act &&& P) ∧
    Gives s i (.matchLanes d a) { reads := [(a, 1)], from_ := fromActive, writes := [(d, 2)] } i.act d
      (words2 fun l => maskOf i.g.grant fun k => i.act.getLsbD k && i.rd a 0 k == i.rd a 0 l) ∧
    trn (.trn8B8 d a) 2 8 ∧ trn (.trn8B16 d a) 4 16 ∧ trn (.trn8B32 d a) 8 32

/-- R74, R103: LRED combines the lanes pairwise, neighbours at distance 1, 2, 4 …, and gives every active lane the whole; LSCAN forms
an inclusive prefix by doubling; a lane that is not active contributes the identity. -/
def Obligations.Reductions : Prop :=
  ∀ (s : State) (i : Iss) (d a : BitVec 7) (r : BitVec 2),
    let g := i.g.grant
    let strides := [1, 2, 4, 8, 16, 32].filter fun st => decide (st < g)
    let start := fun (e : Word) => (List.range g).map fun l => if i.act.getLsbD l then i.rd a 0 l else e
    let tree := fun (f : Word → Word → Word) (t : List Word) (st : Nat) =>
      (List.range g).map fun k => if k % (2 * st) = 0 then f (t.getD k 0) (t.getD (k + st) 0) else t.getD k 0
    let scan := fun (f : Word → Word → Word) (t : List Word) (st : Nat) =>
      (List.range g).map fun k => if st ≤ k then f (t.getD (k - st) 0) (t.getD k 0) else t.getD k 0
    let red := fun (x : Instr) (e : Word) (f : Word → Word → Word) =>
      Gives s i x { usesR d a with from_ := fromActive } i.act d [fun _ => (strides.foldl (tree f) (start e)).getD 0 0]
    let pre := fun (x : Instr) (e : Word) (f : Word → Word → Word) =>
      Gives s i x { usesR d a with from_ := fromActive } i.act d [fun l => (strides.foldl (scan f) (start e)).getD l 0]
    let fp := fun (op : Nat → Nat → Nat) (x y : Word) => BitVec.ofNat 32 (op x.toNat y.toNat)
    red (.lredAddI32 d a) 0 (fun x y => x + y) ∧
    red (.lredMinI32 d a) 0x7FFFFFFF (fun x y => if x.toInt < y.toInt then x else y) ∧
    red (.lredMaxI32 d a) 0x80000000 (fun x y => if x.toInt < y.toInt then y else x) ∧
    red (.lredAddF32 r d a) 0x80000000 (fp (Fmt.f32.addW r)) ∧
    red (.lredMinF32 d a) 0x7F800000 (fp (Fmt.f32.minMax false)) ∧
    red (.lredMaxF32 d a) 0xFF800000 (fp (Fmt.f32.minMax true)) ∧
    pre (.lscanAddI32 d a) 0 (fun x y => x + y) ∧
    pre (.lscanAddF32 r d a) 0x80000000 (fp (Fmt.f32.addW r))

/-- R150: PQRY gives the descriptor word of a proxy, bit 31 set, or 0; PQRY to a predicate says whether a names a proxy; MAT of a value
copies it; PDROP of a value does nothing, and of a proxy leaves zeros in the register and sends the release of its reference. -/
def Obligations.ProxyQueries : Prop :=
  ∀ (s : State) (i : Iss) (d a : BitVec 7) (p : BitVec 3) (home h : Nat),
    let uq : Uses := { tags := [(a, 1)], writes := [(d, 1)], p6 := false }
    let up : Uses := { tags := [(a, 1)], preds := [p], p6 := false }
    let um : Uses := { also := [(a, 1)], writes := [(d, 1)], p6 := false }
    let ud : Uses := { tags := [(a, 1)], p6 := false }
    let zero := fun (g : Group) => newReg g (g.win.toNat * 32 + a.toNat) (.val (List.replicate g.grant 0))
    (Ready s i uq → i.proxy d 0 = none → ∃ t, exec (.pqry d a) s = .next t ∧ RegsWritten (counted s i uq) t i i.wr d
      [fun _ => match i.proxy a 0 with | some (x, k) => BitVec.ofNat 32 (2 ^ 31 + x * 2 ^ 12 + k) | none => 0]) ∧
    (Ready s i up → ∃ t, exec (.pqryPred p a) s = .next t ∧
      PredWritten (counted s i up) t i i.wr p (if (i.proxy a 0).isSome then ~~~0 else 0)) ∧
    (Ready s i um → i.proxy a 0 = none → i.proxy d 0 = none →
      ∃ t, exec (.mat d a) s = .next t ∧ RegsWritten (counted s i um) t i i.wr d [i.rd a 0]) ∧
    (Ready s i ud → i.proxy a 0 = none → exec (.pdrop a) s = .next (onlyGroup (counted s i ud) i Group.advance)) ∧
    (Ready s i ud → i.proxy a 0 = some (home, h) → (∀ g ∈ s.groups, g.trap = none) → ∃ t, exec (.pdrop a) s = .next t ∧
      t.groups = groupsAfter s i (fun g => (zero g).advance) ∧
      t.homeq = s.homeq ++ [⟨home, i.g.core, i.g.ctx, i.g.gslot, .release h⟩] ∧ t.slots = s.slots ∧ t.mem = s.mem ∧ t.blocks = s.blocks)

/-- R78, R89, R91, R131, R133, R135 to R139, R143, R340: every instruction of R78 of which some source, or the prior destination that it reads, names a proxy, with the
handles and credits that it needs at the first proxy's home: the home is sent its function with the other operands, the destination is a
new proxy there, pending until the home has performed it, whose unwritten lanes take the prior destination, and a reference that the
destination held is released; a compare has its bits sent back; MOV of whole registers shares their slots; field 120 takes no write. -/
def Obligations.ProxyArithmetic : Prop :=
  ∀ (s : State) (i : Iss) (d a b k : BitVec 7) (r : BitVec 2) (p c : BitVec 3) (h x : BitVec 1) (w : BitVec 2) (home : Nat),
    let src := fun (f : BitVec 7) => match i.proxy f 0 with
      | some q => HomeSrc.slot q.1 q.2
      | none => .vals ((List.range 64).map (i.rd f 0))
    let int : HomeSrc := .vals ((List.range 64).map fun _ => immI i.x k)
    let fp : HomeSrc := .vals ((List.range 64).map fun _ => immF i.x k)
    let first := fun (fs : List (BitVec 7)) => (fs.findSome? fun f => (i.proxy f 0).map Prod.fst) = some home
    let op := fun (n : Nat) (k : HomeKind) => (⟨n, i.g.core, i.g.ctx, i.g.gslot, k⟩ : HomeOp)
    let drop := fun (j : Nat) => match i.proxy d j with | some q => [op q.1 (.release q.2)] | none => []
    let rest := fun (j : Nat) => if i.full then HomeSrc.none else match i.proxy d j with
      | some q => .slot q.1 q.2
      | none => .vals ((List.range 64).map (i.rd d j))
    let calm := ∀ g ∈ s.groups, g.trap = none
    let kept := fun (n : Nat) => ∀ e ∈ i.g.rpoison, e.1 < vecKey i d ∨ vecKey i d + n ≤ e.1
    let room := fun (n : Nat) => n ≤ s.credits i.g.core i.g.ctx home ∧ (s.acct i.g.core i.g.ctx).handles.length + n ≤ 4096
    let still := fun (t : State) => t.mem = s.mem ∧ t.blocks = s.blocks ∧ t.slots = s.slots
    let tagged := fun (g : Group) (j n : Nat) => withPending (newReg g (vecKey i d + j) (.px home n)) (vecKey i d + j) .handle
    let makes := fun (x : Instr) (u : Uses) (fs : List (BitVec 7)) (fn : HomeFn) (y z e : HomeSrc) => Ready s i u → first fs →
      (d.toNat < 96 → calm → kept 1 → room 1 → ∃ t n, exec x s = .next t ∧ n ∉ (s.acct i.g.core i.g.ctx).handles ∧ n < 4096 ∧
        t.homeq = s.homeq ++ op home (.make n fn y z e (rest 0) i.wr) :: drop 0 ∧
        t.groups = groupsAfter s i (fun g => (tagged g 0 n).advance) ∧ still t) ∧
      (d.toNat = 120 → exec x s = .next (onlyGroup (counted s i u) i Group.advance))
    let rr := withPx (usesRR d a b)
    let ri := withPx (usesRI d a)
    let two := fun (x : Instr) (fn : HomeFn) => makes x rr [a, b] fn (src a) (src b) .none
    let one := fun (x : Instr) (fn : HomeFn) => makes x ri [a] fn (src a) int .none
    let oneF := fun (x : Instr) (fn : HomeFn) => makes x ri [a] fn (src a) fp .none
    let clean := s.poison = [] ∧ (∀ k ∈ s.slots, k.poison = 0) ∧
      ∀ o ∈ s.homeq, ∀ y ∈ o.kind.needs o.home, ∀ v m, y = .came v m → m = 0
    let compares := fun (x : Instr) (xi : Bool) (kind : Nat) (reads : List (BitVec 7)) (z : HomeSrc) =>
      let u : Uses := { reads := reads.map fun f => (f, 1), preds := [p], px := true, xi := xi }
      Ready s i u → first reads → clean → ∃ t, exec x s = .next t ∧
        t.homeq = s.homeq ++ [op home (.compare c.toNat kind (src a) z i.wr i.g.part i.g.slot p.toNat)] ∧
        t.groups = groupsAfter s i (fun g => (withPending g (288 + p.toNat) .homePred).advance) ∧ still t
    let cvt := fun (st : BitVec 3) (t : BitVec 4) (h : BitVec 1) => Instr.cvt r st d a t h x
    let uc := fun (n m : Nat) => ({ reads := [(a, n)], writes := [(d, m)], px := true, toPx := true } : Uses)
    let fn := fun (st dst e : Nat) => HomeFn.cvt st dst r (x == 1) e
    let a1 : BitVec 7 := a + 1
    two (.iadd 0 d a b) .iadd ∧ one (.iaddImm 0 d a k) .iadd ∧ two (.isub 0 d a b) .isub ∧ one (.isubImm 0 d a k) .isub ∧
    two (.imul d a b) .imul ∧ one (.imulImm d a k) .imul ∧ two (.iminS32 d a b) .iminS ∧ one (.iminS32Imm d a k) .iminS ∧
    two (.imaxS32 d a b) .imaxS ∧ one (.imaxS32Imm d a k) .imaxS ∧ two (.iminUi32 d a b) .iminU ∧ two (.imaxUi32 d a b) .imaxU ∧
    two (.and d a b) .and ∧ one (.andImm d a k) .and ∧ two (.or d a b) .or ∧ one (.orImm d a k) .or ∧
    two (.xor d a b) .xor ∧ one (.xorImm d a k) .xor ∧ two (.shl d a b) .shl ∧ one (.shlImm d a k) .shl ∧
    two (.shr d a b) .shr ∧ one (.shrImm d a k) .shr ∧ two (.sar d a b) .sar ∧ one (.sarImm d a k) .sar ∧
    two (.fadd r d a b) (.fadd r) ∧ oneF (.faddImm r d a k) (.fadd r) ∧ two (.fsub r d a b) (.fsub r) ∧ oneF (.fsubImm r d a k) (.fsub r) ∧
    two (.fmul r d a b) (.fmul r) ∧ oneF (.fmulImm r d a k) (.fmul r) ∧ two (.fmin d a b) .fmin ∧ oneF (.fminImm d a k) .fmin ∧
    two (.fmax d a b) .fmax ∧ oneF (.fmaxImm d a k) .fmax ∧
    makes (.ffma r d a b) (withPx (usesRRD d a b)) [a, b, d] (.ffma r) (src a) (src b) (src d) ∧
    makes (.ffmaImm r d a k) (withPx (usesRID d a)) [a, d] (.ffma r) (src a) fp (src d) ∧
    makes (.sel p d a b) { rr with preds := [p], psrc := [p] } [a, b] (.sel (i.g.pred p.toNat)) (src a) (src b) .none ∧
    makes (cvt 0 5 0) (uc 1 1) [a] (fn 0 5 0) (src a) .none .none ∧ makes (cvt 5 0 0) (uc 1 1) [a] (fn 5 0 0) (src a) .none .none ∧
    (a.toNat % 2 = 0 → a.toNat < 112 → makes (cvt 0 10 0) (uc 2 1) [a, a1] (fn 0 10 0) (src a) (src a1) .none) ∧
    (h = 1 → Ready s i (uc 1 2) → first [a] → d.toNat < 96 → calm → kept 2 → room 2 → ∃ t n m, exec (cvt 2 0 h) s = .next t ∧
      n ∉ (s.acct i.g.core i.g.ctx).handles ∧ m ∉ (s.acct i.g.core i.g.ctx).handles ∧ n ≠ m ∧
      t.homeq = s.homeq ++ [op home (.make n (fn 10 0 0) (src a) .none .none (rest 0) i.wr),
        op home (.make m (fn 10 0 1) (src a) .none .none (rest 1) i.wr)] ++ drop 0 ++ drop 1 ∧
      t.groups = groupsAfter s i (fun g => (tagged (tagged g 0 n) 1 m).advance) ∧ still t) ∧
    (let n := 2 ^ w.toNat
      let u : Uses := { reads := [(a, n)], writes := [(d, n)], px := true, toPx := true }
      ∀ q : Nat → Nat × Nat, Ready s i u → (∀ j < n, i.proxy a j = some (q j)) → d.toNat < 96 → calm →
      (i.full = true → ∃ t, exec (.mov w d a) s = .next t ∧
        t.homeq = s.homeq ++ ((List.range n).map fun j => op (q j).1 (.ref (q j).2) :: drop j).flatten ∧
        t.groups = groupsAfter s i (fun g => ((List.range n).foldl (fun g j => newReg g (vecKey i d + j) (.px (q j).1 (q j).2)) g).advance) ∧
        still t) ∧
      (w = 0 → first [a] → kept 1 → room 1 → i.full = false → ∃ t m, exec (.mov w d a) s = .next t ∧
        m ∉ (s.acct i.g.core i.g.ctx).handles ∧
        t.homeq = s.homeq ++ op home (.make m .move (src a) .none .none (rest 0) i.wr) :: drop 0 ∧
        t.groups = groupsAfter s i (fun g => (tagged g 0 m).advance) ∧ still t)) ∧
    compares (.icmpS32 c p a b) false 0 [a, b] (src b) ∧ compares (.icmpS32Imm c p a k) true 0 [a] int ∧
    compares (.icmpUi32 c p a b) false 1 [a, b] (src b) ∧ compares (.icmpUi32Imm c p a k) true 1 [a] int ∧
    compares (.fcmp c p a b) false 2 [a, b] (src b) ∧ compares (.fcmpImm c p a k) true 2 [a] fp

/-- R148 to R151: with every lane written and a credit and a handle at the home, LDP of words that all lie at one home of the tile makes d
a proxy there and sets p; STP of a proxy sends its home the words it stores, with those whose pages keep them out of the L2; MAT of a proxy
asks its home for the lanes; PMIGR names a home of the core's own tile and shares the slot when the proxy is there already, else makes a
copy of the lanes, of a value or of a proxy at any other home. -/
def Obligations.ProxyMoves : Prop :=
  ∀ (s v : State) (i : Iss) (d a b o : BitVec 7) (p : BitVec 3) (home h : Nat) (ps : List (Nat × Place)) (words : List (Nat × Nat)),
    let addr := fun l => i.rd2 a l + BitVec.ofInt 64 (immM i.x o * 4)
    let key := vecKey i d
    let tagged := fun (g : Group) (n : Nat) => withPending (newReg g key (.px home n)) key .handle
    let op := fun (k : HomeKind) => (⟨home, i.g.core, i.g.ctx, i.g.gslot, k⟩ : HomeOp)
    let drop := match i.proxy d 0 with | some q => [(⟨q.1, i.g.core, i.g.ctx, i.g.gslot, .release q.2⟩ : HomeOp)] | none => []
    let rest := if i.full then HomeSrc.none else match i.proxy d 0 with
      | some q => .slot q.1 q.2
      | none => .vals ((List.range 64).map (i.rd d 0))
    let calm := (∀ g ∈ s.groups, g.trap = none) ∧ ∀ e ∈ i.g.rpoison, e.1 ≠ key
    let ul : Uses := { reads := [(a, 2)], writes := [(d, 1)], preds := [p], xi := true, p6 := false }
    let us : Uses := { reads := [(a, 2)], also := [(d, 1)], dsrc := true, xi := true, p6 := false }
    let um : Uses := { also := [(a, 1)], writes := [(d, 1)], p6 := false }
    let uc : Uses := { reads := [(b, 1)], from_ := fromLow, tags := [(a, 1)], writes := [(d, 1)], p6 := false }
    let places := words.map fun w => (w.1, Place.mem w.2 0 false)
    let clean := fun (v : State) => v.poison = [] ∧ (∀ k ∈ v.slots, k.poison = 0) ∧
      ∀ o ∈ v.homeq, ∀ y ∈ o.kind.needs o.home, ∀ z m, y = .came z m → m = 0
    let past := ps.filterMap fun q => match q.2 with | .mem pa w false => if bitsOf w 61 60 = 2 then some pa else none | _ => none
    (Ready s i ul → i.full = true → i.act = i.wr → i.proxy d 0 = none → d.toNat < 96 → words ≠ [] →
      (∀ w ∈ words, homeOf w.2 = home ∧ w.2 / 2 ^ 36 = i.tile) →
      ((counted s i ul).settleStp i.g.core).checkLanes i.lanes false
        (fun s l => s.checkAddr i l (addr l) 4 4 .read) = .ok ps v → (ps.map fun q => match q.2 with | .mem pa _ false => (q.1, Place.mem pa 0 false) | x => (q.1, x)) = places →
      v.shortOf i home 1 = none →
      ∃ t n, exec (.ldp p d a o) s = .next t ∧ t.homeq = v.homeq ++ [op (.load n words .none i.wr)] ∧ n < 4096 ∧
        t.groups = groupsAfter v i (fun g => ((tagged g n).putPred i.wr p.toNat (~~~0)).advance) ∧ t.blocks = v.blocks) ∧
    (Ready s i us → i.proxy d 0 = some (home, h) → clean v →
      ((counted s i us).settleStp i.g.core).checkLanes i.lanes true
        (fun s l => s.checkAddr i l (addr l) 4 4 .write) = .ok ps v → (ps.map fun q => match q.2 with | .mem pa _ false => (q.1, Place.mem pa 0 false) | x => (q.1, x)) = places →
      ∃ t, exec (.stp d a o) s = .next t ∧ t.homeq = v.homeq ++ [op (.store words past h)] ∧
        t.groups = groupsAfter v i Group.advance ∧ t.blocks = v.blocks) ∧
    (Ready s i us → Plain i us → i.b.absentOf (linesOf ps) = [] →
      ((counted s i us).settleStp i.g.core).checkLanes i.lanes true (fun s l => s.checkAddr i l (addr l) 4 4 .write) = .ok ps v →
      exec (.stp d a o) s = .next (onlyGroup (v.writeAll i ps (fun l => leBytes 4 (i.rd d 0 l).toNat) .narrow) i Group.advance)) ∧
    (Ready s i um → i.proxy a 0 = some (home, h) → i.proxy d 0 = none → d.toNat < 96 → key < 256 → clean s →
      ∃ t, exec (.mat d a) s = .next t ∧ t.homeq = s.homeq ++ [op (.bring h i.wr i.g.part i.g.slot key)] ∧
        t.groups = groupsAfter s i (fun g => (withPending g key .matWords).advance) ∧ t.mem = s.mem ∧ t.blocks = s.blocks) ∧
    (Ready s i uc → (i.rd b 0 i.low).toNat = home → home < 2 ^ 13 → home / 256 = i.tile → calm → d.toNat < 96 →
      (i.full = true → i.proxy a 0 = some (home, h) → ∃ t, exec (.pmigr d a b) s = .next t ∧ t.homeq = s.homeq ++ op (.ref h) :: drop ∧
        t.groups = groupsAfter s i (fun g => (newReg g key (.px home h)).advance) ∧ t.mem = s.mem) ∧
      (∀ x : HomeSrc, ((∃ q, i.proxy a 0 = some q ∧ x = .slot q.1 q.2 ∧ ¬ (q.1 = home ∧ i.full = true)) ∨
          (i.proxy a 0 = none ∧ (∀ n, regKey i.g.win a 0 = some n → ∀ e ∈ i.g.rpoison, e.1 ≠ n) ∧ x = .vals ((List.range 64).map (i.rd a 0)))) →
        s.shortOf i home 1 = none → ∃ t n, exec (.pmigr d a b) s = .next t ∧ n < 4096 ∧
          t.homeq = s.homeq ++ op (.make n .move x .none .none rest i.wr) :: drop ∧
          t.groups = groupsAfter s i (fun g => (tagged g n).advance) ∧ t.mem = s.mem))

/-- R54, R161, R165, R189: the LDS forms read A bytes a lane, little-endian, from the scratchpad or, from offset 2^20 on, from the column
memory at the core's range of its stack, extend what is narrower than a register, and change no register but d and no byte, given
offsets in range and aligned, lines present and bytes not poisoned. -/
def Obligations.ScratchLoads : Prop :=
  ∀ (s : State) (i : Iss) (d a o : BitVec 7) (w : BitVec 2),
    let load := fun (x : Instr) (regs n : Nat) (ext : Nat → Word) =>
      let u : Uses := { reads := [(a, 1)], writes := [(d, regs)], xi := true }
      let s0 := (counted s i u).settleStp i.g.core
      let off := fun (l : Nat) => ((i.rd a 0 l).toNat : Int) + immM i.x o * n
      let byte := fun (l k : Nat) =>
        if off l < 0x100000 then rdByte i.b.scratch ((off l).toNat + k)
        else rdByte s0.mem (colPa i.g.core (i.b.colBase + ((off l).toNat - 0x100000)) + k)
      let value := fun (l : Nat) => if l ∈ i.lanes then (List.range n).foldl (fun v k => v + (byte l k).toNat * 256 ^ k) 0 else 0
      Ready s i u → Plain i u → i.act = i.wr →
      (∀ l ∈ i.lanes, 0 ≤ off l ∧ off l % n = 0 ∧
        if off l < 0x100000 then off l + n ≤ i.b.scrSize ∧ ((off l).toNat / 128) ∉ i.b.absent ∧ i.b.poisonedAt (off l).toNat n = false
        else off l < 2 ^ 32 ∧ off l + n ≤ 0x100000 + i.b.colSize ∧
          s0.colBad i.g.core (i.b.colBase + ((off l).toNat - 0x100000)) n = false) →
      ∃ e t, exec x s = .next t ∧ e.groups = s.groups ∧ e.mem = s0.mem ∧ e.host = s0.host ∧ e.blocks = s.blocks ∧
        ((∀ l ∈ i.lanes, off l < 0x100000) → e = s0.dropReads i) ∧ RegsWritten e t i i.wr d
        (if regs = 1 then [fun l => ext (value l)] else (List.range regs).map fun j l => BitVec.ofNat 32 (value l / 2 ^ (32 * j)))
    load (.ldsB32 w d a o) (2 ^ w.toNat) (4 * 2 ^ w.toNat) (BitVec.ofNat 32) ∧
    load (.ldsUi16 d a o) 1 2 (BitVec.ofNat 32) ∧
    load (.ldsS16 d a o) 1 2 (fun v => (BitVec.ofNat 16 v).signExtend 32) ∧
    load (.ldsUi8 d a o) 1 1 (BitVec.ofNat 32) ∧
    load (.ldsS8 d a o) 1 1 (fun v => (BitVec.ofNat 8 v).signExtend 32)

/-- R183, R189: the STS forms store the low A bytes of d in each active lane at its offset; of lanes that name one byte the highest
supplies it. Every other byte of scratchpad, of device memory with the columns in it, of private and host memory and every register is
as before; no copy request sends bytes out of the block, and a byte of a barrier object that an accepted one names is not spoken of
(R173, R204). -/
def Obligations.ScratchStores : Prop :=
  ∀ (s : State) (i : Iss) (d a o : BitVec 7) (w : BitVec 2),
    let store := fun (x : Instr) (regs n : Nat) =>
      let u : Uses := { reads := [(a, 1), (d, regs)], dsrc := true, xi := true }
      let s0 := (counted s i u).settleStp i.g.core
      let off := fun (l : Nat) => ((i.rd a 0 l).toNat : Int) + immM i.x o * n
      let byte := fun (l k : Nat) => ((i.rd d (k / 4) l) >>> (8 * (k % 4))).setWidth 8
      let pa := fun (l : Nat) => colPa i.g.core (i.b.colBase + ((off l).toNat - 0x100000))
      let last := fun (low : Bool) (base : Nat → Nat) (x : Nat) =>
        (i.lanes.filter fun l => (decide (off l < 0x100000) == low) && decide (base l ≤ x) && decide (x < base l + n)).getLast?
      Ready s i u → Canonical s → Plain i u → (∀ k ∈ s.cores, ∀ r ∈ k.reqs ++ k.sent, r.block = i.b.id → r.out = false) →
      (∀ l ∈ i.lanes, 0 ≤ off l ∧ off l % n = 0 ∧
        if off l < 0x100000 then off l + n ≤ i.b.scrSize ∧ ((off l).toNat / 128) ∉ i.b.absent
        else off l < 2 ^ 32 ∧ off l + n ≤ 0x100000 + i.b.colSize) →
      ∃ t b, exec x s = .next t ∧ t.blockAt i.b.id = some b ∧
        (∀ x, (∀ k ∈ s0.cores, ∀ r ∈ k.reqs, r.block = i.b.id → x < r.bobj ∨ r.bobj + 8 ≤ x) →
          rdByte b.scratch x = match last true (fun l => (off l).toNat) x with
            | some l => byte l (x - (off l).toNat)
            | none => rdByte i.b.scratch x) ∧
        (∀ x, rdByte t.mem x = match last false pa x with
          | some l => byte l (x - pa l)
          | none => rdByte s0.mem x) ∧
        b.priv = i.b.priv ∧ (∀ n, n ≠ i.b.id → t.blockAt n = s.blockAt n) ∧
        t.host = s.host ∧ t.groups = groupsAfter s i Group.advance
    store (.stsB32 w d a o) (2 ^ w.toNat) (4 * 2 ^ w.toNat) ∧ store (.stsB16 d a o) 1 2 ∧ store (.stsB8 d a o) 1 1

/-- R54, R182, R183, R186, R187, R190: LD, LDA and LDQ, once the checks of R184 have found the places of the active lanes: each lane's
destination takes the bytes that it reads there, narrow elements extended; LDA acquires at its scope after its reads, unless every lane
is in its private window; LDQ reads 0 and clears p in a lane that cannot be read. -/
def Obligations.GenericLoads : Prop :=
  ∀ (s v v' : State) (i : Iss) (d a o : BitVec 7) (w : BitVec 2) (f : BitVec 3) (p : BitVec 3) (ps : List (Nat × Place))
    (vs : List (Nat × Nat)) (bad : List Nat),
    let addr := fun (n l : Nat) => i.rd2 a l + BitVec.ofInt 64 (immM i.x o * n)
    let value := fun (vs : List (Nat × Nat)) (l : Nat) => match vs.find? fun e => e.1 == l with | some e => e.2 | none => 0
    let size := if f.toNat < 2 then 1 else if f.toNat < 4 then 2 else 4
    let n := size * 2 ^ w.toNat
    let m := 4 * 2 ^ w.toNat
    let chk := fun (n : Nat) (s : State) (l : Nat) => s.checkAddr i l (addr n l) n n .read
    let ext := fun (x : Nat) =>
      if f.toNat = 1 then (BitVec.ofNat 8 x).signExtend 32 else if f.toNat = 3 then (BitVec.ofNat 16 x).signExtend 32 else BitVec.ofNat 32 x
    let words := fun (vs : List (Nat × Nat)) => (List.range (2 ^ w.toNat)).map fun j (l : Nat) => BitVec.ofNat 32 (value vs l / 2 ^ (32 * j))
    let ul : Uses := { reads := [(a, 2)], writes := [(d, 2 ^ w.toNat)], xi := true }
    let uq : Uses := { ul with preds := [p] }
    let s0 := fun (u : Uses) => (counted s i u).settleStp i.g.core
    (f.toNat ≤ 5 → (f.toNat < 4 → w = 0) → (∀ e ∈ vs, e.2 < 2 ^ (8 * n)) → Ready s i ul → Plain i ul → i.act = i.wr →
      (s0 ul).checkLanes i.lanes false (chk n) = .ok ps v → i.b.absentOf (linesOf ps) = [] → v.linkMissing i ps n = [] →
      v.readAll i ps n (f != 5) = (vs, [], v') →
      ∃ t, exec (.ld w f d a o) s = .next t ∧
        RegsWritten (v'.dropReads i) t i i.wr d (if f.toNat < 4 then [fun l => ext (value vs l)] else words vs)) ∧
    (Ready s i ul → Plain i ul → i.act = i.wr →
      (s0 ul).checkLanes i.lanes false (chk m) = .ok ps v → i.b.absentOf (linesOf ps) = [] → v.linkMissing i ps m = [] →
      (if 3 ≤ v.scopeOf i.g.ctx f.toNat then v.toSlice i m ps else v).readAll i ps m true = (vs, [], v') →
      ∃ t, exec (.lda w f d a o) s = .next t ∧
        RegsWritten (if hasScope ps then (v'.dropReads i).acquireAt i f.toNat else v'.dropReads i) t i i.wr d (words vs)) ∧
    (Ready s i uq → Plain i uq → i.act = i.wr →
      i.lanes.foldl (fun (acc : List (Nat × Place) × State) l =>
        match chk m acc.2 l with
        | (.ok q, s) => (acc.1 ++ [(l, q)], s)
        | (_, s) => (acc.1, s)) ([], s0 uq) = (ps, v) →
      i.b.absentOf (linesOf ps) = [] → v.linkMissing i ps m = [] → v.readAll i ps m true = (vs, bad, v') →
      let good := vs.filter fun e => !bad.contains e.1
      let ok := maskOf 64 fun l => good.any fun e => e.1 == l
      ∃ r, RegsWritten ((v'.dropReads i).count i.loc 8 3 (i.lanes.filter fun l => !ok.getLsbD l).length).fresh.2 r i i.wr d (words good) ∧
        exec (.ldq w p d a o) s = .next (onlyGroup r i fun g => g.putPred i.wr p.toNat ok))

/-- R183, R188, R190: ST and STL, once the checks of R184 have found the places of the active lanes, write each lane's bytes there in
ascending lane order; STL releases at its scope first, unless every lane is in its private window. Neither changes a register. -/
def Obligations.GenericStores : Prop :=
  ∀ (s v : State) (i : Iss) (d a o : BitVec 7) (w : BitVec 2) (f : BitVec 3) (ps : List (Nat × Place)),
    let addr := fun (n l : Nat) => i.rd2 a l + BitVec.ofInt 64 (immM i.x o * n)
    let bytes := fun (n l : Nat) => (List.range n).map fun k => ((i.rd d (k / 4) l) >>> (8 * (k % 4))).setWidth 8
    let chk := fun (n : Nat) (s : State) (l : Nat) => s.checkAddr i l (addr n l) n n .write
    let size := if f.toNat = 0 then 1 else if f.toNat = 2 then 2 else 4
    let n := size * 2 ^ w.toNat
    let m := 4 * 2 ^ w.toNat
    let u : Uses := { reads := [(a, 2), (d, 2 ^ w.toNat)], dsrc := true, xi := true }
    let s0 := (counted s i u).settleStp i.g.core
    ((f = 0 ∨ f = 2 ∨ f = 4 ∨ f = 5 ∨ f = 6) → (f.toNat < 4 → w = 0) → Ready s i u → Plain i u →
      s0.checkLanes i.lanes true (chk n) = .ok ps v → i.b.absentOf (linesOf ps) = [] →
      exec (.st w f d a o) s = .next (onlyGroup
        (v.writeAll i ps (bytes n) (if f = 5 then .nt else if f = 6 then .wc else .narrow)) i Group.advance)) ∧
    (Ready s i u → Plain i u → s0.checkLanes i.lanes true (chk m) = .ok ps v → i.b.absentOf (linesOf ps) = [] →
      exec (.stl w f d a o) s = .next (onlyGroup
        ((if hasScope ps then v.release_ i f.toNat else v).writeAll i ps (bytes m) (if 2 ≤ f.toNat then .wide else .narrow)) i Group.advance))

/-- R214: what a thread has stored at a place, by any kind of store, it reads there next, whatever it had buffered before; L1 sectors and
write-combining buffers of 128 bytes are the invariant that premises ask for. -/
def Obligations.StoreThenLoad : Prop :=
  ∀ (s : State) (i : Iss) (b : Block) (l pa off : Nat) (w : Addr) (name : Bool) (bs : List Byte) (kind : StoreKind),
    Canonical s → s.blockAt i.b.id = some b → i.g.core < s.cores.length →
    (∀ x ∈ (s.coreAt i.g.core).l1, x.data.length = 128) →
    (∀ x ∈ (s.coreAt i.g.core).wc, x.addr % 128 = 0 ∧ x.data.length = 128) →
    (pa % 128 + bs.length ≤ 128 →
      (((s.writePlace i l (.mem pa w name) bs kind).readPlace i l (.mem pa w name) bs.length false).1).1 = bs) ∧
    (((s.writePlace i l (.priv off) bs kind).readPlace i l (.priv off) bs.length false).1).1 = bs ∧
    (((s.writePlace i l (.col off) bs kind).readPlace i l (.col off) bs.length false).1).1 = bs ∧
    ((∀ k ∈ s.cores, ∀ r ∈ k.reqs, meets r.bobj 8 off bs.length = false) →
      (((s.writePlace i l (.scr off) bs kind).readPlace i l (.scr off) bs.length false).1).1 = bs)

/-- R167: a store to device memory of a thread's core that holds no other write back changes, at the core, the bytes stored and no other,
in memory nothing outside the 128-byte sector, and nothing at another core, in host memory, in a block or in a register; the L1 has the
sector or room for it. -/
def Obligations.StoreFrame : Prop :=
  ∀ (s : State) (i : Iss) (l pa : Nat) (w : Addr) (name : Bool) (bs : List Byte) (kind : StoreKind),
    let t := s.writePlace i l (.mem pa w name) bs kind
    Canonical s → i.g.core < s.cores.length → s.inflight = [] → (s.coreAt i.g.core).wc = [] →
    (∀ x ∈ (s.coreAt i.g.core).l1, x.data.length = 128) →
    ((s.sector i.g.core pa).isSome ∨ pa / 1024 ∈ (s.coreAt i.g.core).setLines pa ∨ ((s.coreAt i.g.core).setLines pa).length < 8) →
    pa % 128 + bs.length ≤ 128 → bs.length ≤ 32 →
    (∀ q, (q < pa ∨ pa + bs.length ≤ q) → ((t.readPlace i l (.mem q w name) 1 false).1).1 = ((s.readPlace i l (.mem q w name) 1 false).1).1) ∧
    (∀ q, q / 128 ≠ pa / 128 → rdByte t.mem q = rdByte s.mem q) ∧
    (∀ c, c ≠ i.g.core → t.coreAt c = s.coreAt c) ∧
    t.host = s.host ∧ t.blocks = s.blocks ∧ t.groups = s.groups

/-- R191 to R194: ATOM, ATOMN and ATOMS apply the operation of each active lane in some order of the lanes, ascending for ATOMS and where
no two lanes name one place, after a release and before an acquire as the ordering says, unless every lane is in its private window; ATOM and ATOMS give each active lane the value
that it found, ATOMN writes no register. No place of a lane is poisoned, and the host takes what is sent to it (R342, R389). -/
def Obligations.AtomicResults : Prop :=
  ∀ (s v : State) (i : Iss) (d a : BitVec 7) (w : BitVec 2) (f scope : BitVec 3) (ord : BitVec 2) (ps : List (Nat × Place)),
    let regs := if f = 7 then 2 else 1
    let u := fun (dest : Bool) => ({ reads := [(a, 2), (d, regs)], dsrc := true, writes := if dest then [(d, 1)] else [] } : Uses)
    let asked := (v.linkRefused ps).2
    let rel := if 2 ≤ ord.toNat ∧ hasScope ps then asked.release_ i scope.toNat else asked
    let run := fun (order : List Nat) (n : Nat) => order.foldl (fun (acc : List (Nat × Nat) × State) l =>
      match ps.find? fun q => q.1 == l with
      | some q =>
        let r := acc.2.atomAt i l q.2 scope.toNat f.toNat (i.rd d 0 l) (i.rd d 1 l)
        (acc.1 ++ [(l, r.1.toNat)], r.2)
      | none => acc) ([], { rel with free := n })
    let after := fun (t : State) => if (ord = 1 ∨ ord = 3) ∧ hasScope ps then t.acquireAt i scope.toNat else t
    let ready := fun (dest : Bool) => Ready s i (u dest) ∧ Plain i (u dest) ∧
      ((counted s i (u dest)).settleStp i.g.core).checkLanes i.lanes true (atomCheck i f.toNat a) = .ok ps v ∧
      i.b.absentOf (linesOf ps) = [] ∧ (v.linkRefused ps).1 = [] ∧ ∀ q ∈ ps, asked.atomPoison i q.2 scope.toNat = false
    let distinct := (ps.map Prod.snd).Nodup
    (ready true → ∃ t order n, order.Perm (ps.map Prod.fst) ∧ (distinct → order = ps.map Prod.fst) ∧
      exec (.atom w f d a scope ord) s = .next t ∧
      RegsWritten (after (run order n).2) t i i.act d [fun l => BitVec.ofNat 32 (valueOf (run order n).1 l)]) ∧
    (ready false → ∃ order n, order.Perm (ps.map Prod.fst) ∧ (distinct → order = ps.map Prod.fst) ∧
      exec (.atomn w f d a scope ord) s = .next (onlyGroup (after (run order n).2) i Group.advance)) ∧
    (ready true → ∃ t n, exec (.atoms w f d a scope ord) s = .next t ∧
      RegsWritten (after (run (ps.map Prod.fst) n).2) t i i.act d [fun l => BitVec.ofNat 32 (valueOf (run (ps.map Prod.fst) n).1 l)])

/-- R192: what one lane's atomic finds and leaves: the new value by the table, the old value as the thread read the place (at a core that
holds no write back; at L2 for a far place, which the core's L1 does not hold). -/
def Obligations.AtomicTable : Prop :=
  (∀ (f : Nat) (old x y : Word), f < 8 → atomNew f old x y =
    if f = 0 then old + x else if f = 1 then BitVec.ofNat 32 (Fmt.f32.addW 0 old.toNat x.toNat)
    else if f = 2 then (if old.toInt < x.toInt then old else x) else if f = 3 then (if old.toInt < x.toInt then x else old)
    else if f = 4 then old &&& x else if f = 5 then old ||| x else if f = 6 then x else if old = x then y else old) ∧
  (∀ (s : State) (i : Iss) (b : Block) (l pa off scope f : Nat) (w : Addr) (name : Bool) (x y : Word),
    let ok := fun (p : Place) =>
      let r := s.atomAt i l p scope f x y
      r.1 = BitVec.ofNat 32 (leNat ((s.readPlace i l p 4 false).1).1) ∧
        ((r.2.readPlace i l p 4 false).1).1 = leBytes 4 (atomNew f r.1 x y).toNat
    let near := name = false ∧ bitsOf w 63 62 = 0 ∧ bitsOf w 61 60 = 0 ∧ scope < 2 ∧ s.mm0 i.g.ctx = false ∧ i.g.through = false
    Canonical s → s.blockAt i.b.id = some b → i.g.core < s.cores.length → s.inflight = [] → (s.coreAt i.g.core).wc = [] →
    (∀ z ∈ (s.coreAt i.g.core).l1, z.data.length = 128) →
    ok (.priv off) ∧ ok (.col off) ∧
    ((∀ k ∈ s.cores, ∀ r ∈ k.reqs, meets r.bobj 8 off 4 = false) → ok (.scr off)) ∧
    let room := (s.sector i.g.core pa).isSome ∨ pa / 1024 ∈ (s.coreAt i.g.core).setLines pa ∨ ((s.coreAt i.g.core).setLines pa).length < 8
    (pa % 128 + 4 ≤ 128 → (near ∧ room) ∨ (¬ near ∧ s.sector i.g.core pa = none) →
      ok (.mem pa w name)))

/-- R168, R195, R196, R213, R216, R222, R229: FENCE of kind 2 or 3 leaves none of its threads' plain writes in flight, nor at .sys any of their
buffered or .nt writes; of every kind at .clu and wider it leaves no dirty narrow sector in the core's L1, and of kind 1 or 3 no sector there
that the core has not written whole; every kind waits for the core's home operations and the group's names. That kind 1 acquires and kind 2
releases is the model's choice (log 26), and so is that a fence reaches the sectors of every context of the core (log 63). WCDRAIN performs its threads' .wc and .nt writes. PREF changes no register, no block and no host memory. -/
def Obligations.FenceResults : Prop :=
  ∀ (s : State) (i : Iss) (k : BitVec 2) (f : BitVec 3) (a : BitVec 7) (c : BitVec 1),
    let u : Uses := { guard := false }
    let up : Uses := { reads := [(a, 2)] }
    let named := (counted s i u).returnNames i.g.core fun n => n.part == i.g.part && n.slot == i.g.slot
    let mine := fun (t : Nat) => ∃ l ∈ i.lanes, i.tid l = t
    let wide := 2 ≤ f.toNat ∨ s.mm0 i.g.ctx = true
    (Ready s i u → k ≠ 0 → ∃ t, exec (.fence k f) s = .next t ∧
      t.groups = groupsAfter named i Group.advance ∧ (∀ o ∈ t.homeq, o.core ≠ i.g.core) ∧
      (k ≠ 1 → (∀ w ∈ t.inflight, w.core = i.g.core → mine w.thread → w.weak = true ∧ f ≠ 4) ∧
        (f = 4 → ∀ w ∈ (t.coreAt i.g.core).wc, ∀ h ∈ w.threads, ¬ mine h)) ∧
      (wide → ∀ x ∈ (t.coreAt i.g.core).l1, x.wide = false → x.dirty = false) ∧
      (k ≠ 2 → wide → ∀ x ∈ (t.coreAt i.g.core).l1, x.mask = BitVec.allOnes 128)) ∧
    (Ready s i u → ∃ t, exec .wcdrain s = .next t ∧ t.groups = groupsAfter s i Group.advance ∧
      (∀ w ∈ (t.coreAt i.g.core).wc, ∀ h ∈ w.threads, ¬ mine h) ∧ (∀ w ∈ t.inflight, w.core = i.g.core → w.weak = true → ¬ mine w.thread)) ∧
    (Ready s i up → ∃ t, exec (.pref a c) s = .next t ∧ t.groups = groupsAfter s i Group.advance ∧
      t.host = s.host ∧ t.blocks = s.blocks ∧ ∀ w ∈ t.inflight, w ∈ s.inflight)

/-- R198: CVTA by its modes 0 to 4, of generic addresses and offsets that raise no fault in an active lane. -/
def Obligations.CvtaResults : Prop :=
  ∀ (s : State) (i : Iss) (d a m : BitVec 7),
    let top := fun (x : Addr) => x.toNat / 2 ^ 56
    let window := fun (x : Addr) => top x = 0xC3 ∨ top x = 0xC4 ∨ top x = 0xC5
    let global := fun (x : Addr) => x.toNat < 2 ^ 56 ∨ 2 ^ 64 - 2 ^ 56 ≤ x.toNat
    let num := fun (v : Nat) => (BitVec.ofNat 64 v : Addr)
    let gives := fun (n : Nat) (ok : Addr → Prop) (f : Addr → Addr) =>
      m.toNat = n → (∀ l ∈ i.lanes, ok (i.rd2 a l)) →
        Gives s i (.cvta d a m) { reads := [(a, 2)], writes := [(d, 2)] } i.wr d (words2 fun l => f (i.rd2 a l))
    gives 0 (fun x => window x ∧ (top x = 0xC4 → x.toNat % 2 ^ 56 < 2 ^ 33) ∨ global x)
      (fun x => if top x = 0xC4 then x &&& 0x1FFFFFFFF else if window x then num (x.toNat % 2 ^ 56) else x) ∧
    gives 1 (fun x => window x ∨ global x) (fun x => if window x then num (top x - 0xC0) else 0) ∧
    gives 2 (fun x => x.toNat < 2 ^ 33) (fun x => num (0xC4 * 2 ^ 56 + x.toNat % 2 ^ 33)) ∧
    gives 3 (fun x => x.toNat < 2 ^ 56) (fun x => num (0xC3 * 2 ^ 56 + x.toNat % 2 ^ 56)) ∧
    gives 4 (fun x => global x) (fun x => x)

/-- R162, R173, R203, R205: CPKICK of a count of 0 does nothing; of 1 to 32 well-formed records, aligned and in scratchpad, with room in
the queue of 64, it adds them in order, reads their gather lists and clears the presence of the lines that inward ones will fill. BOINIT
writes an object, BOARR takes its operand from COUNT and marks UNDER below zero; CPKICK and BOARR release, so the group's names return; BOWAIT of a finished object acquires and gives its
bits, and of another one parks. -/
def Obligations.CopyAndObjects : Prop :=
  ∀ (s : State) (i : Iss) (d a b : BitVec 7),
    let u : Uses := { reads := [(a, 1), (b, 1)], from_ := fromLow }
    let uw : Uses := { reads := [(a, 1)], from_ := fromLow, writes := [(d, 1)], guard := false }
    let named := (counted s i u).returnNames i.g.core fun n => n.part == i.g.part && n.slot == i.g.slot
    let o := (i.rd a 0 i.low).toNat
    let n := (i.rd b 0 i.low).toNat
    let m := i.b.scratch
    let list := fun (r : CopyReq) (k : Nat) =>
      if r.gat then (List.range (r.e r.gdim)).map fun j => (BitVec.ofNat 32 (leNat (rdBytes m (glistOff m (o + 64 * k) + 4 * j) 4))).toInt
      else []
    let recs := (List.range n).map fun k =>
      let r := parseCopy i m (o + 64 * k)
      { r with glist := list r k, left := r.lines }
    let object := o % 8 = 0 ∧ o + 8 ≤ i.b.scrSize
    let others := fun (x : Block) => ∀ k, (k < o ∨ o + 8 ≤ k) → rdByte x.scratch k = rdByte m k
    let word := fun (m : Memory) => leNat (rdBytes m o 8)
    let count := fun (w : Nat) => (BitVec.ofNat 48 w).toInt
    let unused := ∀ k ∈ s.cores, ∀ r ∈ k.reqs, r.block ≠ i.b.id
    (Ready s i u → n = 0 → exec (.cpkick a b) s = .next (onlyGroup (counted s i u) i Group.advance)) ∧
    (Ready s i u → i.g.core < s.cores.length → 1 ≤ n → n ≤ 32 → o % 64 = 0 → o + 64 * n ≤ i.b.scrSize →
      (s.coreAt i.g.core).reqs.length + n ≤ 64 → (∀ k < n, malformed i.b m (o + 64 * k) (parseCopy i m (o + 64 * k)) = false) →
      ∃ t x, exec (.cpkick a b) s = .next t ∧ (t.coreAt i.g.core).reqs = (s.coreAt i.g.core).reqs ++ recs ∧
        t.blockAt i.b.id = some x ∧ x.scratch = m ∧
        (∀ line, line ∈ x.absent ↔ line ∈ i.b.absent ∨ ∃ r ∈ recs, r.out = false ∧ line ∈ r.lines) ∧
        t.groups = groupsAfter named i Group.advance) ∧
    (Ready s i u → Canonical s → object → unused → ∃ t x, exec (.boinit a b) s = .next t ∧ t.blockAt i.b.id = some x ∧ word x.scratch = n ∧ others x ∧
      t.groups = groupsAfter s i Group.advance) ∧
    (Ready s i u → Canonical s → object → ∃ t x, exec (.boarr a b) s = .next t ∧ t.blockAt i.b.id = some x ∧ others x ∧
      count (word x.scratch) = (BitVec.ofInt 48 (count (word m) - n)).toInt ∧
      word x.scratch / 2 ^ 48 = (if (BitVec.ofInt 48 (count (word m) - n)).toInt < 0 then word m / 2 ^ 48 ||| 2 ^ 14 else word m / 2 ^ 48) ∧
      t.groups = groupsAfter named i Group.advance) ∧
    (Ready s i uw → Plain i uw → object → (count (word m) ≤ 0 ∨ 2 ^ 63 ≤ word m) →
      ∃ t, exec (.bowait d a) s = .next t ∧ RegsWritten ((counted s i uw).acquireAt i 1) t i i.wr d
        [fun _ => BitVec.ofNat 32 ((if 2 ^ 63 ≤ word m then 1 else 0) + (if word m / 2 ^ 62 % 2 = 1 then 2 else 0) +
          if count (word m) < 0 then 4 else 0)]) ∧
    (Ready s i uw → object → 0 < count (word m) → word m < 2 ^ 63 →
      exec (.bowait d a) s = .next (onlyGroup (counted s i uw) i fun g => g.suspend (.parked (.barrierObj o))))

/-- R175 to R179, R206 to R208: STN of a chunk of 128 to 1,024 bytes takes free sectors of the context's pool in its partition, within one
row of 8 sectors and in the tile's own stack when that has a chunk free, writes the bytes of the lanes there, an inactive lane's as zeros,
and gives every active lane the chunk's name and p; where no row of the pool holds so many contiguous free sectors, and only there, it
gives 0 and takes nothing. The name is pending until it returns; NFENCE returns the group's names. RELQ puts every sector of the names in
state 3. -/
def Obligations.NamelessStorage : Prop :=
  ∀ (s : State) (i : Iss) (d a b : BitVec 7) (p : BitVec 3) (w : BitVec 2),
    let regs := 2 ^ w.toNat
    let size := i.g.grant * 4 * regs
    let us : Uses := { reads := [(a, regs)], writes := [(d, 2)], preds := [p], p6 := false }
    let un : Uses := { guard := false, p6 := false }
    let ur : Uses := { reads := [(a, 2), (b, 1)], p6 := false }
    let chunk := ((List.range i.g.grant).map fun l => ((List.range regs).map fun j =>
      leBytes 4 (if i.act.getLsbD l then (i.rd a j l).toNat else 0)).flatten).flatten
    let own := fun (n : StnPend) => n.part == i.g.part && n.slot == i.g.slot
    let free := fun (t k : Nat) => (tget 0 (s.tileAt t).fsm k).toNat / 2 ^ 14 = 1 ∧ (tget 0 (s.tileAt t).fsm k).toNat % 4096 = i.g.ctx
    let fits := fun (t k : Nat) => t < 20 ∧ s.partOf t = s.partOf i.tile ∧ k % 8 + size / 128 ≤ 8 ∧ ∀ j < size / 128, free t (k + j)
    let key := (regKey i.g.win d 0).getD 280
    let live := fun (x : Nat) => x / 1024 % 2 ^ 15 = 0 ∧ x / 2 ^ 51 % 32 < 20 ∧ s.partOf (x / 2 ^ 51 % 32) = s.partOf i.tile ∧
      (s.fsmAt (namePa x)).toNat / 2 ^ 14 = 2 ∧ (s.fsmAt (namePa x)).toNat % 4096 = i.g.ctx
    let legal := fun (n : Addr) (c : Nat) => n = 0 ∨ (bitsOf n 63 56 = 0xC5 ∧ (c = 128 ∨ c = 256 ∨ c = 512 ∨ c = 1024) ∧
      bitsOf n 9 0 % 128 = 0 ∧ bitsOf n 9 0 + c ≤ 1024 ∧ ∀ j < c / 128, live (n.toNat + 128 * j))
    (Ready s i us → Canonical s → s.tiles.length = 20 → (∀ y ∈ s.tiles, ∀ e ∈ y.fsm, e.1 < 2 ^ 29) → Plain i us → 128 ≤ size → size ≤ 1024 →
      ∃ t, exec (.stn w d a p) s = .next t ∧ ∃ e r name, RegsWritten e r i i.act d (words2 fun _ => name) ∧
        t = ((onlyGroup r i fun g =>
          let g := g.putPred i.act p.toNat (if name = 0 then 0 else ~~~0)
          { g with sb := g.sb ++ [(key, .name), (key + 1, .name), (predKey p.toNat, .name)] }).modCore i.g.core fun k =>
            { k with stns := k.stns ++ [⟨i.g.part, i.g.slot, i.b.id, key, p.toNat, i.act, name⟩] }) ∧
        e.groups = s.groups ∧ e.blocks = s.blocks ∧
        ((∀ t k, ¬ fits t k) → name = 0 ∧ e.mem = s.mem ∧ e.tiles = s.tiles) ∧
        ((∃ t k, fits t k) → ∃ t k, fits t k ∧ ((∃ x, fits i.tile x) → t = i.tile) ∧ name = paName (128 * (t * 2 ^ 29 + k)) ∧
          e.mem = wrBytes s.mem (128 * (t * 2 ^ 29 + k)) chunk ∧
          ∀ u < 20, ∀ x, tget 0 (e.tileAt u).fsm x =
            if u = t ∧ k ≤ x ∧ x < k + size / 128 then BitVec.ofNat 16 (0x8000 + i.g.ctx % 4096) else tget 0 (s.tileAt u).fsm x)) ∧
    (Ready s i un → ∃ t, exec .nfence s = .next t ∧ t = onlyGroup ((counted s i un).returnNames i.g.core own) i Group.advance ∧
      ∀ n ∈ (t.coreAt i.g.core).stns, own n = false) ∧
    (Ready s i ur → Canonical s → s.tiles.length = 20 → (∀ l ∈ i.lanes, legal (i.rd2 a l) (i.rd b 0 l).toNat) →
      ∃ t, exec (.relq a b) s = .next t ∧ t.groups = groupsAfter s i Group.advance ∧ t.relqs.length = s.relqs.length + 1 ∧
        ∀ l ∈ i.lanes, i.rd2 a l ≠ 0 → ∀ j < (i.rd b 0 l).toNat / 128,
          t.fsmAt (namePa (i.rd2 a l).toNat + 128 * j) = BitVec.ofNat 16 (0xC000 + i.g.ctx % 4096))

/-- R209, R210: PGREQ asks once for each distinct page that its active lanes cannot read, adds the number to COUNT of its object and gives
it to every active lane; RZERO and RCOPY of 1 to 1,024 aligned rows, all of whose translations succeed, write 0 to d, which stays pending
until every row is done, and queue the rows; what the core has under way for those rows is performed first (R214). That d reads 0 while the rows
are under way is the model's choice (log 32). -/
def Obligations.PageAndRowRequests : Prop :=
  ∀ (s v : State) (i : Iss) (d a b : BitVec 7) (ps : List (Nat × Nat × Nat)) (rs : List (Bool × LaneChk)) (qs : List (Nat × Place)),
    let up : Uses := { reads := [(a, 2), (b, 1)], from_ := lowAt 1, writes := [(d, 1)] }
    let rows := fun (n : Nat) => ({ reads := [(a, n), (b, 1)], from_ := fromLow, writes := [(d, 1)], p6 := false } : Uses)
    let o := (i.rd b 0 i.low).toNat
    let count := fun (m : Memory) => (BitVec.ofNat 48 (leNat (rdBytes m o 8))).toInt
    let key := (regKey i.g.win d 0).getD 280
    let dst := i.rd2 a i.low
    let src : Addr := i.rd a 3 i.low ++ i.rd a 2 i.low
    let row := fun (x : Addr) (n : Nat) => x + BitVec.ofNat 64 (1024 * n)
    let dsts := (List.range o).map fun n => (row dst n, Acc.write)
    let srcs := (List.range o).map fun n => (row src n, Acc.read)
    let asks := fun (u : Uses) (l : List (Addr × Acc)) => l.foldl (fun (acc : List (Bool × LaneChk) × State) q =>
      let (r, s) := acc.2.rowAt i q.1 q.2
      (acc.1 ++ [(q.2 == .write, r)], s)) ([], (counted s i u).settleStp i.g.core)
    let global := fun (x : Addr) => x.toNat % 1024 = 0 ∧ globalFault x = none
    let pas := qs.map fun q => match q.2 with | .mem pa _ _ => pa | _ => 0
    let queued := fun (x : Instr) (n : Nat) (work : List (Nat × Option Nat)) (undef : List Nat) =>
      Ready s i (rows n) → Plain i (rows n) → ∃ r, RegsWritten (v.settleRows i pas) r i i.set d [fun _ => 0] ∧
        exec x s = .next { onlyGroup r i (fun g => withPending g key .rows) with
          rowops := v.rowops ++ [⟨i.g.core, i.g.part, i.g.slot, i.b.id, key, work, false, undef⟩] }
    (Ready s i up → Canonical s → Plain i up → o % 8 = 0 → o + 8 ≤ i.b.scrSize →
      (∀ l ∈ i.lanes, let x := (i.rd2 a l).toNat
        (65536 ≤ x ∧ (x < 2 ^ 56 ∨ 2 ^ 64 - 2 ^ 56 ≤ x)) ∨ x / 2 ^ 56 = 0xC3 ∨ x / 2 ^ 56 = 0xC4 ∨ x / 2 ^ 56 = 0xC5) →
      i.lanes.foldl (fun (acc : List (Nat × Nat × Nat) × State) l =>
        let (r, s) := pgreqLane acc.2 i l (i.rd2 a l)
        (acc.1 ++ r.toList, s)) ([], counted s i up) = (ps, v) →
      (s.recs.filter fun r => r.core == i.g.core && !r.written).length + (dedup ps).length ≤ 64 →
      ∃ e t x, exec (.pgreq d a b) s = .next t ∧ RegsWritten e t i i.act d [fun _ => BitVec.ofNat 32 (dedup ps).length] ∧
        e.recs.length = v.recs.length + (dedup ps).length ∧ e.blockAt i.b.id = some x ∧
        count x.scratch = (BitVec.ofInt 48 (count i.b.scratch + (dedup ps).length)).toInt) ∧
    (1 ≤ o → o ≤ 1024 → global dst → asks (rows 2) dsts = (rs, v) → gatherRows rs i.low v = .ok qs v →
      queued (.rzero d a b) 2 (pas.take o |>.map fun x => (x, none)) []) ∧
    (1 ≤ o → o ≤ 1024 → global dst → global src → asks (rows 4) (dsts ++ srcs) = (rs, v) → gatherRows rs i.low v = .ok qs v →
      queued (.rcopy d a b) 4 ((pas.take o).mapIdx fun n x => (x, (pas.drop o)[n]?)) ((pas.take o).filter (pas.drop o).contains))

/-- R107, R108, R113, R115 to R118: with a free entry in the matrix queue, WLOAD, WLOAD.t and, for a group with no gang, MMA.c8, MMA.bf16
and MMAO of legal operands join the queue, take the next token and write it to every lane of the set; WSWAP joins it with no token; GANG
writes a legal value to the gang register. -/
def Obligations.MatrixQueue : Prop :=
  ∀ (s : State) (i : Iss) (d a b : BitVec 7),
    let m := s.imat i
    let token : Word := 0x80000000 + (m.seq + 1).setWidth 32
    let v := fun (j : Nat) => (i.rd a j i.low).toNat
    let o := (i.rd b 0 i.low).toNat
    let inScratch := fun (x n : Nat) => x + n ≤ 0x100000 ∧ x + n ≤ i.b.scrSize
    let joins := fun (x : Instr) (u : Uses) (kind : MatKind) => Ready s i u → Plain i u → m.queue.length < 16 →
      ∃ e t q, exec x s = .next t ∧ RegsWritten e t i i.set d [fun _ => token] ∧ e.groups = s.groups ∧ e.blocks = s.blocks ∧
        (e.imat i).queue.length = m.queue.length + 1 ∧ (e.imat i).queue.getLast? = some q ∧ q.kind = kind ∧ q.tokens = [token] ∧
        (e.imat i).seq = m.seq + 1 ∧ (e.imat i).acc = m.acc ∧ (e.imat i).active = m.active ∧ (e.imat i).shadow = m.shadow
    let ul : Uses := { reads := [(a, 2)], from_ := fromLow, plain := [(d, 1)], writes := [(d, 1)], guard := false }
    let us := fun (extra : List (BitVec 7 × Nat)) (p6 : Bool) =>
      ({ reads := (a, 4) :: extra, from_ := fromLow, plain := [(d, 1)], writes := [(d, 1)], guard := false, p6 := p6 } : Uses)
    let ug : Uses := { reads := [(a, 1)], from_ := fromLow, guard := false, p6 := false }
    let bf := v 0 % 2 = 1
    let data := v 0 - v 0 % 2
    let load := fun (x : Instr) (t : Bool) => data % 128 = 0 →
      (bf → inScratch data 6144) →
      (¬ bf → v 1 % 128 = 0 ∧ inScratch data (if t then 16384 else 12288) ∧ inScratch (v 1) (if t then 1024 else 768)) →
      joins x ul (.wload t (v 0 % 2 == 1) i.b.id data (if v 0 % 2 = 1 then 0 else v 1))
    let stream := fun (x : Instr) (u : Uses) (fn scale out count : Nat) => i.g.gang = 0 → m.latch = [] →
      v 0 % 128 = 0 → scale % 128 = 0 → 1 ≤ v 2 → v 3 + v 2 ≤ 1024 → inScratch (v 0) (if fn = 1 then 64 * v 2 else 128 * v 2) →
      (fn ≠ 1 → inScratch scale (8 * v 2)) → out % 4 = 0 → (count ≠ 0 → inScratch out (4 * count)) →
      joins x u (.stream fn [⟨i.b.id, v 0, scale, v 2, v 3⟩] out count)
    let g := i.rd a 0 i.low
    let n := g.toNat / 2 ^ 24 % 8
    let slots := (List.range n).map fun k => g.toNat / 16 ^ k % 16
    load (.wload d a) false ∧ load (.wloadT d a) true ∧
    stream (.mmaC8 d a) (us [] true) 0 (v 1) 0 0 ∧ stream (.mmaBf16 d a) (us [] true) 1 0 0 0 ∧
    stream (.mmao d a b) (us [(b, 1)] false) 2 (v 1) (o % 2 ^ 20) (o / 2 ^ 20) ∧
    (Ready s i { guard := false } → m.queue.length < 16 → ∃ t q, exec .wswap s = .next t ∧ t.groups = groupsAfter s i Group.advance ∧
      (t.imat i).queue = m.queue ++ [q] ∧ q.kind = .wswap ∧ q.tokens = [] ∧ (t.imat i).seq = m.seq ∧ t.blocks = s.blocks) ∧
    (Ready s i ug → g = 0 ∨ (g.toNat < 2 ^ 27 ∧ 2 ≤ n ∧ n ≤ 6 ∧ slots.Nodup ∧ i.g.slot ∈ slots ∧ g.toNat % 2 ^ 24 < 16 ^ n) →
      exec (.gang a) s = .next (onlyGroup (counted s i ug) i fun x => { x.advance with gang := g }))

/-- R107 to R109, R111, R112, R122 to R124: the accumulator instructions of legal positions and ranges that no queued operation writes:
ACCZ clears rows, ACCLD and ACCST move words between registers and accumulators, lane l at row0 + l, the scratchpad forms move whole rows
of 384 bytes; OPFENCE ends the group's unfenced writes; MWAIT of a token that no queued operation holds goes on, else it parks. -/
def Obligations.Accumulators : Prop :=
  ∀ (s : State) (i : Iss) (d a b : BitVec 7) (w : BitVec 2),
    let m := s.imat i
    let v := (i.rd a 0 i.low).toNat
    let o := (i.rd b 0 i.low).toNat
    let r := v % 1024
    let n := v / 2 ^ 16 % 2048
    let c := v / 2 ^ 16 % 128
    let k := 2 ^ w.toNat
    let busy := fun (row : Nat) => ∃ q ∈ m.queue, row ∈ q.outRows
    let range := v / 2 ^ 10 % 64 = 0 ∧ v / 2 ^ 27 = 0 ∧ 1 ≤ n ∧ r + n ≤ 1024 ∧ ∀ row, r ≤ row → row < r + n → ¬ busy row
    let place := v / 2 ^ 10 % 64 = 0 ∧ v / 2 ^ 23 = 0 ∧ c + k ≤ 96 ∧ ∀ l ∈ i.lanes, r + l ≤ 1023
    let cell := fun (t : State) (x : Nat) => tget 0 (t.imat i).acc x
    let bytes := o % 128 = 0 ∧ o + 384 * n ≤ 0x100000 ∧ o + 384 * n ≤ i.b.scrSize
    let unused := ∀ k ∈ s.cores, ∀ q ∈ k.reqs, q.block ≠ i.b.id
    let uz : Uses := { reads := [(a, 1)], from_ := fromLow, guard := false }
    let ul : Uses := { reads := [(a, 1)], from_ := fromLow, plain := [(d, k)], writes := [(d, k)] }
    let us : Uses := { reads := [(a, 1), (d, k)], dsrc := true, from_ := lowAt 0 }
    let ub : Uses := { reads := [(a, 1), (b, 1)], from_ := fromLow }
    let same := fun (t : State) => t.groups = groupsAfter s i Group.advance
    let shut := fun (l : Nat) => m.queuedRows.contains (r + l) || decide (1023 < r + l) ||
      (List.range k).any fun j => m.accPoison.contains (96 * (r + l) + c + j)
    Canonical s →
    (Ready s i uz → range → ∃ t, exec (.accz a) s = .next t ∧ same t ∧ t.blocks = s.blocks ∧
      ∀ x, cell t x = if 96 * r ≤ x ∧ x < 96 * (r + n) then 0 else cell s x) ∧
    (Plain i ul → place → (∀ l ∈ lanesOf i.wr i.g.grant, shut l = false) → (∀ l ∈ i.lanes, shut l = false) →
      Gives s i (.accld w d a) ul i.wr d
        ((List.range k).map fun j l => if shut l then 0 else cell s (96 * (r + l) + c + j))) ∧
    (Ready s i us → place → (∀ l ∈ i.lanes, ¬ busy (r + l)) → ∃ t, exec (.accst w d a) s = .next t ∧ same t ∧ t.blocks = s.blocks ∧
      (∀ l ∈ i.lanes, ∀ j < k, cell t (96 * (r + l) + c + j) = i.rd d j l) ∧
      ∀ x, (∀ l ∈ i.lanes, x < 96 * (r + l) + c ∨ 96 * (r + l) + c + k ≤ x) → cell t x = cell s x) ∧
    (Ready s i ub → range → bytes → unused → (∀ x ∈ m.accPoison, x < 96 * r ∨ 96 * (r + n) ≤ x) →
      ∃ t x, exec (.accldScr a b) s = .next t ∧ same t ∧ t.blockAt i.b.id = some x ∧
        (∀ row < n, ∀ col < 96, ∀ j < 4, rdByte x.scratch (o + 384 * row + 4 * col + j) =
          (cell s (96 * (r + row) + col) >>> (8 * j)).setWidth 8) ∧
        ∀ y, (y < o ∨ o + 384 * n ≤ y) → rdByte x.scratch y = rdByte i.b.scratch y) ∧
    (Ready s i ub → range → bytes → i.b.absent = [] → i.b.spoison = [] → i.b.unfenced = [] →
      ∃ t, exec (.accstScr a b) s = .next t ∧ same t ∧ t.blocks = s.blocks ∧
        ∀ x, cell t x = if 96 * r ≤ x ∧ x < 96 * (r + n) then
          BitVec.ofNat 32 (leNat (rdBytes i.b.scratch (o + 4 * (x - 96 * r)) 4)) else cell s x) ∧
    (Ready s i { guard := false } → ∃ t x, exec .opfence s = .next t ∧ same t ∧ t.blockAt i.b.id = some x ∧
      x.scratch = i.b.scratch ∧ x.unfenced = i.b.unfenced.filter fun u => u.2.2 != i.g.gslot) ∧
    (Ready s i uz → (∀ q ∈ m.queue, i.rd a 0 i.low ∉ q.tokens) → i.rd a 0 i.low ∉ m.badTokens →
      ∃ t, exec (.mwait a) s = .next t ∧ same t ∧ t.blocks = s.blocks ∧ (t.imat i).acc = m.acc ∧ (t.imat i).queue = m.queue) ∧
    (Ready s i uz → (∃ q ∈ m.queue, i.rd a 0 i.low ∈ q.tokens) →
      exec (.mwait a) s = .next (onlyGroup (counted s i uz) i fun g => g.suspend (.parked (.matrixWait (i.rd a 0 i.low)))))

/-- R248 to R252: BRA, CALL, BRT, CALLT and RET. A branch that no active lane takes goes on to the next word; the lanes that take it go to
the target, a run start, by the word offset, by the list word that each lane's index chooses, or by the top of the meeting stack, and the
others become the tail of the run; a call pushes the address of the first word after the run's trailer and lists. The pages of the words
that the core fetches ahead to check a branch are marked accessed (R289). -/
def Obligations.BranchResults : Prop :=
  ∀ (s : State) (i : Iss) (p : BitVec 3) (n : BitVec 1) (o : BitVec 22) (a m : BitVec 7) (at_ ret : Word) (ts : List Word),
    let ub : Uses := { preds := [p], psrc := [p], guard := false }
    let ut : Uses := { reads := [(a, 1)], guard := false, ahead := fun i => tableWords s i m.toNat }
    let ur : Uses := { guard := false }
    let taken := i.act &&& (if n = 1 then ~~~i.g.pred p.toNat else i.g.pred p.toNat)
    let target := i.pc + 4 * o.signExtend 32
    let same := fun (_ : Nat) (st : List Word) => st
    let push := fun (_ : Nat) (st : List Word) => ret :: st
    let room := fun (m : Mask) => ∀ l ∈ lanesOf m i.g.grant, (i.g.threadAt l).stack.length < i.b.depth
    let index := fun (l : Nat) => (i.rd a 0 l).toNat
    let seen := s.look i (s.callWords i target)
    let past := fun (v : State) => v.trailer i = .ok at_ ∧ v.pastList i 128 (at_ + 4) = .ok ret
    let table := tableTargets s i m.toNat = .ok (ret, ts) ∧ tableTargets (counted s i ut) i m.toNat = .ok (ret, ts) ∧
      ∀ l ∈ i.lanes, index l < m.toNat
    (Ready s i ub → taken = 0 → exec (.bra p n o) s = .next (onlyGroup s i Group.advance) ∧
      exec (.call p n o) s = .next (onlyGroup s i Group.advance)) ∧
    (Ready s i ub → taken ≠ 0 → s.runStart i target = none →
      ∃ t, exec (.bra p n o) s = .next t ∧ Jumped (s.look i (i.startWords target)) t i taken (fun _ => target) same) ∧
    (Ready s i ub → taken ≠ 0 → s.runStart i target = none → room taken → past s → past seen →
      ∃ t, exec (.call p n o) s = .next t ∧ Jumped seen t i taken (fun _ => target) push) ∧
    (Ready s i ut → table → ∃ t, exec (.brt a m) s = .next t ∧
      Jumped (s.look i (tableWords s i m.toNat)) t i i.act (fun l => ts.getD (index l) 0) same) ∧
    (Ready s i ut → table → room i.act → ∃ t, exec (.callt a m) s = .next t ∧
      Jumped (s.look i (tableWords s i m.toNat)) t i i.act (fun l => ts.getD (index l) 0) push) ∧
    (Ready s i ur → (∀ l ∈ i.lanes, ∃ x xs, (i.g.threadAt l).stack = x :: xs ∧ x ≠ 0xFFFFFFFF) →
      ∃ t, exec .ret s = .next t ∧
        Jumped s t i i.act (fun l => (i.g.threadAt l).stack.headD 0xFFFFFFFF) (fun _ st => st.drop 1))

/-- R233, R253, R258, R260: MEET and MEETW set MEET of the active lanes to a run start, MEETW with a timeout of d cycles unless d is 0; MPUSH
pushes MEET on a stack with room, MPOP pops it, NONE from an empty stack; WIN sets the window; NAP and YIELD end the group's turn. -/
def Obligations.ThreadControl : Prop :=
  ∀ (s : State) (i : Iss) (o c : BitVec 14) (d : BitVec 7) (w : BitVec 3),
    let u : Uses := { guard := false }
    let uw : Uses := { reads := [(d, 1)], dsrc := true, guard := false, p6 := false, ahead := fun i => i.startWords (i.pc + 4 * o.signExtend 32) }
    let target := i.pc + 4 * o.signExtend 32
    let threads := fun (g : Group) (f : Nat → Thread → Thread) =>
      { g with threads := g.threads.mapIdx fun l t => if i.act.getLsbD l then f l t else t }
    let does := fun (x : Instr) (u : Uses) (f : Group → Group) => exec x s = .next (onlyGroup (counted s i u) i f)
    (Ready s i u → s.runStart i target = none →
      exec (.meet o) s = .next (onlyGroup (s.look i (i.startWords target)) i fun g =>
        (threads g fun _ t => { t with meet := target, tmo := none }).advance)) ∧
    (Ready s i uw → s.runStart i target = none → does (.meetw d o) uw fun g => (threads g fun l t =>
      { t with meet := target, tmo := if i.rd d 0 l = 0 then none else some (i.rd d 0 l).toNat }).advance) ∧
    (Ready s i u → (∀ l ∈ i.lanes, (i.g.threadAt l).stack.length < i.b.depth) →
      does .mpush u fun g => (threads g fun _ t => { t with stack := t.meet :: t.stack }).advance) ∧
    (Ready s i u → does .mpop u fun g => (threads g fun _ t =>
      { t with meet := t.stack.headD 0xFFFFFFFF, stack := t.stack.drop 1, tmo := none }).advance) ∧
    (Ready s i u → does (.win w) u fun g => { g.advance with win := w }) ∧
    (Ready s i u → does (.nap c) u fun g => g.advance.pause
      (if c = 0 then .eligible else .parked (.nap ((s.coreAt i.g.core).cyc + 16 * c.toNat)))) ∧
    (Ready s i u → does .yield u fun g => { g.advance.pause .eligible with yielded := true })

/-- R257: EXIT of lanes of a group ends their threads: a group whose last thread exits is gone, and otherwise its other threads live on (where
no role-collective has begun, which an exit could complete). -/
def Obligations.ExitResults : Prop :=
  ∀ (s : State) (i : Iss),
    Ready s i {} → s.groupAt i.g.core i.g.part i.g.slot = some i.g → (∀ b ∈ s.blocks, ∀ r ∈ b.roles, r.coll = []) →
    (∀ g ∈ s.groups, g.status ≠ .parked .claim) →
    (i.g.liveMask &&& ~~~i.act = 0 →
      ∃ t, exec .exit s = .next t ∧ ∀ g ∈ t.groups, g.isAt i.g.core i.g.part i.g.slot = false) ∧
    (i.g.liveMask &&& ~~~i.act ≠ 0 → i.g.trap = none →
      ∃ t, exec .exit s = .next t ∧ ∃ g ∈ t.groups, g.isAt i.g.core i.g.part i.g.slot = true ∧
        ∀ l, (g.threadAt l).live = ((i.g.threadAt l).live && !i.act.getLsbD l))

/-- R320, R330 to R332: TRAP and, with no debugger, BKPT of a group that is not in its handler enter it at TRAPENT with every lane of the set:
each lane's frame holds the address of the instruction, the address after it, the code, the kind, the written temporaries' marks and the
immediate. BKPT stops the group when a debugger is attached, and has no effect with neither debugger nor handler. -/
def Obligations.TrapEntry : Prop :=
  ∀ (s : State) (i : Iss) (c : BitVec 14) (entry : Word),
    let u : Uses := { guard := false }
    let entered := fun (x : Instr) (code kind : Nat) => ∃ t, exec x s = .next t ∧ Trapped s t i entry ∧
      ∀ l ∈ lanesOf i.set i.g.grant,
        frameField t i l 0 8 = 0 ∧ frameField t i l 8 4 = i.pc.toNat ∧ frameField t i l 12 4 = (i.pc + 4).toNat ∧
        frameField t i l 16 1 = code ∧ frameField t i l 17 1 = kind ∧ frameField t i l 19 1 = (i.g.threadAt l).xmark.toNat ∧
        frameField t i l 20 2 = c.toNat ∧ frameField t i l 22 1 = i.g.win.toNat ∧
        frameField t i l 23 1 / 128 = (if i.act.getLsbD l then 1 else 0)
    let handled := Ready s i u ∧ Canonical s ∧ s.groupAt i.g.core i.g.part i.g.slot = some i.g ∧ i.b.trapEnt = some entry ∧ i.g.trap = none ∧
      i.b.privSize + 128 ≤ 2 ^ 17
    (handled → entered (.trap c) 0x48 1) ∧
    (handled → s.debugged i.g.ctx = false → entered (.bkpt c) 0x49 2) ∧
    (Ready s i u → s.debugged i.g.ctx = false → (i.b.trapEnt = none ∨ i.g.trap.isSome) →
      exec (.bkpt c) s = .next (onlyGroup (counted s i u) i Group.advance)) ∧
    (Ready s i u → s.debugged i.g.ctx = true → ∃ t, exec (.bkpt c) s = .next t ∧
      t.groups = groupsAfter s i fun g => { g.advance.pause .eligible with stopped := true })

/-- R333: TRET of the last lanes that entered ends the trap: every live lane goes on at its frame's RPC, with its window and its predicates from
the frame, and its temporaries when it continues the interrupted run; TRET of other lanes waits for the rest. -/
def Obligations.TrapReturn : Prop :=
  ∀ (s : State) (i : Iss) (tr : Trap),
    let u : Uses := { guard := false }
    let g := i.g.modThreads i.act fun t => { t with wait := .tret }
    let j : Iss := { i with g := g }
    let rpc := fun (l : Nat) => frameField s i l 12 4
    let low := (lanesOf tr.entered i.g.grant).headD 0
    let ls := (lanesOf tr.entered i.g.grant).filter fun l => (i.g.threadAt l).live
    let w := s.awaitAcks i.g.ctx
    let v := w.look j ((ls.map fun l => match w.resumeAt j tr l with | some (o, none) => i.startWords o | _ => []).flatten)
    Ready s i u → s.groupAt i.g.core i.g.part i.g.slot = some i.g → i.g.trap = some tr → (∀ l ∈ i.lanes, (i.g.threadAt l).trapfp ≠ 0) →
    (g.trapOver = true → (∀ l ∈ lanesOf tr.entered i.g.grant, tr.tkinds.getD l 0 ≠ 4) → tr.held = [] → s.homeq = [] →
      (∀ l ∈ ls, (s.resumeAt j tr l).isSome ∧ (v.resumeAt j tr l).isSome) →
      ∃ t g', exec .tret s = .next t ∧ t.groupAt i.g.core i.g.part i.g.slot = some g' ∧ g'.trap = none ∧
        g'.win.toNat = frameField s i low 22 1 % 8 ∧ g'.regs = i.g.regs ∧ g'.sregs = i.g.sregs ∧
        (∀ l ∈ lanesOf tr.entered i.g.grant, (i.g.threadAt l).live → ∀ th, i.g.threads[l]? = some th → ∃ th', g'.threads[l]? = some th' ∧
          th'.pc.toNat = rpc l ∧ th'.trapfp = 0 ∧ th'.wait = .none ∧ th'.live = true ∧ th'.meet = th.meet ∧ th'.stack = th.stack ∧
          (rpc l = (tr.fpc.getD l 0).toNat → th'.tail = true ∧ th'.pos = tr.runpos.getD l 0 ∧
            th'.xmark.toNat = frameField s i l 19 1 ∧ ∀ k < 8, (th'.x.getD k 0).toNat = frameField s i l (32 + 4 * k) 4)) ∧
        ∀ p < 7, ∀ l ∈ lanesOf tr.entered i.g.grant, p < i.g.preds.length → (g'.pred p).getLsbD l = (frameField s i l 23 1 / 2 ^ p % 2 == 1)) ∧
    (g.trapOver = false → exec .tret s = .next (onlyGroup (counted s i u) i fun g =>
      ((g.modThreads i.act fun t => { t with wait := .tret }).tailAt g.iset).endSet))

/-- R254 to R256, R221: BAR, BARA and CBAR count the active lanes' threads on a barrier: an arrival that does not complete its phase is kept
open, and with BAR and CBAR its threads wait; the arrival that completes it flips the phase and lets every waiting thread go on. BARW waits
for the group's open arrivals alone. An arrival releases, so the names that the group waits for return (R216). -/
def Obligations.BarrierResults : Prop :=
  ∀ (s : State) (i : Iss) (d : BitVec 7) (n : BitVec 4) (m : BitVec 3),
    let u : Uses := { reads := [(d, 1)], dsrc := true, from_ := fromLow, guard := false }
    let named := (counted s i u).returnNames i.g.core fun n => n.part == i.g.part && n.slot == i.g.slot
    let v := (i.rd d 0 i.low).toNat
    let c := if d.toNat = 120 ∨ v = 0 then none else some v
    let arrive := fun (x : Instr) (clu waits : Bool) (k : Nat) =>
      let w := if clu then Wait.cluster k else Wait.block k
      let b := s.barAt i clu k
      let new := i.lanes.map (i.party clu)
      let live := if clu then s.liveOfCluster i.b.cluster else s.liveOf i.b
      let here := fun (g : Group) => if clu then (∃ y ∈ s.blocks, y.cluster = i.b.cluster ∧ y.id = g.block) else g.block = i.b.id
      let exists_ := if clu then ∃ y, s.clusters.find? (fun y => y.id == i.b.cluster) = some y ∧ k < y.bars.length else k < i.b.bars.length
      let full := match c with | some e => b.arrived + new.length = e | none => ∀ t ∈ live, t ∈ b.opens ++ new
      let short := match c with | some e => b.arrived + new.length < e | none => ∃ t ∈ live, t ∉ b.opens ++ new
      Ready s i u → s.groupAt i.g.core i.g.part i.g.slot = some i.g → exists_ → new.Nodup →
      (∀ e ∈ c, e ≤ i.b.threads * (if clu then i.b.csize else 1)) → (∀ t ∈ new, t ∉ b.opens) → (b.arrived = 0 ∨ c = b.expect) →
      (∀ l ∈ i.lanes, (i.g.threadAt l).wait = .none) →
      (short → ∃ t g, exec x s = .next t ∧ t.groupAt i.g.core i.g.part i.g.slot = some g ∧
        t.barAt i clu k = { phase := b.phase, arrived := b.arrived + new.length, expect := c, opens := b.opens ++ new } ∧
        ∃ n, named.groupAt i.g.core i.g.part i.g.slot = some n ∧
          g = if waits then ((n.modThreads i.act fun th => { th with wait := w }).tailAt n.iset).endSet else n.advance) ∧
      (full → ∃ t g, exec x s = .next t ∧
        t.groupAt i.g.core i.g.part i.g.slot = some g ∧
        t.barAt i clu k = { phase := !b.phase, arrived := 0, expect := c, opens := [] } ∧
        (∀ h ∈ t.groups, here h → ∀ th ∈ h.threads, th.wait ≠ w) ∧ g.status = .issuing ∧ g.pos = i.g.pos + 1 ∧
        ∀ l, i.g.iset.getLsbD l → ∀ th, i.g.threads[l]? = some th → ∃ th', g.threads[l]? = some th' ∧ th'.pc = th.pc + 4)
    let open_ := maskOf i.g.grant fun l => i.act.getLsbD l && (s.barAt i false n.toNat).opens.contains (i.party false l)
    arrive (.bar d n) false true n.toNat ∧ arrive (.bara d n) false false n.toNat ∧ arrive (.cbar d m) true true m.toNat ∧
    (Ready s i { guard := false } → s.groupAt i.g.core i.g.part i.g.slot = some i.g → (∀ l ∈ i.lanes, (i.g.threadAt l).wait = .none) →
      (∀ l ∈ i.lanes, ∃ th, i.g.threads[l]? = some th) →
      ∃ t, exec (.barw n) s = .next t ∧ t.blocks = s.blocks ∧ t.groups = groupsAfter s i (if open_ = 0 then Group.advance else fun g =>
        ((g.modThreads open_ fun th => { th with wait := .block n.toNat }).tailAt g.iset).endSet))

/-- R239 to R243, R259: WIDTH, WLOCK, WFREE, RCLAIM and RGIVE: the threads of the set wait until every live thread of the role has arrived with
the same instruction; then, where no check of R259 fails, WLOCK and WFREE set the lock, RCLAIM and RGIVE move registers between the role's
allotment and the partitions' spare, and WIDTH re-forms the role at the grant that the pool allows: each live thread stands, by its index in
the role, in the group and the lane that the new grant gives it, with its place, its meeting and its stack, its registers and its predicates. -/
def Obligations.CollectiveResults : Prop :=
  ∀ (s : State) (i : Iss) (w : BitVec 2) (n : BitVec 8) (x : Instr),
    let arrivals := i.lanes.map fun l => (i.thread l, x)
    let parked := fun (g : Group) => ((g.modThreads i.act fun t => { t with wait := .coll }).tailAt g.iset).endSet
    let mine := fun (g : Group) => g.block = i.b.id ∧ g.role = i.g.role
    let all := ∀ g ∈ s.groups, mine g → ∀ l ∈ lanesOf g.liveMask g.grant,
      (∃ k ∈ i.lanes, i.thread k = g.thread i.b l) ∨ ∃ e ∈ i.r.coll, e.1 = g.thread i.b l
    let short := ∃ g ∈ s.groups, mine g ∧ ∃ l ∈ lanesOf g.liveMask g.grant,
      (∀ k ∈ i.lanes, i.thread k ≠ g.thread i.b l) ∧ ∀ e ∈ i.r.coll, e.1 ≠ g.thread i.b l
    let on := fun (p : Nat) => ((s.groups.filter fun g => g.block == i.b.id && g.role == i.g.role && g.part == p).map Group.grant).sum
    let rest := (i.b.depth + 7) / 8 * 8 + 8
    let quiet := s.homeq = [] ∧ s.rowops = [] ∧ (∀ k ∈ s.cores, k.answers = [] ∧ k.stns = []) ∧
      (∀ g ∈ s.groups, mine g → g.grant = i.g.grant) ∧ ((s.groups.filter fun g => g.block == i.b.id && g.role == i.g.role).map Group.gix).Nodup
    let kept := fun (y : Group) (l : Nat) (g : Group) (j : Nat) =>
      let th := y.threadAt l
      let moved := y.isAt i.g.core i.g.part i.g.slot && y.iset.getLsbD l
      (g.threadAt j).live = true ∧ (g.threadAt j).pc = (if moved then th.pc + 4 else th.pc) ∧ (g.threadAt j).meet = th.meet ∧
        (g.threadAt j).stack = th.stack ∧ (g.threadAt j).trapfp = th.trapfp ∧
        (∀ k < 256, ∀ v, y.regs[k]? = some (.val v) → ∃ v', g.regs[k]? = some (.val v') ∧ v'.getD j 0 = v.getD l 0) ∧
        ∀ p < 7, (g.preds.getD p 0).getLsbD j = (y.preds.getD p 0).getLsbD l
    let done := fun (P : State → Block → Role → Prop) => x ∈ [Instr.width w, .wlock, .wfree, .rclaim n, .rgive n] →
      Ready s i { guard := false, p6 := false } → all → (∀ e ∈ i.r.coll, e.2 = x) →
      ∃ t b r, exec x s = .next t ∧ t.blockAt i.b.id = some b ∧ b.roles[i.g.role]? = some r ∧ r.coll = [] ∧ P t b r
    (x ∈ [Instr.width w, .wlock, .wfree, .rclaim n, .rgive n] → Ready s i { guard := false, p6 := false } → short →
      (∀ e ∈ i.r.coll, ∀ l ∈ i.lanes, e.1 ≠ i.thread l) → ∃ t b r, exec x s = .next t ∧ t.groups = groupsAfter s i parked ∧ t.blockAt i.b.id = some b ∧
        b.roles[i.g.role]? = some r ∧ r = { i.r with coll := i.r.coll ++ arrivals }) ∧
    (x = .wlock → i.r.locked = false → done fun t _ r => r = { i.r with coll := [], locked := true } ∧
      ∀ g ∈ t.groups, mine g → ∀ th ∈ g.threads, th.wait ≠ .coll) ∧
    (x = .wfree → i.r.locked = true → done fun t _ r => r = { i.r with coll := [], locked := false } ∧
      ∀ g ∈ t.groups, mine g → ∀ th ∈ g.threads, th.wait ≠ .coll) ∧
    (x = .rclaim n → n.toNat % 8 = 0 → (n ≠ 0 → i.r.allot + n.toNat ≤ 256) → (∀ p < 4, n.toNat * on p ≤ i.b.spare.getD p 0) →
      done fun _ b r => r = { i.r with coll := [], allot := i.r.allot + n.toNat } ∧
        ∀ p < i.b.spare.length, p < 4 → b.spare.getD p 0 = i.b.spare.getD p 0 - n.toNat * on p) ∧
    (x = .rgive n → n.toNat % 8 = 0 → (n ≠ 0 → n.toNat + rest ≤ i.r.allot) →
      done fun t b r => r = { i.r with coll := [], allot := i.r.allot - n.toNat } ∧
        (∀ p < i.b.spare.length, p < 4 → b.spare.getD p 0 = i.b.spare.getD p 0 + n.toNat * on p) ∧
        ∀ g ∈ t.groups, mine g → ∀ k, i.r.allot - n.toNat - i.b.depth ≤ k → k < g.regs.length →
          g.regs.getD k (.val []) = .val (List.replicate g.grant 0)) ∧
    (x = .width w → i.r.minW ≤ 16 * 2 ^ w.toNat → i.r.locked = false →
      (∀ g ∈ s.groups, mine g → ∀ v ∈ g.regs, ∀ h k, v ≠ .px h k) →
      ∀ grant places use, grantRole (s.coreAt i.b.core).maxG { i.r with coll := i.r.coll ++ arrivals } (16 * 2 ^ w.toNat)
        ((List.range 4).map ((onlyGroup s i parked).partUse i.b.core i.b.id fun g => g.block == i.b.id && g.role == i.g.role)) =
          some (grant, places, use) →
      done fun t _ r => r.grant = grant ∧ r.request = some (16 * 2 ^ w.toNat) ∧ (∀ g ∈ t.groups, mine g → g.grant = grant) ∧
        (quiet → ∀ y ∈ s.groups, mine y → ∀ l ∈ lanesOf y.liveMask y.grant, let n := y.gix * y.grant + l
          n / grant < places.length → ∃ g ∈ t.groups, mine g ∧ g.gix = n / grant ∧ kept y l g (n % grant)))

/-- R21, R261 to R263: SRD of every special register but CYCLO, whose reading also latches the high half of the cycle count; each active lane
receives the register's value there. -/
def Obligations.SpecialReads : Prop :=
  ∀ (s : State) (i : Iss) (d : BitVec 7),
    let u : Uses := { writes := [(d, 1)], guard := false }
    let num := fun (n : Nat) (_ : Nat) => BitVec.ofNat 32 n
    let code := fun (g : Nat) => if g = 16 then 0 else if g = 32 then 1 else 2
    let quota := match s.ctxAt i.g.ctx with | some c => c.quota | none => 0
    let core := s.coreAt i.g.core
    let lane := match core.harv with | none => 0x200 + 15 | some q => 0x500 + 15 - 2 ^ (q % 4)
    let flag := fun (b : Bool) (n : Nat) => if b then n else 0
    let values : List (BitVec 12 × (Nat → Word)) :=
      [(0x000, num (i.g.core * 0x10000 + i.g.core / 4 * 0x800 + lane)), (0x001, num (i.g.part * 16 + i.g.slot)),
       (0x002, num i.b.coord.1), (0x003, num i.b.coord.2.1), (0x004, num i.b.coord.2.2),
       (0x005, num i.b.dim.1), (0x006, num i.b.dim.2.1), (0x007, num i.b.dim.2.2),
       (0x008, num (4 * (i.b.csize - 1) + i.b.rank)), (0x009, num i.b.cluIdx),
       (0x00A, fun l => BitVec.ofNat 32 (i.g.gix * i.g.grant + l)), (0x00B, fun l => BitVec.ofNat 32 (i.thread l)), (0x00C, num i.g.ctx),
       (0x100, fun l => (i.g.threadAt l).meet), (0x101, fun l => BitVec.ofNat 32 (i.g.threadAt l).stack.length), (0x102, num i.g.win.toNat),
       (0x103, fun _ => i.g.gang),
       (0x104, num (flag i.g.stepBit 0x10000 + 256 * code i.r.grant + flag i.r.locked 4 + flag i.g.mto 2 + flag i.g.regrant 1)),
       (0x200, num quota), (0x201, num (s.acct i.g.core i.g.ctx).pol.toNat), (0x202, num (i.b.spare.getD i.g.part 0)),
       (0x203, num (i.g.role * 2 ^ 30 + code i.r.minW * 2 ^ 28 + code i.r.prefW * 2 ^ 26 + i.r.allot * 2 ^ 17 + i.r.threads)),
       (0x205, fun _ => i.g.cychi), (0x210, fun l => (i.g.threadAt l).trapfp), (0x300, num i.seq), (0x301, num (i.seq / 2 ^ 32)),
       (0x302, num (s.taskqOf i.b.id))]
    (∀ n v, (n, v) ∈ values → Gives s i (.srd d n) u i.act d [v]) ∧
    (Ready s i u → Plain i u → ∃ t, exec (.srd d 0x204) s = .next t ∧
      RegsWritten (onlyGroup (counted s i u) i fun g => { g with cychi := BitVec.ofNat 32 (core.cyc / 2 ^ 32) }) t i i.act d [num core.cyc])

/-- R141, R233, R235, R261 to R263: SWR of MEET, a run start or NONE for each active lane, of GANG, of GSTAT, whose sticky bits clear where a 1 is
written, and of PXPOL, which every core of the context then holds; that all cores hold it at once is the model's choice (log 51). -/
def Obligations.SpecialWrites : Prop :=
  ∀ (s : State) (i : Iss) (d : BitVec 7),
    let u := fun (p6 : Bool) => ({ reads := [(d, 1)], dsrc := true, from_ := fromLow, guard := false, p6 := p6 } : Uses)
    let um : Uses := { reads := [(d, 1)], dsrc := true, guard := false, ahead := fun i =>
      (i.lanes.map fun l => if i.rd d 0 l = 0xFFFFFFFF then [] else i.startWords (i.rd d 0 l)).flatten }
    let v := i.rd d 0 i.low
    (Ready s i um → (∀ l ∈ i.lanes, i.rd d 0 l = 0xFFFFFFFF ∨ (counted s i um).runStart i (i.rd d 0 l) = none) →
      exec (.swr d 0x100) s = .next (onlyGroup (counted s i um) i fun g => Group.advance { g with
        threads := g.threads.mapIdx fun l t => if i.act.getLsbD l then { t with meet := i.rd d 0 l, tmo := none } else t })) ∧
    (Ready s i (u false) → gangOk v i.g.slot = true →
      exec (.swr d 0x103) s = .next (onlyGroup (counted s i (u false)) i fun g => { g.advance with gang := v })) ∧
    (Ready s i (u true) → exec (.swr d 0x104) s = .next (onlyGroup (counted s i (u true)) i fun g =>
      { g.advance with mto := g.mto && !v.getLsbD 1, regrant := g.regrant && !v.getLsbD 0 })) ∧
    (Ready s i (u true) → s.cores.length = 80 → ∃ t, exec (.swr d 0x201) s = .next t ∧ t.groups = groupsAfter s i Group.advance ∧
      ∀ c < 80, (t.acct c i.g.ctx).pol = v.setWidth 1 ∧ (t.acct c i.g.ctx).handles = (s.acct c i.g.ctx).handles ∧
        ∀ x, x ≠ i.g.ctx → t.acct c x = s.acct c x)

/-- R34 to R37, R40: XI and GUARD count as words of the run and are kept for the next word, a second one of a kind making it illegal; END ends the
run: the set's threads are at the first word after it, and the group goes on after its gap and once what it awaits is no longer pending. -/
def Obligations.RunWords : Prop :=
  ∀ (s : State) (g : Group) (i : Iss) (x : BitVec 23) (p : BitVec 3) (n : BitVec 1) (gap : BitVec 3) (y : BitVec 1) (a : BitVec 7) (k : BitVec 3),
    let at_ := fun (f : Group → Group) => s.modGroup g.core g.part g.slot f
    let word := fun (h : Group) => h.modThreads h.iset fun t => { t with pc := t.pc + 4, via := false }
    let pfx := fun (h : Group) => { h.pfx with start := some (h.pfx.start.getD h.here),
                                               via := h.pfx.via || (lanesOf h.iset h.grant).any fun l => (h.threadAt l).live && (h.threadAt l).via }
    let ended := fun (h : Group) => Group.endSet (h.modThreads h.iset fun t => { t with pc := t.pc + 4, tail := false, pos := 0, via := false })
    let await := (List.range k.toNat).filterMap fun j => regKey g.win a j
    let pending := fun (h : Group) => await.filter fun r => h.sb.any fun e => e.1 == r
    s.issuer = some g →
    (exec (.xi x) s = .next (at_ fun h => { word h with pos := h.pos + 1, pfx :=
      { pfx h with x := some x, dup := h.pfx.dup || h.pfx.x.isSome } })) ∧
    (exec (.guard p n) s = .next (at_ fun h => { word h with pos := h.pos + 1, pfx :=
      { pfx h with guard := some (p, n), dup := h.pfx.dup || h.pfx.guard.isSome } })) ∧
    (s.issueCtx = some i → i.prefixFault { guard := false } = none →
      (gap = 0 → exec (.endRun gap y a k) s = .next (at_ fun h =>
        if pending (ended h) = [] then { ended h with yielded := y == 1, status := Group.rest { ended h with yielded := y == 1 } }
        else { ended h with yielded := y == 1, status := .awaiting (pending (ended h)) })) ∧
      (gap ≠ 0 → exec (.endRun gap y a k) s = .next (at_ fun h =>
        { ended h with yielded := y == 1, status := .gapped ((s.coreAt g.core).cyc + 1 + gap.toNat) await })))

/-- R271, R264: LAUNCH of a well-formed record, aligned, present and in scratchpad, in the first core cycle of a base-die cycle: where a queue of
its priority at the tile has room it releases at .dev, the queue takes the record, with the context's next command sequence number unless a
later source came first in the same base-die cycle, and p is set; where that queue holds 64 it clears p and does nothing else, no release.
In the other core cycle it waits at its word (the model's choice, log 71). A wait word that cannot be read drops the launch (R272), of
which nothing is said here. -/
def Obligations.LaunchResults : Prop :=
  ∀ (s : State) (i : Iss) (d : BitVec 7) (p : BitVec 3),
    let u : Uses := { reads := [(d, 1)], dsrc := true, from_ := fromLow, preds := [p], guard := false }
    let o := (i.rd d 0 i.low).toNat
    let r := rdBytes i.b.scratch o 64
    let prio := launchPrio r
    let queue := fun (t : State) => t.launches.filter fun l => l.tile == i.g.core / 4 && l.prio == prio
    let rel := (counted s i u).release_ i 3
    let set := fun (v : Mask) (g : Group) => (g.putPred i.set p.toNat v).advance
    let first := (s.coreAt i.g.core).cyc % 2 = 0
    Ready s i u → o % 64 = 0 → o + 64 ≤ i.b.scrSize → i.b.absentOf [o / 128] = [] → malformedLaunch r = false →
    (first → (queue s).length < 64 → (∀ l ∈ s.launches, l.id ≠ s.nextId) →
      ((launchCtl r).getLsbD 2 = false ∨ ∃ bs, (rel.readVa i.tile i.g.ctx (launchWait r) 4).1 = .ok bs) →
      ∃ t l, exec (.launch d p) s = .next t ∧ t.groups = groupsAfter rel i (set (~~~0)) ∧ l ∈ t.launches ∧ l.record = r ∧ l.ctx = i.g.ctx ∧
      l.tile = i.g.core / 4 ∧ l.prio = prio ∧ l.id = s.nextId ∧ ((∀ x ∈ s.launches, x.cyc = (s.coreAt (4 * (i.g.core / 4))).cyc / 2 →
        x.tile = i.g.core / 4 → x.src ≤ 1 + i.g.core % 4) → ∀ c, s.ctxAt i.g.ctx = some c → l.seq = c.seq + 1)) ∧
    (first → 64 ≤ (queue s).length → ∃ t, exec (.launch d p) s = .next t ∧ t.groups = groupsAfter s i (set 0) ∧ t.launches = s.launches ∧
      t.mem = s.mem ∧ t.inflight = s.inflight ∧ t.cores = s.cores ∧ t.blocks = s.blocks) ∧
    (¬ first → exec (.launch d p) s = .next (onlyGroup (counted s i u) i fun g => { g with again := true }))

/-- R308 to R315: CNTCLM of a legal record takes a unit that is free or the context's own and says so in p; CNTRD reads a counter of the context's
unit and latches its high bits for CNTRD.h; CNTREL frees it; TRMARK writes a record to the context's own trace unit, lost when its ring is full,
and to no other. -/
def Obligations.CounterResults : Prop :=
  ∀ (s : State) (i : Iss) (d : BitVec 7) (t h : BitVec 1) (u p c : BitVec 3) (tag : BitVec 8),
    let uc : Uses := { reads := [(d, 1)], dsrc := true, from_ := fromLow, preds := [p], guard := false }
    let ur : Uses := { writes := [(d, 1)], guard := false }
    let um : Uses := { reads := [(d, 1)], dsrc := true, from_ := fromLow, guard := false }
    let o := (i.rd d 0 i.low).toNat
    let ref : UnitRef := ⟨t == 1, if t = 1 then i.g.core / 4 else i.g.core, u.toNat⟩
    let rec_ := rdBytes i.b.scratch o 32
    let x := s.unitAt ref
    let y := (counted s i ur).unitAt ref
    let trace := s.unitAt ⟨false, i.g.core, 4⟩
    let own := x.owner = .ctx i.g.ctx
    let claim := Ready s i uc ∧ o % 32 = 0 ∧ o + 32 ≤ i.b.scrSize ∧ i.b.absentOf [o / 128] = [] ∧ unitRecordOk ref false rec_ = true
    let value := if y.owner = .ctx i.g.ctx then
        (if u.toNat < 4 then y.cnt.getD c.toNat 0 else if c = 0 then y.written else if c = 1 then y.dropped else if c = 2 then y.woff else 0)
      else match s.frozenUnit i.g.ctx ref with | some z => z.value c.toNat | none => 0
    (claim → x.owner = .free ∨ own → ∃ v, exec (.cntclm d t u p) s = .next v ∧
      v.groups = groupsAfter s i (fun g => (g.putPred i.set p.toNat (~~~0)).advance) ∧ (v.unitAt ref).owner = .ctx i.g.ctx ∧
      (v.unitAt ref).record = rec_ ∧ (v.unitAt ref).cnt = List.replicate 8 0 ∧ (v.unitAt ref).written = 0) ∧
    (claim → x.owner ≠ .free → ¬ own → ∃ v, exec (.cntclm d t u p) s = .next v ∧
      v.groups = groupsAfter s i (fun g => (g.putPred i.set p.toNat 0).advance) ∧ (v.unitAt ref).owner = x.owner) ∧
    (h = 0 → Ready s i ur → Plain i ur → ∃ v, exec (.cntrd d h t u c) s = .next v ∧
      RegsWritten (onlyGroup (counted s i ur) i fun g => { g with cntLatch := BitVec.ofNat 32 (value / 2 ^ 32 % 2 ^ 16) }) v i i.act d
        [fun _ => BitVec.ofNat 32 value]) ∧
    (h = 1 → Gives s i (.cntrd d h t u c) ur i.act d [fun _ => i.g.cntLatch]) ∧
    (Ready s i { guard := false } → own → x.pend = none → ∃ v, exec (.cntrel t u) s = .next v ∧ (v.unitAt ref).owner = .free ∧
      v.groups = groupsAfter s i Group.advance ∧ v.blocks = s.blocks) ∧
    (Ready s i um → ∃ v, exec (.trmark d tag) s = .next v ∧ v.groups = groupsAfter s i Group.advance ∧
      (trace.owner ≠ .ctx i.g.ctx → v = onlyGroup (counted s i um) i Group.advance) ∧
      (trace.owner = .ctx i.g.ctx → fieldAt trace.record 12 2 % 2 = 1 → trace.takes i.loc = true → trace.missed = 0 →
        let x := v.unitAt ⟨false, i.g.core, 4⟩
        if trace.ack < fieldAt trace.record 8 4 / 32 then x.written = trace.written + 1 ∧ x.dropped = trace.dropped
        else x.written = trace.written ∧ x.dropped = trace.dropped + 1))

/-- R34, R40, R235, R258, R276: with none parked or issuing, a partition selects the Eligible group of the highest class, and its issue set is
formed of the candidates at the first one's PC; a group skipped 64 times rises by a class; a gap, a nap and an awaited write that end
let their group go on; an expired timer releases the threads held at its meeting. -/
def Obligations.SchedulerEvents : Prop :=
  ∀ (s : State) (g : Group) (c p k : Nat),
    let r : GroupRef := ⟨c, p, k⟩
    let cyc := (s.coreAt c).cyc
    let here := fun (h : Group) => h.core = c ∧ h.part = p
    let still := fun (ks : List Nat) (sb : List (Nat × Pend)) => ks.filter fun x => sb.any fun e => e.1 == x
    let go := fun (ks : List Nat) (sb : List (Nat × Pend)) => if still ks sb = [] then g.rest else .awaiting (still ks sb)
    let quiet := ∀ h ∈ s.groups, here h → ∀ w, h.status ≠ .parked w
    s.groupAt c p k = some g →
    (quiet → (∃ h ∈ s.groups, here h ∧ h.status = .issuing) → exec (.runSelect c p) s = .next s) ∧
    (quiet → (∀ h ∈ s.groups, here h → h.status ≠ .issuing ∧ h.resumed = none) → s.damped c = false → k < 16 → s.selectable g = true →
      (∀ h ∈ s.groups, here h → s.selectable h = true → h = g ∨ (h.slot ≠ k ∧ h.cls < g.cls)) → (g.cont = true ∨ g.candidates ≠ []) →
      Becomes (.runSelect c p) s fun t => ∃ g', t.groupAt c p k = some g' ∧ g'.status = .issuing ∧ g'.skip = 0 ∧ g'.regs = g.regs ∧
        g'.preds = g.preds ∧ (g.cont = true → g'.iset = g.iset) ∧
        (∀ l ls, g.cont = false → g.candidates = l :: ls →
          g'.iset = g.withHelpers (maskOf g.grant fun m => (l :: ls).contains m && (g.threadAt m).pc == (g.threadAt l).pc)) ∧
        ∀ h ∈ s.groups, ¬ here h → h ∈ t.groups) ∧
    (64 ≤ g.skip → Becomes (.skipCountBoost r) s fun t => GroupChanged s t r { g with skip := 0, cls := min 3 (g.cls + 1) }) ∧
    (∀ till ks, g.status = .gapped till ks → till ≤ cyc →
      Becomes (.gapExpire r) s fun t => GroupChanged s t r { g with status := go ks g.sb }) ∧
    (∀ n, let sb := g.sb.filter fun e => !(e.1 == n && e.2 == Pend.handle)
      (∀ ks, g.status = .awaiting ks → Becomes (.scoreboardWriteComplete r n) s fun t => GroupChanged s t r { g with sb := sb, status := go ks sb }) ∧
      ((∀ ks, g.status ≠ .awaiting ks) → Becomes (.scoreboardWriteComplete r n) s fun t => GroupChanged s t r { g with sb := sb })) ∧
    (∀ till, g.status = .parked (.nap till) → till ≤ cyc →
      Becomes (.napExpire r) s fun t => GroupChanged s t r { g with status := .eligible }) ∧
    (∀ m e, (m, e) ∈ g.timers → e ≠ 0 → e < cyc → g.grant ≤ 64 → (∃ l < g.grant, g.held l = true ∧ (g.threadAt l).meet = m) →
      Becomes (.meetTimeout r m) s fun t => ∃ g', GroupChanged s t r g' ∧
        g' = { g with threads := g'.threads, mto := true, timers := g.timers.filter fun x => x.1 != m, status := g'.status } ∧
        ∀ l : Nat, g'.threads[l]? = g.threads[l]?.map fun th =>
          if l < g.grant ∧ g.held l = true ∧ th.meet = m then { th with meet := 0xFFFFFFFF, tmo := none } else th)

/-- R16, R133, R135, R136, R139, R143, R148 to R150: a home takes from its sources round-robin; an operation it takes is performed there: a
result in a new slot, computed in its written lanes; a load and a store of its words; a compare's bits and a register's lanes sent back, free in
the lanes of poisoned elements; a reference counted, and a slot freed with its last. An answer that arrives is written to its register or
predicate, and an acknowledgement returns one credit. -/
def Obligations.HomeEvents : Prop :=
  ∀ (s : State) (o : HomeOp) (n c : Nat) (g : Group),
    let v := fun (x : HomeSrc) (l : Nat) => (s.srcLane o.core o.ctx x l).1
    let bad := fun (x : HomeSrc) (l : Nat) => (s.srcLane o.core o.ctx x l).2
    let own := fun (h : Nat) => s.slotAt o.home o.core o.ctx h
    let turn := tget 0 s.turns o.home
    let after := fun (w : Nat × Nat) => (w.1 + 6 - turn) % 6
    let done := fun (P : State → Prop) => Becomes (.homeOperation o.home) s fun t => t.homeq = s.homeq.eraseIdx n ∧ t.groups = s.groups ∧
      tget 0 t.turns o.home = (o.core % 4 + 1) % 6 ∧ P t
    let made := fun (t : State) (h : Nat) (P : Slot → Prop) =>
      ∃ x, t.slots = s.slots ++ [x] ∧ x.home = o.home ∧ x.core = o.core ∧ x.ctx = o.ctx ∧ x.handle = h ∧ x.refs = 1 ∧ P x
    let answered := fun (t : State) (P : Answer → Prop) => ∃ a, (t.coreAt o.core).answers = (s.coreAt o.core).answers ++ [a] ∧ P a
    s.power = .ready →
    (∀ w ∈ s.homeWork o.home, turn < 6 → (∀ y ∈ s.homeWork o.home, y ≠ w → after w < after y) → s.nextWork o.home = some w) ∧
    (s.nextWork o.home = some (o.core % 4, n) → s.homeq[n]? = some o → .homeLanes o.home ∉ (s.tileAt (o.home / 256)).gated →
      tableOk 0 0 s.turns = true →
      (∀ h fn a b e prior wr, o.kind = .make h fn a b e prior wr → done fun t => t.mem = s.mem ∧ made t h fun x => ∀ l < 64,
        x.lanes[l]? = some (if wr.getLsbD l then fn.eval l (v a l) (v b l) (v e l) else v prior l) ∧
        x.poison.getLsbD l = if wr.getLsbD l then bad a l || bad b l || bad e l else bad prior l) ∧
      (∀ h words prior wr, o.kind = .load h words prior wr → (words.map Prod.fst).Nodup → done fun t => t.mem = s.mem ∧ made t h fun x =>
        (∀ w ∈ words, w.1 < 64 → x.lanes[w.1]? = some (BitVec.ofNat 32 (leNat (rdBytes s.mem w.2 4))) ∧
          x.poison.getLsbD w.1 = s.poisoned w.2) ∧
        ∀ l < 64, wr.getLsbD l = false → (∀ w ∈ words, w.1 ≠ l) → x.lanes[l]? = some (v prior l) ∧ x.poison.getLsbD l = bad prior l) ∧
      (∀ words past h, o.kind = .store words past h → s.mem.wf = true → (words.Pairwise fun x y => x.2 + 4 ≤ y.2 ∨ y.2 + 4 ≤ x.2) →
        done fun t => t.slots = s.slots ∧ (∀ w ∈ words, rdBytes t.mem w.2 4 = leBytes 4 (v (.slot o.home h) w.1).toNat) ∧
          ∀ a, (∀ w ∈ words, a < w.2 ∨ w.2 + 4 ≤ a) → rdByte t.mem a = rdByte s.mem a) ∧
      (∀ cond kind a b wr part slot p, o.kind = .compare cond kind a b wr part slot p → o.core < s.cores.length → done fun t =>
        t.slots = s.slots ∧ answered t fun x => ∃ m : Mask, x = ⟨part, slot, p, wr, some m, []⟩ ∧
          ∀ l < 64, bad a l = false → bad b l = false → m.getLsbD l = condOf kind cond (v a l) (v b l)) ∧
      (∀ h wr part slot key, o.kind = .bring h wr part slot key → o.core < s.cores.length → done fun t =>
        t.slots = s.slots ∧ answered t fun x => ∃ ws, x = ⟨part, slot, key, wr, none, ws⟩ ∧
          ∀ l < 64, bad (.slot o.home h) l = false → ws[l]? = some (v (.slot o.home h) l)) ∧
      (∀ h x, o.kind = .ref h → own h = some x → done fun t => t.slotAt o.home o.core o.ctx h = some { x with refs := x.refs + 1 }) ∧
      (∀ h x, o.kind = .release h → own h = some x → 1 < x.refs → done fun t =>
        t.slotAt o.home o.core o.ctx h = some { x with refs := x.refs - 1 } ∧ t.cores = s.cores) ∧
      (∀ h x, o.kind = .release h → own h = some x → x.refs ≤ 1 → o.core < s.cores.length → done fun t =>
        t.slotAt o.home o.core o.ctx h = none ∧ (t.coreAt o.core).acks = (s.coreAt o.core).acks ++ [(o.home, o.ctx)])) ∧
    (∀ a as old, (s.coreAt c).answers = a :: as → s.groupAt c a.part a.slot = some g → a.pred = none → a.wr ≠ 0 →
      g.regs[a.key]? = some (.val old) → a.key < 256 →
      Becomes (.homeAnswerArrival c) s fun t => (t.coreAt c).answers = as ∧
        GroupChanged (s.modCore c fun k => { k with answers := as }) t ⟨c, a.part, a.slot⟩
          { withReg g a.key (.val ((List.range g.grant).map fun l => if a.wr.getLsbD l then a.words.getD l 0 else old.getD l 0)) with
            sb := g.sb.filter fun e => e.1 != a.key, rpoison := g.rpoison.filter fun e => !(e.1 == a.key && a.wr.getLsbD e.2) }) ∧
    (∀ a as m, (s.coreAt c).answers = a :: as → s.groupAt c a.part a.slot = some g → a.pred = some m → a.wr ≠ 0 → a.key < 7 →
      Becomes (.homeAnswerArrival c) s fun t => (t.coreAt c).answers = as ∧ ∃ g', t.groupAt c a.part a.slot = some g' ∧
        g' = { g with preds := g'.preds, sb := g.sb.filter fun e => e.1 != 288 + a.key,
                       rpoison := g.rpoison.filter fun e => !(e.1 == 288 + a.key && a.wr.getLsbD e.2) } ∧
        ∀ k : Nat, g'.preds[k]? = g.preds[k]?.map fun old => if k = a.key then (old &&& ~~~a.wr) ||| (m &&& a.wr) else old) ∧
    (∀ home ctx as, (s.coreAt c).acks = (home, ctx) :: as → tableOk 0 0 (s.acct c ctx).used = true →
      Becomes (.creditAckArrival c) s fun t => (t.coreAt c).acks = as ∧ t.groups = s.groups ∧ (t.acct c ctx).handles = (s.acct c ctx).handles ∧
        ∀ h, tget 0 (t.acct c ctx).used h = tget 0 (s.acct c ctx).used h - if h = home then 1 else 0)

/-- R71 to R73, R105, R107, R109, R110, R113 to R115, R117: the first operation whose turn it is starts, and those that meet an absent line stall;
WSWAP at the head exchanges the planes; a load gives the plane it writes the tile's bytes and scales; and a pass of one group's rows with the
plane of its kind streams those rows from its next on whose lines are present, and leaves in every accumulator element of them what it held
with the row's terms added, in the order of R117 with the outliers of R73, and every other element as it was. That a load starts only when
its whole tile is present, and that one event streams every row up to the first absent one, is the model's choice (log 19). -/
def Obligations.MatrixEvents : Prop :=
  ∀ (s : State) (m : Mat) (n : Nat) (o : MatOp) (b : Block),
    let q := m.queue
    let here := fun (t : State) => t.matAt m.core m.part m.ctx
    let kept := fun (t : State) => t.groups = s.groups ∧ t.blocks = s.blocks ∧ t.mem = s.mem
    let ends := fun (x : Mat) (o : MatOp) => x.queue = q.eraseIdx n ∧ x.done = m.done ++ [o] ∧
      x.badTokens = if o.bad then m.badTokens ++ o.tokens else m.badTokens
    let completes := fun (P : Mat → Prop) => Becomes (.matrixOpComplete m.core m.part m.ctx n) s fun t => kept t ∧ ∃ x, here t = some x ∧ P x
    s.power = .ready → here s = some m → m.latch = [] → m.waiting = [] → AllHeld s →
    (s.canStart m n = true → (∀ j < n, s.canStart m j = false) → .matrix m.core m.part ∉ (s.tileAt (m.core / 4)).gated →
      Becomes (.matrixOpStart m.core m.part m.ctx) s fun t => kept t ∧ ∃ x, here t = some { m with queue := x } ∧
        ∀ j : Nat, x[j]? = q[j]?.map fun y => { y with
          started := y.started || j == n, stalled := y.stalled ++ if mayStart q j then s.newStalls y else [] }) ∧
    (∀ rest, q = o :: rest → o.kind = .wswap → Becomes (.wswapTakeEffect m.core m.part m.ctx) s fun t => kept t ∧
      here t = some { m with active := m.shadow, shadow := m.active, queue := rest }) ∧
    (∀ tr bf data sc, q[n]? = some o → o.started = true → o.kind = .wload tr bf b.id data sc → o.mix = [] → s.blockAt b.id = some b →
      let odd := swaps (q.take n) % 2 = 1
      let bytes := fun a k => rdBytes b.scratch a k
      completes fun x => ends x { o with bad := s.poisonIn o.ranges } ∧ x.acc = m.acc ∧ (if odd then x.shadow = m.shadow else x.active = m.active) ∧
        let p := if odd then x.active else x.shadow
        p.bf16 = bf ∧ p.poison = s.poisonIn o.ranges ∧ p.undef = o.undef ∧ p.load = some o.id ∧
        (bf = true → ∀ r < 96, ∀ k < 32, rdBytes p.data (64 * r + 2 * k) 2 = if tr then bytes (data + 192 * k + 2 * r) 2 else bytes (data + 64 * r + 2 * k) 2) ∧
        (bf = false → tr = false → rdBytes p.data 0 12288 = bytes data 12288 ∧
          ∀ k < 192, (tget 0 p.scales k).toNat = leNat (bytes (sc + 4 * k) 4)) ∧
        (bf = false → tr = true → ∀ k < 192,
          let seg := rebase Fmt.f32 ((List.range 64).map fun j => Fmt.f32.ofNum 0 false
            ((Fmt.e4m3.decode (leNat (bytes (data + 128 * (64 * (k % 2) + j) + k / 2) 1))).mul
              (Fmt.f32.decode (leNat (bytes (sc + 8 * (64 * (k % 2) + j) + 4 * (k / 2 / 64)) 4)))))
          rdBytes p.data (64 * k) 64 = seg.1 ∧ (tget 0 p.scales k).toNat = seg.2.1)) ∧
    (∀ fn y ob oc, q[n]? = some o → o.started = true → o.kind = .stream fn [y] ob oc → fn < 3 → o.undef = false → o.bad = false →
      o.undefRows = [] → o.mix = [] → m.active.bf16 = (fn == 1) → m.active.poison = false → m.active.undef = false → y.block = b.id →
      s.blockAt b.id = some b → o.row ≤ y.rows → (∀ r < y.rows, s.poisonIn (rowRanges fn (ob, oc) b.id (y, r)) = false) → tableOk 0 0 m.acc = true →
      let w := if fn = 1 then 64 else 128
      let scale := fun r => if fn = 1 then [] else [leNat (rdBytes b.scratch (y.scale + 8 * r) 4), leNat (rdBytes b.scratch (y.scale + 8 * r + 4) 4)]
      let outs := ((List.range oc).map fun k => leNat (rdBytes b.scratch (ob + 4 * k) 4)).filter outlierOk
      ∀ last, o.row ≤ last → last ≤ y.rows → (∀ r, o.row ≤ r → r < last → s.absentIn (rowRanges fn (ob, oc) b.id (y, r)) = []) →
        (last = y.rows ∨ s.absentIn (rowRanges fn (ob, oc) b.id (y, last)) ≠ []) →
        completes fun x => x.active = m.active ∧ x.shadow = m.shadow ∧
          (if last = y.rows then ends x { o with row := last, plane := m.active.load }
            else ∃ ls, x.queue = modAt q n (fun _ => { o with row := last, stalled := o.stalled ++ ls }) ∧ x.done = m.done ∧ x.badTokens = m.badTokens) ∧
          (∀ r, o.row ≤ r → r < last → ∀ e < 96, tget 0 x.acc (96 * (y.row0 + r) + e) =
            rowElem fn m.active (rdBytes b.scratch (y.data + w * r) w) (scale r) outs e (tget 0 m.acc (96 * (y.row0 + r) + e))) ∧
          ∀ k, (k < 96 * (y.row0 + o.row) ∨ 96 * (y.row0 + last) ≤ k) → tget 0 x.acc k = tget 0 m.acc k)

/-- R11, R162, R167, R176, R179 to R181, R188, R201, R204, R206, R210, R211, R213, R340, R341, R343, R345: requests of the copy engine start in
acceptance order; a line that lands becomes present with its bytes, and a line sent outward is counted; write-combining buffers and writes in
flight reach memory or the host, those of one way in the order sent; names return; relinquished sectors become free; rows are zeroed or copied
two at a time and their register is freed; a bank is refreshed, or its refresh waits for a step; a scrubbed sector is counted or poisoned, and
an error met elsewhere poisons what it struck. The model's choices: a relinquished sector reads 0x5000 and its context, bit 12 set (log 33);
whether a refresh-management command goes with a refresh is free (log 44); the host takes or drops a posted write freely (log 77). -/
def Obligations.MovementEvents : Prop :=
  ∀ (s u : State) (c n : Nat) (r : CopyReq) (b : Block) (g : Group),
    let core := s.coreAt c
    let line := fun (l : Nat) (t : State) => (r.left = [l] → (t.coreAt c).reqs.length + 1 = (u.coreAt c).reqs.length) ∧
      (r.left ≠ [l] → ((t.coreAt c).reqs[n]?.map CopyReq.left) = some (r.left.filter (· != l)))
    let sector := fun (t : State) (k : Nat) => tget 0 (t.tileAt (k / 2 ^ 29)).fsm (k % 2 ^ 29)
    let dropped := fun (link : Bool) (v : Nat) (t : State) => link = true → s.hostTakes.1 = false → t.host = s.host ∧ (v < s.vfs.length → (t.vfAt v).aer = true)
    s.power = .ready →
    (core.reqs[n]? = some r → r.started = false → (∃ x, s.ctxAt r.ctx = some x ∧ x.run = .running) →
      (∀ j < n, ∀ q, core.reqs[j]? = some q → q.started = true ∨ ∀ x, s.ctxAt q.ctx = some x → x.run ≠ .running) →
      Becomes (.copyRequestStart c) s fun t => t = { s with cores := t.cores } ∧
        ∀ j : Nat, (t.coreAt c).reqs[j]? = if j = n then some { r with started := true } else core.reqs[j]?) ∧
    (∀ l got, s.runningReq c n = some r → r.out = false → l ∈ r.left → s.copyLine c r l = (got, u) → got.bad = none → AllHeld u →
      r.objBad = false → u.blockAt r.block = some b → b.scratch.wf = true → (u.coreAt c).reqs[n]? = some r →
      (got.bytes.map Prod.fst).Nodup →
      (∀ e ∈ got.bytes, ∀ k ∈ u.cores, ∀ q ∈ k.reqs, q.block = r.block → e.1 < q.bobj ∨ q.bobj + 8 ≤ e.1) →
      (∀ e ∈ r.inLines l, ∀ k ∈ u.cores, ∀ q ∈ k.reqs, q.block = r.block → e.1 + e.2 ≤ q.bobj ∨ q.bobj + 8 ≤ e.1) →
      Becomes (.copyLineLand c n l) s fun t => t.mem = u.mem ∧ line l t ∧ ∃ x, t.blockAt r.block = some x ∧
        x.absent = b.absent.filter (· != l) ∧ ∀ e ∈ got.bytes, rdByte x.scratch e.1 = e.2.1) ∧
    (∀ l k, s.runningReq c n = some r → r.out = true → s.blockAt r.block = some b → r.left.find? (fun k => !b.absent.contains k) = some l →
      s.sendElems c r b l = ((none, k), u) → AllHeld u → (u.coreAt c).reqs[n]? = some r → r.objBad = false →
      Becomes (.copyOutwardWrite c n) s fun t => t.mem = u.mem ∧ t.host = u.host ∧ line l t) ∧
    (∀ w, core.wc[n]? = some w → w.cyc + 4096 ≤ core.cyc →
      (∀ v ∈ s.inflight, tileOf v.core ≠ tileOf c ∨ v.link ≠ w.link ∨ (w.link = false ∧ v.addr / 2 ^ 36 ≠ w.addr / 2 ^ 36)) →
      let byte := fun (old : Memory) (a k : Nat) => if w.mask.getLsbD k then w.data.getD k 0 else rdByte old (a + k)
      let base := if w.link then hostKey w.vf w.addr else w.addr
      let at_ := fun (t : State) => if w.link then t.host else t.mem
      (at_ s).wf = true → Becomes (.wcBufferTimeout c n) s fun t => (t.coreAt c).wc = core.wc.eraseIdx n ∧ t.groups = s.groups ∧
        (if w.link then t.mem = s.mem else t.host = s.host) ∧ dropped w.link w.vf t ∧
        ((w.link = false ∨ s.hostTakes.1 = true) → ∀ k < 128, rdByte (at_ t) (base + k) = byte (at_ s) base k) ∧
        ∀ a, (a < base ∨ base + 128 ≤ a) → rdByte (at_ t) a = rdByte (at_ s) a) ∧
    (∀ p, core.stns[n]? = some p → s.groupAt c p.part p.slot = some g → g.block = p.block → AllHeld s → Becomes (.stnNameReturn c n) s fun t =>
      GroupChanged (s.modCore c fun k => { k with stns := core.stns.eraseIdx n }) t ⟨c, p.part, p.slot⟩
        { g with sb := g.sb.filter fun e => !(e.2 == .name && (e.1 == p.d || e.1 == p.d + 1 || e.1 == 288 + p.p)) }) ∧
    (∀ x, s.relqs[n]? = some x → s.tiles.length = 20 → (∀ t ∈ s.tiles, tableOk 0 0 t.fsm = true) → (∀ k ∈ x.sectors, k < 20 * 2 ^ 29) →
      Becomes (.relqInvalidate n) s fun t => t.relqs = s.relqs.eraseIdx n ∧ t.mem = s.mem ∧
        (∀ k < 20 * 2 ^ 29, sector t k = if k ∈ x.sectors then BitVec.ofNat 16 (0x5000 + x.ctx % 4096) else sector s k) ∧
        ∀ j < s.cores.length, s.partOf (j / 4) = x.part → ∀ y ∈ (t.coreAt j).l1, y.pa / 128 ∉ x.sectors) ∧
    (∀ o, s.rowops[n]? = some o → o.rows ≠ [] → o.half = false → o.undef = [] → s.mem.wf = true →
      let two := o.rows.take 2
      (∀ d a, (d, some a) ∈ two → ∀ y ∈ (s.coreAt o.core).l1, y.pa / 1024 = a / 1024 → y.dirty = false) →
      (∀ d e x, two = [d, e] → (d.1 + 1024 ≤ e.1 ∨ e.1 + 1024 ≤ d.1) ∧ (e.2 = some x → d.1 + 1024 ≤ x ∨ x + 1024 ≤ d.1)) →
      Becomes (.rowOpStep n) s fun t => t.rowops = modAt s.rowops n (fun o => { o with rows := o.rows.drop 2 }) ∧ t.groups = s.groups ∧
        (∀ d src, (d, src) ∈ two → rdBytes t.mem d 1024 = (match src with | some a => rdBytes s.mem a 1024 | none => List.replicate 1024 0) ∧
          ∀ k ∈ t.cores, ∀ y ∈ k.l1, y.pa / 1024 ≠ d / 1024) ∧
        ∀ a, (∀ d ∈ two, a < d.1 ∨ d.1 + 1024 ≤ a) → rdByte t.mem a = rdByte s.mem a) ∧
    (∀ o, s.rowops[n]? = some o → o.rows = [] → AllHeld s → s.groupAt o.core o.part o.slot = some g → g.block = o.block →
      Becomes (.rowOpComplete n) s fun t => GroupChanged { s with rowops := s.rowops.eraseIdx n } t ⟨o.core, o.part, o.slot⟩
        { g with sb := g.sb.filter fun e => !(e.1 == o.key && e.2 == .rows) }) ∧
    (∀ tile bank, tile < s.tiles.length → let x := s.tileAt tile
      let late := (∃ o ∈ s.rowops, (tile, bank) ∈ o.stepBanks) ∧ (x.refreshDue.filter (· == bank)).length < 8
      let rest := fun (t : State) => t = { s with tiles := t.tiles, life := t.life, free := s.free + 1 } ∧
        (tableOk 0 0 s.life = true → ∀ k, k ≠ 3016 + 16 * tile → tget 0 t.life k = tget 0 s.life k)
      (late → Becomes (.dramRefresh tile bank) s fun t => rest t ∧
        t.tileAt tile = { x with refreshDue := x.refreshDue ++ [bank] }) ∧
      (¬ late → Becomes (.dramRefresh tile bank) s fun t => rest t ∧ t.tileAt tile = { x with refresh := x.refresh + 1 })) ∧
    (∀ k, (k ∉ s.scrubs → exec (.scrubRead k .clean) s = .next s) ∧
      (∀ found, found = .corrected ∨ found = .met → tableOk 0 0 s.life = true → Becomes (.scrubRead k found) s fun t => t.mem = s.mem ∧ t.poison = s.poison ∧
        tget 0 t.life 176 = min (tget 0 s.life 176 + 1) (2 ^ 64 - 1)) ∧
      (tableOk 0 0 s.life = true → k / 2 ^ 29 < s.tiles.length → Becomes (.scrubRead k .uncorrectable) s fun t => t.mem = s.mem ∧ k ∈ t.poison ∧
        (∀ j, j ∈ t.poison ↔ j = k ∨ j ∈ s.poison) ∧ tget 0 t.life 184 = min (tget 0 s.life 184 + 1) (2 ^ 64 - 1) ∧
        (t.tileAt (k / 2 ^ 29)).errlog.getLsbD 63 = true ∧ t.pfCauses.getLsbD 1 = true) ∧
      (∀ x reg lane, s.groupAt x.core x.part x.slot = some g → Becomes (.scrubRead k (.elsewhere (.register x reg lane) false)) s fun t =>
        t.mem = s.mem ∧ t.pfCauses.getLsbD 1 = true ∧ ∃ p, t.groupAt x.core x.part x.slot = some { g with rpoison := p } ∧
          ∀ e, e ∈ p ↔ e = (reg, lane) ∨ e ∈ g.rpoison)) ∧
    (∀ w, s.inflight[n]? = some w →
      let base := if w.link then hostKey w.vf w.addr else w.addr
      let at_ := fun (t : State) => if w.link then t.host else t.mem
      let first := ∀ v ∈ s.inflight.take n, tileOf v.core ≠ tileOf w.core ∨ v.link ≠ w.link ∨ (w.link = false ∧ v.addr / 2 ^ 36 ≠ w.addr / 2 ^ 36)
      (¬ first → exec (.writePerformed n) s = .next s) ∧
      (first → (at_ s).wf = true → Becomes (.writePerformed n) s fun t => t.inflight = s.inflight.eraseIdx n ∧ t.groups = s.groups ∧
        (if w.link then t.mem = s.mem else t.host = s.host) ∧ dropped w.link w.vf t ∧
        ((w.link = false ∨ s.hostTakes.1 = true) → rdBytes (at_ t) base w.bytes.length = w.bytes) ∧
        ∀ a, (a < base ∨ base + w.bytes.length ≤ a) → rdByte (at_ t) a = rdByte (at_ s) a))

/-- R226, R228, R266 to R275, R281, R389 to R391: a launch record written by the host or in a packet is queued, or counted as an error or a refusal;
a token comes back; a packet's bytes are read or written in its context, or its port refuses it; a wait word is read again; a header is read, and its launch is ready or dropped;
a launch rises by its age and holds back later ones; a block is placed on its core with its groups at their role's entry; a grid that has ended
frees its entry; a foreign packet is discarded; a link read is answered once. That a posted write to the launch window counts an error is the
model's choice (log 79); the host takes a write or not, freely (log 77). -/
def Obligations.LaunchEvents : Prop :=
  ∀ (s : State) (v c tile n : Nat) (x : Context) (rec_ : List Byte) (l : Launch) (port tn : Nat),
    let vf := s.vfAt v
    let queue := s.launches.filter fun y => y.tile == tile && y.prio == launchPrio rec_
    let now := (s.coreAt (4 * tile)).cyc / 2
    let behind := fun (src : Nat) (y : Launch) => y.tile == tile && y.cyc == now && decide (src < y.src)
    let queued := fun (t : State) (src : Nat) (d : Option (List Byte)) =>
      t.launches.map Launch.id = (s.launches.filter fun y => !behind src y).map Launch.id ++ s.nextId :: (s.launches.filter (behind src)).map Launch.id ∧
      ∃ y ∈ t.launches, y.id = s.nextId ∧ y.record = rec_ ∧ y.ctx = c ∧ y.tile = tile ∧ y.digest = d ∧ y.next = 0 ∧
        (s.launches.filter (behind src) = [] → y.seq = x.seq + 1)
    let e := s.tenantAt port tn
    let enters := s.ctxAt c = some x ∧ s.firstTile vf.part = some tile ∧ vf.current = some c ∧ rec_.length = 64 ∧ malformedLaunch rec_ = false
    let noWait := (launchCtl rec_).getLsbD 2 = false
    let answers := fun (t : State) (a : WindowAnswer) => v < s.vfs.length → (t.vfAt v).window = a
    let replied := fun (t u : State) (k : Nat) (a : PortAnswer) => t.ports = modAt u.ports k fun _ => some a
    let late := (s.coreAt (4 * l.tile)).cyc
    let only := s.launchAt n = some l ∧ ∀ y ∈ s.launches, y.id = n → y = l
    let changed := fun (t : State) (y : Launch) => t = { s with launches := s.launches.map fun z => if z.id = l.id then y else z }
    let owner := match s.ctxAt l.ctx with | some c => c.vf | none => 0
    let places := s.settleLoads = s ∧ s.launches = [l] ∧ l.state = .ready ∧ l.next < l.total ∧ s.mayPlace l = true ∧ s.partOf l.tile = s.partOf tile
    s.power = .ready →
    (enters → noWait → queue.length < 64 → (∀ y ∈ s.launches, y.id ≠ s.nextId) →
      Becomes (.launchWindowDmwr v 0 rec_) s fun t => queued t 0 none ∧ answers t .success ∧ t.groups = s.groups ∧ t.mem = s.mem) ∧
    (enters → 64 ≤ queue.length → Becomes (.launchWindowDmwr v 0 rec_) s fun t => t = { s with vfs := t.vfs } ∧ answers t .retry) ∧
    (rec_.length = 64 → (malformedLaunch rec_ = true ∨ vf.current = none) → v < s.vfs.length →
      Becomes (.launchWindowDmwr v 0 rec_) s fun t => t.launches = s.launches ∧ (t.vfAt v).lwerr = vf.lwerr + 1) ∧
    (n ≠ 0 ∨ rec_.length ≠ 64 → Becomes (.launchWindowDmwr v n rec_) s fun t => t = { s with vfs := t.vfs } ∧ answers t .unsupported) ∧
    (v < s.vfs.length → Becomes (.launchWindowPostedWrite v) s fun t => t.launches = s.launches ∧ (t.vfAt v).lwerr = vf.lwerr + 1 ∧
      (t.vfAt v).irq.getLsbD 1 = true) ∧
    (enters → noWait → queue.length < 64 → (∀ y ∈ s.launches, y.id ≠ s.nextId) → port < 8 → tn < 64 →
      fieldAt e.bytes 39 1 % 2 = 1 → fieldAt e.bytes 32 2 = n → fieldAt e.bytes 37 1 / 2 ^ launchPrio rec_ % 2 = 1 → 0 < e.tokens →
      fieldAt e.bytes 38 1 % 64 = v → Becomes (.fabricLaunch port tn n rec_) s fun t => queued t (5 + port) (some (e.bytes.take 32)) ∧
        t.tenantAt port tn = { e with tokens := e.tokens - 1 }) ∧
    (port < 8 → tn < 64 → (fieldAt e.bytes 39 1 % 2 = 0 ∨ fieldAt e.bytes 32 2 ≠ n ∨ e.tokens = 0 ∨ malformedLaunch rec_ = true) →
      Becomes (.fabricLaunch port tn n rec_) s fun t => t.launches = s.launches ∧ t.tenantAt port tn = { e with refusals := e.refusals + 1 }) ∧
    (port < 8 → tn < 64 → fieldAt e.bytes 39 1 % 2 = 1 → fieldAt e.bytes 34 2 ≠ 0 → Becomes (.tokenRefill port tn) s fun t =>
      t.tenantAt port tn = { e with tokens := min (e.tokens + 1) (fieldAt e.bytes 36 1) } ∧ t.launches = s.launches) ∧
    (∀ p bs pa w u, s.ctxAt p.ctx = some x → x.vf = p.vf → p.bytes = some bs →
      s.reachParts (portTile p.port) p.ctx .write (pageParts p.va.toNat bs.length) = (some [(pa, w, bs.length)], u) → u.contexts = s.contexts →
      Becomes (.fabricMemoryPacket p) s fun t => t.groups = u.groups ∧ replied t u p.port (.done []) ∧
        if w.getLsbD 58 then t.mem = u.mem ∧ t.host = (if u.hostTakes.1 then wrBytes u.host (hostKey p.vf pa) bs else u.host)
        else t.mem = wrBytes u.mem pa bs ∧ t.host = u.host) ∧
    (∀ p pa w u, s.ctxAt p.ctx = some x → x.vf = p.vf → p.bytes = none →
      s.reachParts (portTile p.port) p.ctx .read (pageParts p.va.toNat p.len) = (some [(pa, w, p.len)], u) → w.getLsbD 58 = false →
      Becomes (.fabricMemoryPacket p) s fun t => t.groups = u.groups ∧ t.mem = u.mem ∧
        replied t u p.port (if u.poisoned pa then .poisoned else .done (rdBytes u.mem pa p.len))) ∧
    (∀ p u, s.ctxAt p.ctx = some x → x.vf = p.vf →
      s.reachParts (portTile p.port) p.ctx (if p.bytes.isSome then .write else .read)
        (pageParts p.va.toNat (match p.bytes with | some bs => bs.length | none => p.len)) = (none, u) →
      Becomes (.fabricMemoryPacket p) s fun t => t.groups = u.groups ∧ t.mem = u.mem ∧ t.host = u.host ∧ replied t u p.port .refused) ∧
    (∀ p, (∀ y, s.ctxAt p.ctx = some y → y.vf ≠ p.vf) → Becomes (.fabricMemoryPacket p) s fun t =>
      t = { s with tiles := t.tiles, ports := t.ports } ∧ replied t s p.port .refused) ∧
    (only → l.state = .waiting → (launchCtl l.record).getLsbD 2 = false → Becomes (.waitWordPoll n) s fun t =>
      changed t { l with state := .met }) ∧
    (∀ bs u, s.launchAt n = some l → l.state = .waiting → (launchCtl l.record).getLsbD 2 = true →
      s.readVa l.tile l.ctx (launchWait l.record) 4 = (.ok bs, u) →
      (BitVec.ofNat 32 (leNat bs) - BitVec.ofNat 32 (fieldAt l.record 24 4)).toInt < 0 → exec (.waitWordPoll n) s = .next u) ∧
    (∀ h u, s.launchAt n = some l → l.state = .met → s.readHeader l.tile l.ctx (launchKhdr l.record) = (.ok h, u) → u.launches = s.launches →
      u.contexts = s.contexts → l.digest = none →
      (headerOk h = true → u.fitsSome l.tile l.ctx h = true → Becomes (.launchHeaderRead n) s fun t => ∃ y, t.launchAt n = some y ∧
        y = { l with state := .ready, header := h, readyAt := (u.coreAt (4 * l.tile)).cyc, movedAt := (u.coreAt (4 * l.tile)).cyc }) ∧
      ((headerOk h && u.fitsSome l.tile l.ctx h) = false → Becomes (.launchHeaderRead n) s fun t => t.launchAt n = none ∧
        ∃ r, t.faultLog.getLast? = some r ∧ fieldAt r 14 1 = 7 ∧ fieldAt r 15 1 = 0x51)) ∧
    (only → l.state = .ready → l.readyAt + 3000000 ≤ late →
      Becomes (.launchPriorityBoost n) s fun t => changed t { l with boosted := 1 }) ∧
    (only → l.state = .ready → l.next < l.total → l.movedAt + 300000 ≤ late →
      Becomes (.launchStarvationHold n) s fun t => changed t { l with hold := true }) ∧
    (∀ fs, places → s.chooseCores tile l.ctx l.header (fun cs => !s.overBudget owner cs) (launchCsize l.record) [] = none →
      s.chooseCores tile l.ctx l.header (fun _ => true) (launchCsize l.record) [] = some fs → owner < s.vfs.length →
      Becomes (.blockPlace tile) s fun t => t.blocks = s.blocks ∧ t.groups = s.groups ∧ t.launches = s.launches ∧
        (t.vfAt owner).refused = modAt (s.vfAt owner).refused (tightest (s.budgets owner (fs.map Fit.core))) (· + 1)) ∧
    (∀ f, places → l.hold = false → launchCsize l.record = 1 →
      s.chooseCores tile l.ctx l.header (fun cs => !s.overBudget owner cs) 1 [] = some [f] →
      Becomes (.blockPlace tile) s fun t => ∃ b gs, t.blocks = s.blocks ++ [b] ∧ t.groups = s.groups ++ gs ∧ b.core = f.core ∧ b.lin = l.next ∧
        b.ctx = l.ctx ∧ b.roles = f.roles.map Prod.fst ∧ b.scratch = [] ∧ b.absent = [] ∧ b.trapEnt =
          (if fieldAt l.header 8 4 % 2 = 1 then some (BitVec.ofNat 32 (fieldAt l.header 28 4)) else none) ∧
        t.launches = [{ l with next := l.next + 1, movedAt := late }] ∧
        ∀ g ∈ gs, g.core = f.core ∧ g.block = b.id ∧ g.status = .eligible ∧ g.win = 0 ∧ g.sregs = launchSregs l.record ∧
          ∃ r, f.roles[g.role]?.map Prod.fst = some r ∧ g.grant = r.grant ∧ g.regs = List.replicate 256 (.val (List.replicate r.grant 0)) ∧
            ∀ th ∈ g.threads, th.pc = r.entry ∧ th.meet = 0xFFFFFFFF ∧ th.stack = [] ∧ th.live = true) ∧
    (s.launchAt n = some l → l.state = .ready → l.total ≤ l.next → l.total ≤ l.ended → (launchCtl l.record).getLsbD 3 = false →
      Becomes (.launchComplete n) s fun t => t.launches = (s.publish l.ctx).launches.filter fun y => y.id != n) ∧
    (∀ o pa w u, s.launchAt n = some l → l.state = .ready → l.total ≤ l.next → l.total ≤ l.ended → (launchCtl l.record).getLsbD 3 = true →
      (launchCtl l.record).getLsbD 4 = false → s.launches = [l] → s.ctxAt l.ctx = some x → x.drained = false → s.publish l.ctx = o →
      o.contexts = s.contexts → o.launches = s.launches → o.units = [] →
      { o with launches := [] }.reach l.tile l.ctx (BitVec.ofNat 64 (launchCpl l.record)) .write = (.ok pa w, u) → w.getLsbD 58 = false →
      u.launches = [] → Becomes (.launchComplete n) s fun t => t.launches = [] ∧ t.mem = wrBytes u.mem pa (leBytes 4 (fieldAt l.record 28 4))) ∧
    (∀ source, s.partOf tile ≠ source → Becomes (.meshForeignPacket tile source) s fun t => t.isolation = s.isolation + 1 ∧
      t.pfCauses.getLsbD 0 = true ∧ t.mem = s.mem ∧ t.groups = s.groups) ∧
    (∀ r a, s.reads[n]? = some r → r.answer = none →
      (Becomes (.linkReadCompletion n a) s fun t => t.reads = modAt s.reads n (fun _ => { r with answer := some a }) ∧ t.groups = s.groups) ∧
      (Becomes (.linkReadTimeout n) s fun t => t.reads = modAt s.reads n (fun _ => { r with answer := some .rejected }) ∧ t.groups = s.groups))

/-- R169, R170, R280, R283, R291, R292: writes of PARTID, a context descriptor, a residency range's control and INVCTL take effect, or are ignored
or marked where the rules refuse them; the invalidation command at the head of the queue drops every translation that it matches and no other,
and completes with its SEQ in INVSTAT. That a descriptor which changes ends both the context that it described and the one that it names, and that
none begins until its policy is accepted, is the model's choice (log 23). -/
def Obligations.RegisterEvents : Prop :=
  ∀ (s : State) (tile vf slot n part : Nat) (w : Word) (v : Addr) (c : InvCmd) (cs : List InvCmd),
    let t0 := s.tileAt tile
    let p := s.isoAt part
    let lock := t0.partid.getLsbD 31
    let root := bitsOf v 40 11 * 2048
    let good := root / 2 ^ 36 < 20 ∧ s.partOf (root / 2 ^ 36) = (s.vfAt vf).part ∧ bitsOf v 51 46 = vf
    let desc := fun (t : State) => (t.vfAt vf).ctxdesc[slot]?
    let ways := bitsOf w 23 8
    let taken := fun (j bit : Nat) => ∃ r, j ≠ n ∧ t0.res[j]? = some r ∧ r.ctl.getLsbD 31 = true ∧ (bitsOf r.ctl 23 8).testBit bit = true
    let fits := ways ≠ 0 ∧ (∀ j bit, taken j bit → ways.testBit bit = false) ∧
      ∃ bits : List Nat, bits.Nodup ∧ bits.length ≤ 12 ∧ ∀ bit < 16, (ways.testBit bit = true ∨ ∃ j, taken j bit) → bit ∈ bits
    let ctl := fun (t : State) => ((t.tileAt tile).res.getD n ResRange.init).ctl
    let queued := fun (x : Instr) (kind : Nat) => Becomes x s fun t => (t.isoAt part).queue = p.queue ++
      [⟨p.invva, (v &&& 0xFFF3FFFFFFFF0001) ||| BitVec.ofNat 64 (kind * 2 ^ 50), false⟩] ∧ t.tiles = s.tiles ∧ t.groups = s.groups
    let full := fun (x : Instr) => Becomes x s fun t => (t.isoAt part).queue = p.queue ∧ (t.isoAt part).invstat.getLsbD 31 = true
    let bad := fun (x : Instr) => Becomes x s fun t => (t.isoAt part).queue = p.queue ∧ (t.isoAt part).invstat.getLsbD 30 = true
    let pages := fun k => if k = 0 then 2 ^ 16 else if k = 1 then 2 ^ 21 else if k = 2 then 2 ^ 28 else 2 ^ 35
    s.power = .ready → s.tiles.length = 20 → s.parts.length = 20 → s.vfs.length = 64 →
    (tile < 20 → lock = false → s.resident (s.partOf tile) = false → s.resident (bitsOf w 4 0) = false → bitsOf w 4 0 < 20 →
      Becomes (.partidWrite tile w) s fun t => t.partOf tile = bitsOf w 4 0 ∧ (t.tileAt tile).partid.getLsbD 31 = w.getLsbD 31 ∧
        ∀ j, j ≠ tile → t.tileAt j = s.tileAt j) ∧
    (tile < 20 → lock = false → s.resident (s.partOf tile) = false → 20 ≤ bitsOf w 4 0 →
      Becomes (.partidWrite tile w) s fun t => t.partOf tile = s.partOf tile ∧ (t.tileAt tile).partid.getLsbD 31 = w.getLsbD 31 ∧
        ∀ j, j ≠ tile → t.tileAt j = s.tileAt j) ∧
    (lock = true ∨ s.resident (s.partOf tile) = true ∨ (bitsOf w 4 0 < 20 ∧ s.resident (bitsOf w 4 0) = true) →
      exec (.partidWrite tile w) s = .next s) ∧
    (vf < 64 → slot < 16 → (s.vfAt vf).ctxdesc.length = 16 →
      let old := (s.vfAt vf).ctxdesc.getD slot 0
      let becomes := fun (w : Addr) (P : State → Prop) => (desc s = some w → exec (.ctxdescWrite vf slot v) s = .next s) ∧
        (desc s ≠ some w → Becomes (.ctxdescWrite vf slot v) s fun t => desc t = some w ∧ P t)
      (good → becomes (v &&& 0xFFFFC1FFFFFFF801) fun t =>
        (∀ x, s.described vf old = some x ∨ s.described vf (v &&& 0xFFFFC1FFFFFFF801) = some x → t.ctxAt x.id = none) ∧
        ∀ y ∈ t.contexts, ∃ z ∈ s.contexts, z.id = y.id) ∧
      (¬ good → becomes (v &&& 0xFFFFC1FFFFFFF800) fun t => (s.described vf old = none → t.contexts = s.contexts) ∧
        ∀ x, s.described vf old = some x → t.ctxAt x.id = none)) ∧
    (tile < 20 → n < t0.res.length → w.getLsbD 31 = true →
      (fits → Becomes (.resctlWrite tile n w) s fun t => (ctl t).getLsbD 31 = true ∧ bitsOf (ctl t) 23 0 = bitsOf w 23 0) ∧
      (¬ fits → Becomes (.resctlWrite tile n w) s fun t => (ctl t).getLsbD 31 = false ∧ (ctl t).getLsbD 30 = true)) ∧
    (part < 20 → p.queue.length < 8 → p.invva.toNat % pages (bitsOf v 49 48) = 0 →
      (bitsOf v 47 32 ≠ 0 → queued (.invPages part v) 0) ∧ queued (.invContext part v) 1 ∧ queued (.invPartition part v) 2) ∧
    (part < 20 → 8 ≤ p.queue.length → full (.invPages part v) ∧ full (.invContext part v) ∧ full (.invPartition part v)) ∧
    (part < 20 → bitsOf v 47 32 = 0 → bad (.invPages part v)) ∧
    (part < 20 → p.invva.toNat % pages (bitsOf v 49 48) ≠ 0 → bad (.invPages part v) ∧ bad (.invContext part v) ∧ bad (.invPartition part v)) ∧
    (part < 20 → p.queue = c :: cs → Becomes (.invCommandExecute part) s fun t => (t.isoAt part).queue = { c with done := true } :: cs ∧
      t.mem = s.mem ∧ t.groups = s.groups ∧
      (∀ j < 20, ∀ e, e ∈ (t.tileAt j).tlb ↔ e ∈ (s.tileAt j).tlb ∧ ¬ (s.partOf j = part ∧ c.hits e = true)) ∧
      ∀ j < s.cores.length, (∀ e, e ∈ (t.coreAt j).tlb ↔ e ∈ (s.coreAt j).tlb ∧ ¬ (s.partOf (j / 4) = part ∧ c.hits e = true)) ∧
        ∀ e, e ∈ (t.coreAt j).lpr ↔ e ∈ (s.coreAt j).lpr ∧
          ¬ (c.hits e.2 = true ∧ (s.partOf (j / 4) = part ∨ ∃ y, s.ctxAt e.2.ctx = some y ∧ y.part = part))) ∧
    (part < 20 → p.queue = c :: cs → c.done = true → s.rowops = [] → s.reads = [] → s.homeq = [] → Becomes (.invCommandComplete part) s fun t =>
      (t.isoAt part).queue = cs ∧ bitsOf (t.isoAt part).invstat 15 0 = bitsOf c.ctl 31 16 ∧ t.groups = s.groups ∧
      (c.ctl.getLsbD 0 = true → t.pfCauses.getLsbD 2 = true))

/-- R145, R324, R326, R327: resolving the record that holds a group lets it go on, first in its partition, and refusing it leaves the refusal for
its instruction to take; OP 2 lets go on a group that waited at homes whose credits have all come back, and drops the records of those that
have come back at the home named; advancing HEAD writes a pending record at TAIL; FQCTL is written, or ignored where it would set EN for a ring too small. -/
def Obligations.FaultQueueEvents : Prop :=
  ∀ (s : State) (part vf : Nat) (v : Addr) (w : Word) (r : FRec) (g : Group) (h : Nat) (homes : List (Nat × Nat)) (bs : List Byte),
    let only := s.groups.filter (fun x => x.isAt r.core r.part r.slot) = [g] ∧ g.ctx = r.ctx ∧ g.block = r.block
    let held := only ∧ s.recs = [r] ∧ r.covered (s.isoAt part).fqresva v = true ∧ (s.vfAt r.vf).part = part ∧ 1 ≤ r.kind ∧ r.kind ≤ 3 ∧
      g.status = .parked .fault ∧ g.records = 1 ∧ AllHeld s
    let after := fun (x : Instr) (refused : Option Addr) => Becomes x s fun t => t.recs = [] ∧ t.mem = s.mem ∧
      (t.isoAt part).epoch = (s.isoAt part).epoch + 1 ∧ t.groupAt r.core r.part r.slot =
        some { g with records := 0, status := .eligible, resumed := some s.nextId, refused := refused }
    let x := s.vfAt vf
    let base := bitsOf x.fqbase 40 12 * 4096
    s.power = .ready → s.parts.length = 20 → part < 20 → s.vfs.length = 64 → vf < 64 →
    (held → after (.fqResolve part v) g.refused ∧ after (.fqRefuse part v) (some (BitVec.ofNat 64 r.va))) ∧
    (only → g.status = .parked (.pxexh homes false) → h ∈ homes.map Prod.fst → bitsOf v 12 0 = h → bitsOf v 63 52 = g.ctx →
      s.partOf (g.core / 4) = part →
      let there := fun (q : Nat × Nat) => decide (q.2 ≤ s.credits g.core g.ctx q.1)
      Becomes (.fqResumePxexh part v) s fun t => (t.isoAt part).epoch = (s.isoAt part).epoch + 1 ∧
        (homes.all there = true → t.groupAt r.core r.part r.slot = some { g with status := .eligible, records := g.records - homes.length }) ∧
        (homes.all there = false → t.groupAt r.core r.part r.slot = some { g with
          status := .parked (.pxexh (homes.filter fun q => !(q.1 == h && there q)) false)
          records := g.records - (homes.filter fun q => q.1 == h && there q).length })) ∧
    (x.pend = [] → Becomes (.fqheadWrite vf w) s fun t => t.mem = s.mem ∧ t.vfAt vf = { x with fqhead := w &&& 0xFFFF }) ∧
    (x.pend = [bs] → s.recs = [] → bs.length = 32 → s.mem.wf = true → s.inPart x.part (base + 32 * x.fqtail.toNat) = true →
      x.fqctl.getLsbD 31 = true →
      (x.fqtail.toNat + 1) % 2 ^ bitsOf x.fqctl 19 16 ≠ (w &&& 0xFFFF).toNat → Becomes (.fqheadWrite vf w) s fun t => (t.vfAt vf).pend = [] ∧
        (t.vfAt vf).fqtail = BitVec.ofNat 32 ((x.fqtail.toNat + 1) % 2 ^ bitsOf x.fqctl 19 16) ∧
        rdBytes t.mem (base + 32 * x.fqtail.toNat) 32 = bs) ∧
    (x.pend = [] → (w.getLsbD 31 = false ∨ (7 ≤ bitsOf w 19 16 ∧ ∀ a, (a = base ∨ a = base + 32 * 2 ^ bitsOf w 19 16 - 1) →
      a / 2 ^ 36 < 20 ∧ s.partOf (a / 2 ^ 36) = x.part)) →
      Becomes (.fqctlWrite vf w) s fun t => t.vfAt vf = { x with fqctl := w &&& 0x800F0001 }) ∧
    (w.getLsbD 31 = true → bitsOf w 19 16 < 7 → exec (.fqctlWrite vf w) s = .next s)

/-- R174, R293 to R296, R385, R388: each of these moves completes in every state of a ready package. VICTIM answers with the oldest evictable frame
of a VF over its guarantee, or of the VF itself when none is, and clears the frame's bit (the layout of the answer is the model's, log 20);
VFGUAR and VFBURST keep their limits; an aging period makes every frame older, up to 15; MAPCMD reads an entry, donates or reclaims a unit of 64
rows and writes a frame's entry unless that takes a VF above its burst, or is refused, and is ignored while BUSY; a flush drops every L1 and L2
copy of the frame and what is buffered of it. -/
def Obligations.FrameEvents : Prop :=
  ∀ (s : State) (part vf tile : Nat) (v : Addr) (w : Word) (burst : Bool),
    let p := s.isoAt part
    let x := s.vfAt vf
    let t0 := s.tileAt tile
    let n := bitsOf v 29 0
    let st := fun (k : Nat) => bitsOf (tget 0 t0.fsm k) 15 14
    let count := bitsOf w 24 0
    let others := ((List.range 64).map fun u => if u ≠ vf ∧ (s.vfAt u).part = x.part then bitsOf (s.vfAt u).guar 24 0 else 0).sum
    let above := fun (u : Nat) => u < 64 ∧ (s.vfAt u).part = part ∧ bitsOf (s.vfAt u).guar 24 0 < s.framesUsed u
    let age := fun (t k : Nat) => bitsOf (s.frameEntry t k) 15 12
    let mine := fun (e : BitVec 16) (u : Nat) => e.getLsbD 10 = true ∧ bitsOf e 5 0 = u
    let entry := t0.mapdata.setWidth 16 &&& 0x0C3F
    let owner := bitsOf entry 5 0
    let short := entry.getLsbD 10 = true ∧ ¬ mine (tget 0 t0.fmap n) owner ∧ bitsOf (s.vfAt owner).burst 24 0 < s.framesUsed owner + 1
    let command := fun (i : Instr) (bad : Prop) (P : State → Tile → Prop) => ∃ t, exec i s = .next t ∧ (t0.mapBusy = true → t = s) ∧
      (t0.mapBusy = false → let y := t.tileAt tile
        y.mapBusy = true ∧ t.groups = s.groups ∧ t.mem = s.mem ∧ (bad → y.mapcmd.getLsbD 49 = true ∧ y.fsm = t0.fsm ∧ y.fmap = t0.fmap) ∧
        (¬ bad → P t y))
    let flushed := bitsOf p.flushpa 40 16
    s.power = .ready → s.tiles.length = 20 → s.parts.length = 20 → s.vfs.length = 64 → part < 20 → vf < 64 → tile < 20 →
    (∀ t ∈ s.tiles, tableOk 0 0 t.fsm = true ∧ tableOk 0 0 t.fmap = true) →
    (∃ t, exec (.victimWrite part vf) s = .next t ∧ t.mem = s.mem ∧ t.groups = s.groups ∧
      (s.victim part vf = none → (t.isoAt part).victim = 0 ∧ t.tiles = s.tiles) ∧
      ∀ j f, s.victim part vf = some (j, f) → f < 2 ^ 20 → let a := tget 0 (s.tileAt j).fmap f
        s.partOf j = part ∧ a.getLsbD 10 = true ∧ a.getLsbD 11 = true ∧ ((∃ u, above u) → above (bitsOf a 5 0)) ∧
        ((∀ u, ¬ above u) → bitsOf a 5 0 = vf) ∧ (t.isoAt part).victim.getLsbD 63 = true ∧
        (∀ i k, i < 20 → s.partOf i = part → let b := tget 0 (s.tileAt i).fmap k
          b.getLsbD 10 = true → b.getLsbD 11 = true → bitsOf b 5 0 = bitsOf a 5 0 → age i k ≤ age j f) ∧
        bitsOf (t.isoAt part).victim 40 16 = j * 2 ^ 20 + f ∧ bitsOf (t.isoAt part).victim 5 0 = bitsOf a 5 0 ∧
        tget 0 (t.tileAt j).fmap f = a &&& 0xF7FF) ∧
    (∃ t, exec (.vfFrameCountWrite vf burst w) s = .next t ∧ t = { s with vfs := t.vfs } ∧ t.vfAt vf =
      if burst then (if count < bitsOf x.guar 24 0 then x else { x with burst := BitVec.ofNat 32 count })
      else if bitsOf x.burst 24 0 < count ∨ (s.tilesOf x.part).length * 2 ^ 20 < others + count then x
      else { x with guar := BitVec.ofNat 32 count }) ∧
    (∃ t, exec .frameAgingTick s = .next t ∧ t.tiles = s.tiles ∧ t.mem = s.mem ∧ t.groups = s.groups ∧ ∀ f,
      (tget 0 t0.fmap f).toNat < 4096 → tget 0 t0.touched f ≤ s.ticks → bitsOf (t.frameEntry tile f) 15 12 = min 15 (age tile f + 1)) ∧
    command (.mapReadSector tile v) (2 ^ 29 ≤ n) (fun _ y => y.fsm = t0.fsm ∧ y.fmap = t0.fmap ∧ y.mapdata = (tget 0 t0.fsm n &&& 0xCFFF).setWidth 64) ∧
    command (.mapDonateUnit tile v) (2 ^ 20 ≤ n ∨ ∃ k ∈ unitSectors n, st k ≠ 0) (fun _ y =>
      ∀ k, tget 0 y.fsm k = if k ∈ unitSectors n then BitVec.ofNat 16 (0x4000 + bitsOf v 61 50) else tget 0 t0.fsm k) ∧
    command (.mapReclaimUnit tile v) (2 ^ 20 ≤ n ∨ ∃ k ∈ unitSectors n, 2 ≤ st k) (fun _ y =>
      ∀ k, tget 0 y.fsm k = if k ∈ unitSectors n then 0 else tget 0 t0.fsm k) ∧
    command (.mapWriteFrame tile v) (2 ^ 20 ≤ n) (fun t y => y.fsm = t0.fsm ∧
      (short → y.fmap = t0.fmap ∧ (t.vfAt owner).frameErr = true ∧ t.pfCauses.getLsbD 4 = true) ∧
      (¬ short → t.vfs = s.vfs ∧ ∀ k, tget 0 y.fmap k = if k = n then entry else tget 0 t0.fmap k)) ∧
    (∃ t, exec (.mapCommandDone tile) s = .next t ∧ t = { s with tiles := t.tiles } ∧ t.tileAt tile = { t0 with mapBusy := false }) ∧
    (∃ t, exec (.flushFrame part v) s = .next t ∧ (p.flushing = true → t = s) ∧ (p.flushing = false →
      (t.isoAt part).flushing = true ∧ t.groups = s.groups ∧ (∀ c < 80, ∀ y ∈ (t.coreAt c).l1, y.pa / 65536 ≠ flushed) ∧
      (∀ c < 80, s.partOf (c / 4) = part → ∀ y ∈ (t.coreAt c).wc, y.link = false → y.addr / 65536 ≠ flushed) ∧
      ∀ y ∈ (t.tileAt (flushed / 2 ^ 20)).l2, y.line / 64 ≠ flushed % 2 ^ 20)) ∧
    (∃ t, exec (.flushFrameDone part) s = .next t ∧ t = { s with parts := t.parts } ∧ t.isoAt part = { p with flushing := false })

/-- R4, R303, R304, R308, R309, R314, R315, R317, R384 to R386, R390: the physical function takes a unit that no context owns, waits for one that a
context owns, or is refused; it releases its unit and acknowledges records; a tenant-table entry changes only while it is disabled; a 64-bit write
to the place of a register acts as the write of that register, clears the causes written as 1, or is ignored where there is none; a window's
counters are published; a sample is written for an issuing group; a reuse tag that has run out counts in the last bin. That a write of eight
bytes to a misaligned offset is ignored, in any window, is the model's choice (log 43). -/
def Obligations.UnitEvents : Prop :=
  ∀ (s : State) (r : UnitRef) (v : Addr) (f : Filter) (port n : Nat) (g : Group) (tag : ReuseTag) (data : List Byte) (tile part vf : Nat),
    let u := s.unitAt r
    let e := s.tenantAt port n
    let at_ := fun (x : Instr) (P : CUnit → Prop) => Becomes x s fun t => P (t.unitAt r) ∧ t.groups = s.groups ∧ t.mem = s.mem
    let ok := s.pfFilter r v = some f ∧ unitRecordOk r true u.pfrec = true
    let status := fun (x : CUnit) => bitsOf x.pfctl 63 62
    let same := fun (off : Nat) (x : Instr) => exec (.registerWrite none off v) s = exec x s
    let inVf := fun (off : Nat) (x : Instr) => exec (.registerWrite (some vf) off v) s = exec x s
    let w : Word := v.setWidth 32
    s.power = .ready → realUnit r = true → port < 8 → n < 64 → tile < 20 → part < 20 → vf < 64 → s.vfs.length = 64 →
    (ok → (∀ c, u.owner ≠ .ctx c) → at_ (.pfClaimUnit r v) fun x => x.owner = .pf ∧ x.filter = f ∧ x.record = u.pfrec ∧ x.pfrec = u.pfrec ∧
      x.cnt = List.replicate 8 0 ∧ x.written = 0 ∧ status x = 0) ∧
    (∀ c, ok → u.owner = .ctx c → at_ (.pfClaimUnit r v) fun x => x = { u with pend := some ⟨f, u.pfrec⟩, pfctl := x.pfctl } ∧ status x = 1) ∧
    ((s.pfFilter r v = none ∨ unitRecordOk r true u.pfrec = false) → at_ (.pfClaimUnit r v) fun x => x = { u with pfctl := x.pfctl } ∧ status x = 2) ∧
    (u.owner = .pf → at_ (.pfReleaseUnit r) fun x => x.owner = .free ∧ x.pfrec = u.pfrec ∧ status x = 0) ∧
    (u.owner ≠ .pf → at_ (.pfReleaseUnit r) fun x => x = { u with pend := none, pfctl := x.pfctl } ∧ status x = 0) ∧
    (r.unit = 4 → u.owner = .pf → bitsOf v 31 0 % 32 = 0 → bitsOf v 31 0 < u.size → at_ (.pfAckTrace r v) fun x =>
      x = { u with pfctl := x.pfctl, ack := min u.ack ((u.woff + u.size - bitsOf v 31 0) % u.size / 32) } ∧ status x = 0) ∧
    ((r.unit ≠ 4 ∨ u.owner ≠ .pf) → at_ (.pfAckTrace r v) fun x => x = { u with pfctl := x.pfctl } ∧ status x = 2) ∧
    (bitsOf v 63 62 = 0 → r.tile = false → Becomes (.registerWrite none (0x100108 + 0x1000 * r.idx + 0x80 * r.unit) v) s fun t =>
      t.unitAt r = { u with pfctl := (v &&& 0x3FFFFC00FFFFFFFF) ||| (u.pfctl &&& 0xC000000000000000) } ∧ t.groups = s.groups) ∧
    (∀ off, fieldAt e.bytes 39 1 % 2 = 0 → off + data.length ≤ 37 → e.bytes.length = 64 → Becomes (.tenantEntryWrite port n off data) s fun t =>
      t.tenantAt port n = { e with bytes := (t.tenantAt port n).bytes } ∧ ∀ k : Nat, (t.tenantAt port n).bytes[k]? =
        if off ≤ k ∧ k < off + data.length then some (data.getD (k - off) 0) else e.bytes[k]?) ∧
    (∀ off, fieldAt e.bytes 39 1 % 2 = 1 → off + data.length ≤ 39 → Becomes (.tenantEntryWrite port n off data) s fun t =>
      t.tenantAt port n = e) ∧
    (∀ b, fieldAt e.bytes 39 1 % 2 = 0 → data = [b] → b.getLsbD 0 = true → e.bytes.length = 64 →
      Becomes (.tenantEntryWrite port n 39 data) s fun t => fieldAt (t.tenantAt port n).bytes 39 1 = 1 ∧
        (t.tenantAt port n).tokens = fieldAt e.bytes 36 1 ∧ (t.tenantAt port n).refusals = 0) ∧
    (∀ off window, off % 8 ≠ 0 → exec (.registerWrite window off v) s = .next s) ∧
    (Becomes (.registerWrite none 8 v) s fun t => t = { s with pfCauses := s.pfCauses &&& ~~~(w &&& 0x3F) }) ∧
    (Becomes (.registerWrite (some vf) 0x200 v) s fun t => t.vfAt vf = { s.vfAt vf with irq := (s.vfAt vf).irq &&& ~~~(w &&& 0x1F) }) ∧
    (Becomes (.registerWrite (some vf) 0x100 v) s fun t => t.vfAt vf = { s.vfAt vf with fqbase := v &&& 0x1FFFFFFF000 }) ∧
    (same (0x200000 + 0x10000 * tile) (.partidWrite tile w) ∧ (∀ k < 8, same (0x200110 + 0x10000 * tile + 0x20 * k) (.resctlWrite tile k w)) ∧
      (∀ k < 16, same (0x600100 + 0x1000 * vf + 8 * k) (.ctxdescWrite vf k v)) ∧
      same (0x600010 + 0x1000 * vf) (.vfFrameCountWrite vf false w) ∧ same (0x600018 + 0x1000 * vf) (.vfFrameCountWrite vf true w) ∧
      same (0x400030 + 0x1000 * part) (.victimWrite part (bitsOf v 5 0)) ∧ same (0x400048 + 0x1000 * part) (.flushFrame part v) ∧
      (bitsOf v 51 50 = 0 → same (0x400008 + 0x1000 * part) (.invPages part v) ∧ same (0x400028 + 0x1000 * part) (.fqResolve part v)) ∧
      (bitsOf v 51 50 = 1 → same (0x400008 + 0x1000 * part) (.invContext part v) ∧ same (0x400028 + 0x1000 * part) (.fqRefuse part v)) ∧
      (bitsOf v 51 50 = 2 → same (0x400008 + 0x1000 * part) (.invPartition part v) ∧ same (0x400028 + 0x1000 * part) (.fqResumePxexh part v)) ∧
      (bitsOf v 63 62 = 0 → same (0x201000 + 0x10000 * tile) (.mapReadSector tile v)) ∧
      (bitsOf v 63 62 = 1 → same (0x201000 + 0x10000 * tile) (.mapDonateUnit tile v)) ∧
      (bitsOf v 63 62 = 2 → same (0x201000 + 0x10000 * tile) (.mapReclaimUnit tile v)) ∧
      (bitsOf v 63 62 = 3 → same (0x201000 + 0x10000 * tile) (.mapWriteFrame tile v)) ∧
      inVf 0x108 (.fqctlWrite vf w) ∧ inVf 0x110 (.fqheadWrite vf w)) ∧
    (u.owner ≠ .free → u.from_ + s.minwin u ≤ s.unitCycle r → (s.units.filter fun x => x.ref == r) = [u] → Becomes (.snapshotWindow r) s fun t =>
      (t.unitAt r).from_ = u.from_ + s.minwin u ∧ (t.unitAt r).cnt = u.cnt ∧ ∀ i < 8, s.granularity u i = 2 →
        (t.unitAt r).snap[i]? = some (if u.cnt.getD i 0 = 0 then 0 else 2 ^ Nat.log2 (u.cnt.getD i 0))) ∧
    (u.owner ≠ .free → s.unitCycle r < u.from_ + s.minwin u → exec (.snapshotWindow r) s = .next s) ∧
    (r = ⟨false, r.idx, 4⟩ → s.units = [u] → u.owner = .pf → u.filter = .all → fieldAt u.record 24 8 = 0 → u.missed = 0 →
      u.ack + 1 ≤ u.size / 32 → 0 < fieldAt u.record 14 1 → (s.coreAt r.idx).cyc % 2 ^ fieldAt u.record 14 1 = 0 →
      fieldAt u.record 12 2 / 2 % 2 = 1 → s.groups = [g] → g.core = r.idx → g.part < 4 → g.status = .issuing →
      Becomes (.tracePcSample r.idx) s fun t => (t.unitAt r).written = u.written + 1 ∧ t.groups = s.groups ∧ (t.unitAt r).dropped = u.dropped) ∧
    (fieldAt u.record 14 1 = 0 → r = ⟨false, r.idx, 4⟩ → exec (.tracePcSample r.idx) s = .next s) ∧
    ((s.tileAt tile).tags.find? (fun x => x.n == tag.n) = some tag → 2 ^ 20 ≤ tag.d → r = ⟨true, tile, tag.unit⟩ →
      (s.units.filter fun x => x.ref == r) = [u] → u.cnt.length = 8 → tile < s.tiles.length → Becomes (.reuseTagExpire tile tag.n) s fun t =>
        (t.tileAt tile).tags = (s.tileAt tile).tags.filter (fun x => x.n != tag.n) ∧ ∀ i : Nat, (t.unitAt r).cnt[i]? = u.cnt[i]?.map fun c =>
          if selCounts (selector u.record i) 10 15 0 then (c + 1) % 2 ^ 48 else c)

/-- R298, R345, R346, R394 to R398: a cone's reading stands in its register, and in an emergency every damper goes to 7; a damper moves by its
cones' limits and never below the floor; the floor and a VF's cap move by the power measured; an emergency that lasts ends the power; a unit
that has been idle for its time gates, and wakes; a hot quadrant's refresh is charged to the VFs in proportion to their slots (how many bytes is a free value, log 21); a droop is
counted; a tile's supply follows its hottest cone (a free function, log 4). The model's choices: while an emergency lasts no damper moves
(log 37); from when a unit's idle time counts (log 46). -/
def Obligations.ThermalEvents : Prop :=
  ∀ (s : State) (tile n c vf watts : Nat) (valid : Bool) (temp : BitVec 16) (u : PowerUnit),
    let cones := fun (t : State) => (t.tileAt tile).cones
    let reading : Word := (if valid then 0x10000 else 0) ||| temp.setWidth 32
    let t0 := s.tileAt (c / 4)
    let q := c % 4
    let lane := t0.temps [4 * q, 4 * q + 1, 4 * q + 2, 4 * q + 3]
    let logic := lane ++ t0.temps [16 + 2 * q, 17 + 2 * q]
    let dram := t0.temps [28 + q]
    let hot := (∃ x ∈ logic, 103 * 64 ≤ x) ∨ ∃ x ∈ dram, 93 * 64 ≤ x
    let cool := (∀ x ∈ logic, x ≤ 101 * 64) ∧ ∀ x ∈ dram, x ≤ 91 * 64
    let old := (s.coreAt c).damper
    let level := fun (t : State) => (t.coreAt c).damper
    let least := fun (x : Nat) => max s.floor (if lane = [] then max 4 x else x)
    let x := s.vfAt vf
    let limit := bitsOf x.plbud 63 48
    let cap := fun (k : Nat) => Becomes (.vfCapUpdate vf watts) s fun t => t.vfAt vf =
      { x with power := watts, measured := x.traffic, traffic := 0, cap := k }
    let used := (s.coreAt c).issued
    let total := (used.map Prod.snd).sum
    let warm := ∃ y ∈ dram, 85 * 64 < y
    let idle := match u with | .matrix _ _ => 4096 | .homeLanes _ => 16384 | .portLanes _ => 3000000
    let last := ((s.tileAt (powerTile u)).used.find? fun e => e.1 == u).elim 0 Prod.snd
    s.power = .ready → s.tiles.length = 20 → s.cores.length = 80 → s.vfs.length = 64 → tile < 20 → c < 80 → vf < 64 →
    (n < (cones s).length → Becomes (.coneSample tile n valid temp) s fun t => cones t = modAt (cones s) n (fun _ => reading) ∧
      ((∃ y ∈ t.tiles, y.emergency = true) → t.hot ≠ 0 ∧ (s.hot ≠ 0 → t.hot = s.hot) ∧ ∀ k < 80, (t.coreAt k).damper = 7) ∧
      ((∀ y ∈ t.tiles, y.emergency = false) → t.hot = 0 ∧ t.cores = s.cores)) ∧
    (s.hot ≠ 0 → exec (.damperEvaluate c) s = .next s) ∧
    (s.hot = 0 → (hot → Becomes (.damperEvaluate c) s fun t => level t = least (min 7 (old + 1))) ∧
      (¬ hot → cool → Becomes (.damperEvaluate c) s fun t => level t = least (old - 1)) ∧
      (¬ hot → ¬ cool → Becomes (.damperEvaluate c) s fun t => level t = least old ∧ ∀ k, k ≠ c → t.coreAt k = s.coreAt k)) ∧
    (Becomes (.powerFloorUpdate watts) s fun t => t.floor = (if 3200 < watts then min 7 (s.floor + 1) else if watts < 3100 then s.floor - 1 else s.floor) ∧
      ∀ k < 80, (t.coreAt k).damper = max t.floor (s.coreAt k).damper) ∧
    (limit ≠ 0 → limit < watts → cap (min 7 (x.cap + 1))) ∧ (limit = 0 ∨ 10 * watts ≤ 9 * limit → cap (x.cap - 1)) ∧
    (limit ≠ 0 → watts ≤ limit → 9 * limit < 10 * watts → cap x.cap) ∧
    (s.hot ≠ 0 → s.hot + 30000000 ≤ (s.coreAt 0).cyc + 1 → Becomes .thermalPowerOff s fun t => t.power = .off ∧ t.flash = s.writeLife.flash ∧
      t.groups = [] ∧ t.mem = []) ∧
    (s.hot = 0 ∨ (s.coreAt 0).cyc + 1 < s.hot + 30000000 → exec .thermalPowerOff s = .next s) ∧
    (s.unitBusy u = false → last + idle ≤ (s.coreAt 0).cyc → powerTile u < 20 → Becomes (.unitGate u) s fun t =>
      u ∈ (t.tileAt (powerTile u)).gated ∧ t.groups = s.groups) ∧
    (s.unitBusy u = true ∨ (s.coreAt 0).cyc < last + idle → exec (.unitGate u) s = .next s) ∧
    (powerTile u < 20 → Becomes (.unitWake u) s fun t => u ∉ (t.tileAt (powerTile u)).gated ∧ t.groups = s.groups ∧
      ∀ y, y ≠ u → (y ∈ (t.tileAt (powerTile u)).gated ↔ y ∈ (s.tileAt (powerTile u)).gated)) ∧
    (¬ warm → Becomes (.heatChargeWindow c) s fun t => (t.coreAt c).issued = [] ∧ t.vfs = s.vfs) ∧
    (warm → total ≠ 0 → (used.map Prod.fst).Nodup → Becomes (.heatChargeWindow c) s fun t => (t.coreAt c).issued = [] ∧
      ∃ bytes < 16384001, ∀ e ∈ used, e.1 < 64 → (t.vfAt e.1).traffic = (s.vfAt e.1).traffic + bytes * e.2 / total) ∧
    (tableOk 0 0 s.life = true → Becomes (.voltageDroop tile) s fun t =>
      tget 0 t.life (2848 + 8 * tile) = min (tget 0 s.life (2848 + 8 * tile) + 1) (2 ^ 64 - 1) ∧ t.groups = s.groups) ∧
    (Becomes (.voltageUpdate tile) s fun t => ∀ y ∈ (s.tileAt tile).temps (List.range 28), (∀ z ∈ (s.tileAt tile).temps (List.range 28), z ≤ y) →
      (t.tileAt tile).voltage = Config.minVoltage tile (BitVec.ofInt 16 y))

/-- R345, R346, R387, R399 to R401: at power-on and at a reset the image is verified: the package is ready with nothing resident and memory zero, or
in recovery, where a good image written boots it; the lifetime record is written beside the newest copy; an orderly shutdown writes it and a
power failure loses it; a reset of a VF ends its contexts and clears its queues and its key; an attestation names its function, its nonce and
its firmware. -/
def Obligations.PowerEvents : Prop :=
  ∀ (s : State) (fw : FirmwareImage) (vf tenant : Nat) (key : List Byte) (who : Option Nat),
    let good := fun (f : FirmwareImage) => Config.sm3 f.bytes = f.digest ∧ Config.sm3 f.key = Config.rootDigest ∧
      Config.sm2Verify f.key (Config.sm3 f.bytes) f.signature = true ∧ s.fuseRoll ≤ f.rollback
    let empty := fun (t : State) => t.groups = [] ∧ t.blocks = [] ∧ t.contexts = [] ∧ t.mem = [] ∧ t.host = s.host ∧ t.flash = s.flash
    let up := fun (f : FirmwareImage) (t : State) => empty t ∧ t.power = .ready ∧ t.fw = f.bytes ∧ t.fuseRoll = f.rollback ∧
      (if s.cert = [] then t.devKey = (Config.sm2Keys Config.deviceSecret).1 ∧ t.cert = Config.certificate (Config.sm2Keys Config.deviceSecret).2
        else t.devKey = s.devKey ∧ t.cert = s.cert)
    let recovers := fun (t : State) => empty t ∧ t.power = .recovery ∧ t.fuseRoll = s.fuseRoll
    let x := s.vfAt vf
    let fn := fun (t : State) => match who with | some v => t.vfAt v | none => t.pfReport
    let seq := match newestLife s.flash with | some r => fieldAt r 8 8 + 1 | none => 1
    let recorded := fun (t : State) => (∃ r ∈ t.flash, lifeValid r = true ∧ fieldAt r 8 8 = seq % 2 ^ 64) ∧
      ∀ r, newestLife s.flash = some r → s.flash.length = 2 → r ∈ t.flash
    ((s.power = .off ∨ s.power = .booting) → (good fw → Becomes (.powerOnReset fw) s (up fw)) ∧ (¬ good fw → Becomes (.powerOnReset fw) s recovers)) ∧
    (s.power ≠ .off → s.image = some fw → (good fw → Becomes .packageReset s (up fw)) ∧ (¬ good fw → Becomes .packageReset s recovers)) ∧
    (s.power = .recovery → (good fw → Becomes (.recoveryImageWrite fw) s (up fw)) ∧ (¬ good fw → Becomes (.recoveryImageWrite fw) s recovers)) ∧
    (s.power ≠ .recovery → exec (.recoveryImageWrite fw) s = .next s) ∧
    (Becomes .powerFailure s fun t => empty t ∧ t.power = .off ∧ t.fuseRoll = s.fuseRoll) ∧
    (s.power = .ready → s.vfs.length = 64 → vf < 64 → (∀ v, who = some v → v < 64) →
      (Becomes .lifetimeRecordWrite s fun t => recorded t ∧ t.groups = s.groups ∧ t.mem = s.mem) ∧
      (Becomes .orderlyShutdown s fun t => recorded t ∧ t.power = .off ∧ t.groups = []) ∧
      (Becomes (.bindTenantKey vf tenant key) s fun t => t.vfAt vf = { x with tenant := tenant, key := key } ∧ t.contexts = s.contexts) ∧
      ((s.contexts.map Context.id).Nodup → Becomes (.vfFlr vf) s fun t => (∀ c ∈ t.contexts, c.vf = vf → c.run = .ended) ∧ (t.vfAt vf).fqctl = 0x00070000 ∧ (t.vfAt vf).fqhead = 0 ∧
        (t.vfAt vf).fqtail = 0 ∧ (t.vfAt vf).pend = [] ∧ (t.vfAt vf).irq = 0 ∧ (t.vfAt vf).key = []) ∧
      ((fn s).attBusy = false → Becomes (.attestRequest who) s fun t => fn t = { fn s with attBusy := true, nonceUsed := (fn s).nonce }) ∧
      ((fn s).attBusy = true → (fn s).nonceUsed.length = 32 → Becomes (.attestReportReady who) s fun t => (fn t).attBusy = false ∧
        (fn t).report.length = 224 ∧ fieldAt (fn t).report 0 4 = 0xC5D1A77E ∧ fieldAt (fn t).report 7 1 = who.getD 0xFF ∧
        ((fn t).report.drop 8).take 32 = (fn s).nonceUsed ∧ ((fn t).report.drop 40).take 32 = padTo 32 (Config.sm3 s.fw)))

/-- R155, R283, R301, R303, R335 to R339: a context is created under an accepted policy, or nothing changes; it is pre-empted, saved once nothing of it
runs, and restored where a plan finds cores, waits where none is free, and answers CTXCAP where none could hold it; its proxies are brought
out; its threads and their timers are mapped by their safe-point table; where every header known of it sets FLAGS[1] its blocks run on and what
is not placed passes to the target; and a context destroyed leaves nothing. The model's choices: how a plan is sought and when a restore waits
(log 48); that the context migrated live has ended here with its mapped image left, and what of a drained one stays (log 49). -/
def Obligations.ContextEvents : Prop :=
  ∀ (s : State) (vf slot k part rev : Nat) (d : Addr) (pol target : List Byte) (c : Context) (m : Image) (g : Group) (b : Block)
    (plan : List (Nat × Nat × List RolePlan × List (Nat × Nat))),
    let root := bitsOf d 40 11 * 2048
    let mine := fun (t : State) => t.ctxAt k
    let runs := fun (r : CtxRun) => s.ctxAt k = some c ∧ c.run = r
    let image := (s.images.find? fun x => x.ctx == k) = some m
    let olds := dedup (m.cores.map tileOf)
    let tried := fun (x : Instr) => image →
      (∀ n, s.ctxcap m part = some n → Becomes x s fun t => mine t = some { c with answer := 256 + n, run := .saved } ∧ t.groups = s.groups ∧
        t.images = s.images) ∧
      (s.ctxcap m part = none → s.planAll m part olds [] = none → Becomes x s fun t =>
        mine t = some { c with answer := 1, run := .restoring, part := part } ∧ t.groups = s.groups ∧ t.images = s.images) ∧
      (s.ctxcap m part = none → s.planAll m part olds [] = some plan → Becomes x s fun t =>
        mine t = some { c with answer := 0, run := .running, part := part } ∧ t.blocks.length = s.blocks.length + m.blocks.length ∧
        (∀ y ∈ m.blocks, ∃ z ∈ t.blocks, z.id = y.id ∧ z.scratch = y.scratch ∧ z.absent = y.absent ∧ z.priv = y.priv ∧ z.bars = y.bars) ∧
        ∀ y ∈ t.images, y.ctx = k → y.groups = [] ∧ y.blocks = [])
    let tb := s.safeTable b
    let known := fun (l : Launch) => l.ctx = k ∧ l.state = .ready
    let drains := fun (l : Launch) => fieldAt l.header 8 4 / 2 % 2 = 1
    s.power = .ready → s.vfs.length = 64 → vf < 64 → slot < (s.vfAt vf).ctxdesc.length →
    (s.policyAccepted vf pol = false → Becomes (.contextCreate vf slot d pol) s fun t => t = { s with vfs := t.vfs } ∧
      t.vfAt vf = { s.vfAt vf with created := some false }) ∧
    (s.policyAccepted vf pol = true → d.getLsbD 0 = true → bitsOf d 63 52 = k → k ≠ 0 → mine s = none → bitsOf d 51 46 = vf →
      root / 2 ^ 36 < 20 → s.partOf (root / 2 ^ 36) = (s.vfAt vf).part → tableOk 0 0 (s.vfAt vf).polseq = true → slot < 16 →
      (∀ y ∈ (s.vfAt vf).ctxdesc, descCtx y ≠ some k) →
      Becomes (.contextCreate vf slot d pol) s fun t => (s.described vf ((s.vfAt vf).ctxdesc.getD slot 0) = none → t.groups = s.groups) ∧
        (∃ x, mine t = some x ∧ x.vf = vf ∧ x.root = root ∧ x.policy = pol ∧ x.run = .running) ∧ (t.vfAt vf).created = some true ∧
        tget 0 (t.vfAt vf).polseq (fieldAt pol 8 2) = fieldAt pol 12 4) ∧
    (runs .running → Becomes (.preempt k) s fun t => mine t = some { c with run := .stopping } ∧ t.groups = s.groups ∧ t.mem = s.mem) ∧
    (runs .stopping → s.canSave k = true → s.homeq = [] → (∀ x ∈ s.cores, x.answers = []) → s.rowops = [] →
      (∀ x ∈ s.cores, x.stns = []) → Becomes (.contextSave k) s fun t => mine t = some { c with run := .saved } ∧ (∀ x ∈ t.groups, x.ctx ≠ k) ∧ (∀ x ∈ t.blocks, x.ctx ≠ k) ∧
        ∃ i ∈ t.images, i.ctx = k ∧ i.blocks.map Block.scratch = (s.blocks.filter fun x => x.ctx == k).map Block.scratch ∧
          i.groups.map Group.regs = (s.groups.filter fun x => x.ctx == k).map Group.regs ∧
          i.groups.map Group.preds = (s.groups.filter fun x => x.ctx == k).map Group.preds) ∧
    (s.ctxAt k = some c → (c.run ≠ .stopping ∨ s.canSave k = false) → exec (.contextSave k) s = .next s) ∧
    (runs .saved → tried (.restore k part)) ∧ (runs .restoring → c.part = part → tried (.restoreComplete k)) ∧
    ((∀ x, s.ctxAt k = some x → x.run ≠ .saved) → exec (.flattenContext k) s = .next s) ∧
    (runs .saved → image → Becomes (.flattenContext k) s fun t => (∀ y ∈ t.slots, y.ctx ≠ k) ∧ t.groups = s.groups ∧ ∀ y ∈ t.images, y.ctx = k →
      y.proxied = false ∧ y.groups.length = m.groups.length ∧ ∀ (n : Nat) (x z : Group), m.groups[n]? = some x → y.groups[n]? = some z →
        ∀ (r h q : Nat) (w : Slot), x.regs[r]? = some (.px h q) → s.slotAt h x.core x.ctx q = some w →
          z.regs[r]? = some (.val ((List.range x.grant).map fun l => w.lanes.getD l 0))) ∧
    (∀ ts, runs .saved → image → m.groups = [g] → m.blocks.find? (fun x => x.id == g.block) = some b → 0 < fieldAt tb 0 4 → fieldAt tb 4 1 = rev →
      (tb.drop 16).take 32 = target → g.atStarts = true → g.threads.mapM (mapThread tb) = some ts →
      Becomes (.liveMigrate k target rev) s fun t => mine t = some { c with run := .ended } ∧
        ∀ y ∈ t.images, y.ctx = k → y.groups = [{ g with threads := ts, timers := g.timers.map fun x => ((mapOff tb x.1).getD x.1, x.2) }]) ∧
    (image → m.groups = [g] → m.blocks.find? (fun x => x.id == g.block) = some b → fieldAt tb 4 1 ≠ rev →
      exec (.liveMigrate k target rev) s = .next s) ∧
    (s.ctxAt k = some c → (∀ x ∈ s.blocks, x.ctx = k → x.drain = true) → (∀ l ∈ s.launches, known l → drains l) →
      ((∃ x ∈ s.blocks, x.ctx = k) ∨ ∃ l ∈ s.launches, known l) → Becomes (.drainMigrate k) s fun t => t.blocks = s.blocks ∧ t.groups = s.groups ∧
        mine t = some { c with
          drained := true
          reported := if s.blocks.any (fun x => x.ctx == k) || t.launches.any (fun l => l.ctx == k) then c.reported else true } ∧
        t.passed = s.passed ++ (s.launches.filter fun l => l.ctx == k && decide (l.next < l.total)) ∧
        (∀ y ∈ t.launches, y.ctx = k → y.total = y.next) ∧ ∀ l ∈ s.launches, l.ctx = k → l.next ≠ 0 → { l with total := l.next } ∈ t.launches) ∧
    (((∃ x ∈ s.blocks, x.ctx = k ∧ x.drain = false) ∨ (∃ l ∈ s.launches, known l ∧ ¬ drains l) ∨
      ((∀ x ∈ s.blocks, x.ctx ≠ k) ∧ ∀ l ∈ s.launches, ¬ known l)) → exec (.drainMigrate k) s = .next s) ∧
    (s.ctxAt k = some c → c.vf < 64 → Becomes (.contextDestroy k) s fun t => mine t = none ∧ (∀ x ∈ t.groups, x.ctx ≠ k) ∧ (∀ x ∈ t.blocks, x.ctx ≠ k) ∧
      (∀ x ∈ t.images, x.ctx ≠ k) ∧ (∀ x ∈ t.launches, x.ctx ≠ k) ∧ (∀ x ∈ t.slots, x.ctx ≠ k) ∧ ∀ y ∈ (t.vfAt c.vf).ctxdesc, descCtx y ≠ some k)

/-- R165, R178, R295, R299, R318, R319, R365 to R368, R402: a debugger attaches where the policy lets it, stops and resumes a context or a group, sets a
step bit and reads (its task record, the group, its block's scratchpad) or writes what a stopped group holds; firmware sets a partition's column, a
pool's low water and the aging period; the loader refuses an object with its reason and nothing placed, places it whole, its answer to come while
a setting that it asks for waits, and unloads it, once asked, when no launch names it and no access is under way. The model's choices: the
request is only noted, and its carrying out is a later move of another cycle of the base die (log 51); a dump answers the task as a trace
record (log 76). -/
def Obligations.FirmwareEvents : Prop :=
  ∀ (s u : State) (k part n : Nat) (c : Context) (g : Group) (r : GroupRef) (o : CodeObject) (l : Nat) (v : Word) (bit : Bool),
    let mine := fun (t : State) => t.ctxAt k
    let becomes := fun (x : Instr) (y : Context) => Becomes x s fun t => mine t = some y ∧ t = { s with contexts := t.contexts }
    let stopped := s.groupAt r.core r.part r.slot = some g ∧ g.ctx = k ∧ c.dbg.isSome = true
    let dump := fun (op : DumpOp) (P : Group → Prop) => stopped → g.stopped = true → Becomes (.debugDump r op) s fun t =>
      ∃ g', GroupChanged s t r g' ∧ P g'
    let data := roundUp (objBytes o ".data").length 64
    let range := s.dataRange c (data + objBss o)
    let checks := objRefusal o (range.getD 65536) (range.getD 65536 + data)
    let home := ∃ b ∈ u.blocks, b.ctx = k
    let slots := ∃ q ∈ u.slots, q.ctx = k
    let named := s.launches.any fun y => y.ctx == k && launchKhdr y.record / 2 ^ 32 * 2 ^ 32 == n
    s.power = .ready → s.ctxAt k = some c →
    (becomes (.debugAttach k false) { c with dbg := some false }) ∧
    (fieldAt c.policy 7 1 % 2 = 1 → becomes (.debugAttach k true) { c with dbg := some true }) ∧
    (fieldAt c.policy 7 1 % 2 = 0 → becomes (.debugAttach k true) c) ∧
    (c.dbg.isSome = true → becomes (.debugStop k) { c with debugStop := true } ∧ becomes (.debugResume k none) { c with debugStop := false }) ∧
    (c.dbg = none → becomes (.debugStop k) c ∧ exec (.debugResume k none) s = .next s) ∧
    (stopped → (Becomes (.debugResume k (some r)) s fun t => GroupChanged s t r { g with stopped := false }) ∧
      Becomes (.debugStepSet r bit) s fun t => GroupChanged s t r { g with stepBit := bit }) ∧
    (stopped → g.stopped = true → Becomes (.debugDump r .read) s fun t => t = { s with contexts := t.contexts } ∧ ∃ d : Dump,
      (t.ctxAt g.ctx).map Context.dump = some (some d) ∧ d.group = g ∧ (∀ b, s.blockAt g.block = some b → d.scratch = b.scratch) ∧
        fieldAt d.task 8 8 = (s.groupLoc g).seq % 2 ^ 64 ∧ fieldAt d.task 16 1 = s.taskqOf g.block % 256 ∧ fieldAt d.task 17 1 = (4 * (g.core % 4) + g.part) % 256) ∧
    (∀ op, s.groupAt r.core r.part r.slot = some g → (g.stopped = false ∨ s.debugged g.ctx = false) → exec (.debugDump r op) s = .next s) ∧
    (∀ old, g.regs[n]? = some (.val old) → dump (.writeReg n l v) fun y => y = withReg g n (.val (modAt old l fun _ => v))) ∧
    dump (.writeSreg n v) (fun y => y = { g with sregs := modAt g.sregs n fun _ => v }) ∧
    (n < g.preds.length → l < 64 → dump (.writePred n l bit) fun y => y = { g with preds := y.preds } ∧ ∀ p j : Nat, j < 64 →
      (y.preds.getD p 0).getLsbD j = if p = n ∧ j = l then bit else (g.preds.getD p 0).getLsbD j) ∧
    (dump (.writeMeet l v) fun y => y = { g with threads := y.threads } ∧ ∀ j : Nat, y.threads[j]? = g.threads[j]?.map fun t =>
      if j = l then { t with meet := v } else t) ∧
    (∀ tm, dump (.writeTimeout l tm) fun y => y = { g with threads := y.threads } ∧ ∀ j : Nat, y.threads[j]? = g.threads[j]?.map fun t =>
      if j = l then { t with tmo := tm } else t) ∧
    (∀ stk, dump (.writeStack l stk) fun y => y = { g with threads := y.threads } ∧ ∀ j : Nat, y.threads[j]? = g.threads[j]?.map fun t =>
      if j = l then { t with stack := stk } else t) ∧
    (n < 8 → dump (.writeTemp n l v) fun y => y = { g with threads := y.threads } ∧ ∀ j : Nat, y.threads[j]? = g.threads[j]?.map fun t =>
      if j = l then { t with x := modAt t.x n fun _ => v, xmark := t.xmark ||| BitVec.ofNat 8 (2 ^ n) } else t) ∧
    (part < s.parts.length → (∀ b ∈ s.blocks, b.colSize = 0) → Becomes (.setColumnSize part n) s fun t =>
      t.isoAt part = { s.isoAt part with column := min n 16 } ∧ t.groups = s.groups) ∧
    ((∃ b ∈ s.blocks, s.partOf (b.core / 4) = part ∧ b.colSize ≠ 0) → exec (.setColumnSize part n) s = .next s) ∧
    (Becomes (.setLowWater k n) s fun t => mine t = some { c with low := n } ∧ t.groups = s.groups ∧
      (s.freeSectors c.part k < n → c.low ≤ s.freeSectors c.part k → t.pfCauses.getLsbD 5 = true)) ∧
    (1 ≤ n → n ≤ 1000000 → exec (.setAgingPeriod n) s = .next { s with period := n }) ∧
    (n = 0 ∨ 1000000 < n → exec (.setAgingPeriod n) s = .next s) ∧
    (o.eMachine ≠ 0xC5D8 → becomes (.loadCodeObject k o) { c with loadAnswer := some 1 }) ∧
    (∀ a, checks = some a → becomes (.loadCodeObject k o) { c with loadAnswer := some a }) ∧
    (checks = none → (range = none ∨ ∃ d, range = some d ∧ s.codeWindow c d (data + objBss o) = none) →
      becomes (.loadCodeObject k o) { c with loadAnswer := some 8 }) ∧
    (∀ d w x, checks = none → range = some d → s.codeWindow c d (data + objBss o) = some w → s.placeObject c o w d = some u →
      u.ctxAt k = some x →
      Becomes (.loadCodeObject k o) s fun t => t.mem = u.mem ∧ t.tiles = u.tiles ∧ ∃ y, mine t = some y ∧ y.objs = x.objs ∧
        y.loadAnswer = if (x.mm0Wait = true ∧ home) ∨ (x.quotaWait ≠ 0 ∧ (home ∨ slots)) then none else some 0) ∧
    (c.objs.find? (fun y => y.base.toNat == n) = none → exec (.unloadCodeObject k n) s = .next s) ∧
    (∀ x, c.objs.find? (fun y => y.base.toNat == n) = some x → x.going = none → becomes (.unloadCodeObject k n)
      { c with objs := c.objs.map fun y => if y.base = x.base then { y with going := some (s.coreAt 0).cyc } else y }) ∧
    (∀ x at_, c.objs.find? (fun y => y.base.toNat == n) = some x → x.going = some at_ →
      (at_ / 2 = (s.coreAt 0).cyc / 2 ∨ named = true ∨ s.accessing c.part = true) → exec (.unloadCodeObject k n) s = .next s) ∧
    (∀ x at_, c.objs.find? (fun y => y.base.toNat == n) = some x → x.going = some at_ → at_ / 2 ≠ (s.coreAt 0).cyc / 2 → named = false →
      s.accessing c.part = false → Becomes (.unloadCodeObject k n) s fun t =>
      (∃ y, mine t = some y ∧ y.objs = c.objs.filter fun z => z.base != x.base) ∧ t.groups = s.groups ∧ t.blocks = s.blocks)

/-- R26, R29, R37, R40, R46 to R48, R78, R287, R322, R326, R335, R340: the checks of an instruction in their order, shown of one of each shape: it waits
while a name of its own is pending; then ILLREV, ILLPFX; nothing with no active lane; PGPERM of a refused access, REGRANGE, PXOP and POISON.
The first that fails is taken as a fault, with none of the instruction's effect: the group enters its handler, or its context is to end.
A word that decodes to nothing raises ILLENC at its own address, before any of them. -/
def Obligations.IssueChecks : Prop :=
  (∀ (s : State) (i : Iss) (x : Instr) (u : Uses) (d a b k o : BitVec 7) (c p : BitVec 3) (r : BitVec 2) (m : BitVec 14),
    let waits := ∃ e ∈ i.g.sb, e.1 ∈ i.names u
    let rev := u.p6 = false ∧ i.b.irev = 0
    let pfx := i.g.pfx.dup = true ∨ i.g.pfx.via = true ∨ (i.g.pfx.x ≠ none ∧ u.xi = false) ∨ (i.g.pfx.guard ≠ none ∧ u.guard = false)
    let range := ∃ f ∈ u.reads ++ u.also ++ u.tags ++ u.writes,
      f.1.toNat < 96 ∧ i.r.allot - i.b.depth < i.g.win.toNat * 32 + f.1.toNat + f.2
    let named := fun (fs : List (BitVec 7 × Nat)) => ∃ f ∈ fs, ∃ j < f.2, i.proxy f.1 j ≠ none
    let proxy := (u.px = false ∧ named u.reads) ∨ named u.plain ∨
      (u.toPx = true ∧ named u.reads ∧ ∃ f ∈ u.writes, 96 ≤ f.1.toNat ∧ f.1.toNat < 120)
    let marked := fun (n : Nat) (m : Mask) => ∃ e ∈ i.g.rpoison, e.1 = n ∧ e.2 < i.g.grant ∧
      (if 256 ≤ n ∧ n < 272 then m ≠ 0 else m.getLsbD e.2 = true) ∧
      (272 ≤ n → n < 280 → (i.g.threadAt e.2).xmark.getLsbD (n - 272) = true)
    let poison := (∃ f ∈ u.reads ++ u.also, ∃ j < f.2, ∃ n, regKey i.g.win f.1 j = some n ∧ marked n i.act) ∨
      ∃ q, i.g.pfx.guard = some q ∧ marked (288 + q.1.toNat) (i.set &&& i.g.liveMask)
    let faultsAt := fun (pc : Word) (code : Nat) => Becomes x s fun t => FaultTaken s t { i with pc := pc } code
    let faults := faultsAt i.pc
    let live := ¬ rev ∧ ¬ pfx ∧ i.act ≠ 0
    (x, u) ∈ ([(.iadd 0 d a b, withPx (usesRR d a b)), (.shlImm d a k, withPx (usesRI d a)), (.imad d a b, usesRRD d a b),
        (.iabs d a, usesR d a), (.fadd r d a b, withPx (usesRR d a b)), (.icmpS32 c p a b, { reads := [(a, 1), (b, 1)], preds := [p], px := true }),
        (.movi d m, { writes := [(d, 1)], xi := true }), (.pqry d a, { tags := [(a, 1)], writes := [(d, 1)], p6 := false }),
        (.mat d a, { also := [(a, 1)], writes := [(d, 1)], p6 := false }),
        (.ldsUi8 d a o, { reads := [(a, 1)], writes := [(d, 1)], xi := true }), (.wlock, { guard := false, p6 := false })] :
        List (Instr × Uses)) →
    s.issueCtx = some i → Faultable s i →
    (waits → exec x s = .next (onlyGroup s i fun g => { g with stall := i.stallLeaf u })) ∧
    (¬ waits →
      (rev → faultsAt i.g.here 0x02) ∧ (¬ rev → pfx → faults 0x03) ∧
      (¬ rev → ¬ pfx → i.act = 0 → exec x s = .next (onlyGroup s i Group.advance)) ∧
      (live → i.g.refused ≠ none → faults 0x26) ∧
      (live → i.g.refused = none → range → faults 0x06) ∧
      (live → i.g.refused = none → ¬ range → proxy → faults 0x07) ∧
      (live → i.g.refused = none → ¬ range → ¬ proxy → poison → faults 0x2F))) ∧
  (∀ (s : State) (i : Iss) (w : Word), s.issueCtx = some i → Faultable s i →
    (∀ x, decode w.toNat ≠ .ok x) →
    Becomes (.illegalEncoding w) s fun t => FaultTaken s t { i with pc := i.g.here } 0x01)

/-- R2, R40, R46, R48, R276, R287, R398: a step of the partition whose slot it is. Where a group issues, is not withheld its slot and translates
its PC, the step runs what the four little-endian bytes there decode to and then charges the slot; a word that decodes to nothing takes
ILLENC; a 25th word that is no END takes RUNLEN; a poisoned word takes POISON, and one below 64 KiB NULLADDR. Where none issues, a group is
selected. A context that faults have ended is gone, with its record, before the first slot of the next core cycle. An event on the agenda
goes first, and without power nothing moves. The order of partitions and events is the model's choice (log 3), and so is what makes a word
across the link poisoned (log 77). -/
def Obligations.StepRunsDecoded : Prop :=
  ∀ (s u : State) (g : Group) (b : Block) (pa : Nat) (leaf : Addr) (c : Context) (e : Ending),
    let core := s.port / 4
    let part := s.port % 4
    let a := b.base + g.here.setWidth 64
    let host := hostKey (u.walkWhere (g.core / 4) g.ctx).vf pa
    let word := BitVec.ofNat 32 (leNat (if leaf.getLsbD 58 then rdBytes u.host host 4 else rdBytes u.mem pa 4))
    let got := u.agentRead (g.core / 4) g.ctx pa 4 leaf
    let v := got.2
    let w := s.groupLoc g
    let runs := fun (x : Instr) (i : Option Instr) => step s = match exec x v with
      | .next t => .next (t.afterIssue g w i)
      | .fault f => .fault f
      | .refused r => .refused r
    let goes := s.power = .ready ∧ s.agenda = [] ∧ (s.port = 0 → ∀ x ∈ s.contexts, x.ending = none)
    let issues := goes ∧ s.issuer = some g
    let slot := s.damped core = false ∧ s.capped core g.ctx = false ∧ g.busy = 0
    let walked := s.blockAt g.block = some b ∧ globalFault a = none ∧ s.walkTo (g.core / 4) g.ctx (a.toNat % 2 ^ 57) .fetch = (.ok pa leaf, u)
    let fetched := walked ∧ got.1.2 = false
    let waited := s.modGroup g.core g.part g.slot fun h => { h with busy := h.busy - 1 }
    (issues → slot → fetched → (g.pos < 24 ∨ isEnd word = true) → ∀ x, decode word.toNat = .ok x → x.wf = true ∧ runs x (some x)) ∧
    (issues → slot → fetched → (g.pos < 24 ∨ isEnd word = true) → (∀ x, decode word.toNat ≠ .ok x) → runs (.illegalEncoding word) none) ∧
    (issues → slot → fetched → 24 ≤ g.pos → isEnd word = false →
      step s = .next (((v.fetchFault g { code := 0x04 }).count w 1 0 1).tick w 0)) ∧
    (issues → slot → walked → got.1.2 = true → g.refused = none → step s = .next ((v.fetchFault g { code := 0x2F, addr := a }).tick w 6)) ∧
    (issues → slot → s.blockAt g.block = some b → ∀ n, globalFault a = some n → g.refused = none →
      step s = .next ((s.fetchFault g { code := n, addr := a }).tick w 6)) ∧
    (s.power = .ready → s.agenda = [] → s.port = 0 → s.ctxAt c.id = some c → c.run ≠ .ended → c.ending = some e → e.code < 256 →
      (∀ x ∈ s.contexts, x.id ≠ c.id → x.ending = none) → ∃ t, step s = step t ∧ ContextEnded t c.id e.code) ∧
    (issues → s.damped core = false → s.capped core g.ctx = false → g.busy ≠ 0 →
      step s = .next ((if g.busy = 1 ∧ g.stepBit = true then waited.stepStop g w else waited).tick w 1)) ∧
    (issues → (s.damped core = true ∨ s.capped core g.ctx = true) →
      step s = .next ((s.count w 9 (if s.damped core then 0 else 1) 1).tick w 3)) ∧
    (goes → s.issuer = none →
      ∀ t, exec (.runSelect core part) s = .next t → step s = .next (t.afterSelect core part)) ∧
    (∀ n l, s.power ≠ .off → s.agenda = .writePerformed n :: l → step s = exec (.writePerformed n) { s with agenda := l }) ∧
    (s.power = .off → step s = .fault .unpowered)

/-- R4, R45, R280, R294, R295, R324, R386, R395, R399, R401: the machine right after reset: the invariant holds; every tile is its own
partition, unlocked; a fault queue's LOGN is 7; aging has a period of 1 ms; every other register of the maps that has a reset value is 0;
nothing is resident, and the machine waits for its firmware. That memory holds zeros, that no core is harvested and the state of a core
are the model's choice (log 1, log 2). -/
def Obligations.ResetState : Prop :=
  let s := State.reset
  Inv s ∧ step s = .next s ∧ s.power = .booting ∧ s.contexts = [] ∧ s.groups = [] ∧ s.blocks = [] ∧ s.launches = [] ∧ s.homeq = [] ∧
  s.slots = [] ∧ s.inflight = [] ∧ s.period = 1000 ∧ (∀ a, rdByte s.mem a = 0) ∧ (∀ c < 80, s.coreAt c = Core.init) ∧
  (∀ t < 20, (s.tileAt t).partid.toNat = t ∧ s.partOf t = t ∧ (s.tileAt t).errlog = 0 ∧ (s.tileAt t).mapcmd = 0 ∧ (s.tileAt t).mapdata = 0 ∧
    ∀ r ∈ (s.tileAt t).res, r.base = 0 ∧ r.lim = 0 ∧ r.ctl = 0) ∧
  (∀ p < 20, (s.isoAt p).invstat = 0 ∧ (s.isoAt p).victim = 0 ∧ (s.isoAt p).queue = [] ∧ (s.isoAt p).flushing = false) ∧
  (∀ v < 64, bitsOf (s.vfAt v).fqctl 19 16 = 7 ∧ (s.vfAt v).fqctl.getLsbD 31 = false ∧ (s.vfAt v).fqbase = 0 ∧ (s.vfAt v).fqhead = 0 ∧
    (s.vfAt v).fqtail = 0 ∧ (s.vfAt v).irq = 0 ∧ (s.vfAt v).guar = 0 ∧ (s.vfAt v).burst = 0 ∧ (s.vfAt v).part = 0 ∧
    ∀ d ∈ (s.vfAt v).ctxdesc, d = 0)

/-- R2, R24, R34, R35, R44, R45: words of the manual's encodings, one of each family, decode to the instructions they stand for, and words
with a reserved major, a nonzero unused field or a misaligned wide operand to none (R46). -/
def Obligations.DecodeWords : Prop :=
  decode 0x20407CE0 = .ok (.icmpS32 2 1 121 96) ∧ decode 0x0D40B179 = .ok (.lea 2 2 98 121) ∧ decode 0x40614261 = .ok (.ffma 0 5 4 97) ∧
  decode 0x74218201 = .ok (.shflxImm 6 4 1) ∧ decode 0x90810100 = .ok (.ld 0 4 4 2 0) ∧ decode 0xA0604100 = .ok (.lda 0 3 1 2 0) ∧
  decode 0xA8214138 = .ok (.atom 0 1 5 2 3 2) ∧ decode 0xAC000D80 = .ok (.fence 3 3) ∧ decode 0x80228100 = .ok (.ldp 1 10 2 0) ∧
  decode 0xB00031E4 = .ok (.cpkick 99 100) ∧ decode 0xB0613080 = .ok (.bowait 4 97) ∧ decode 0xB6050403 = .ok (.stn 2 20 8 3) ∧
  decode 0xC11A3200 = .ok (.wload 104 100) ∧ decode 0xC61A7000 = .ok (.mmaC8 105 96) ∧ decode 0xC2823680 = .ok (.accld 2 8 109) ∧
  decode 0xD0C00004 = .ok (.bra 1 1 4) ∧ decode 0xD8000303 = .ok (.brt 6 3) ∧ decode 0xE0000006 = .ok (.meet 6) ∧
  decode 0xE0800000 = .ok .exit ∧ decode 0xE41E0000 = .ok (.bar 120 0) ∧ decode 0xE8000002 = .ok (.width 2) ∧
  decode 0xF000C104 = .ok (.srd 3 0x104) ∧ decode 0xF058C002 = .ok (.launch 99 2) ∧ decode 0xF0600005 = .ok (.trap 5) ∧
  decode 0xF4194011 = .ok (.cntclm 101 0 2 1) ∧ decode 0xF478C007 = .ok (.trmark 99 7) ∧ decode 0xFC004200 = .ok (.endRun 0 0 4 1) ∧
  (∀ i, decode 0x54000000 ≠ .ok i) ∧ (∀ i, decode 0xE0800001 ≠ .ok i) ∧ (∀ i, decode 0x0D40F179 ≠ .ok i)

/-- R24, R34, R35, R44, R45: every well-formed instruction, with every operand at every value, decodes from the word that it is encoded as, and
every word that decodes is the encoding of one well-formed instruction. -/
def Obligations.RoundTrip : Prop :=
  (∀ i : Instr, i.isEvent = false → i.wf = true → encode i < 2 ^ 32 ∧ decode (encode i) = .ok i ∧ decodeTableWord 32 (encode i) = some i) ∧
  (∀ (n : Nat) (i : Instr), n < 2 ^ 32 → decode n = .ok i → i.isEvent = false ∧ i.wf = true ∧ encode i = n)

/-- R1, R2, R14, R105, R157, R162, R174, R176, R280, R282: every step keeps the invariant, from any state that has it: the memories, the
scratchpads, private memories, the accumulators and the sector and frame maps stay canonical, a port of a core has the slot, and the
machine keeps its 80 cores, 20 tiles, 20 partitions, 64 VFs and 8 scale-out ports. -/
def Obligations.StepInvariant : Prop :=
  ∀ s t : State, Inv s → step s = .next t → Inv t
end

