-- ==== Sys2Proof/Laws/Count.lean ====
section
/-! SUPPORT. Counting touches only the counter units and the interrupt causes. -/

namespace Sys2Proof.Machine

/-- What advancing the counters that a test picks can do (R305, R311). -/
theorem countBy_frame (s : State) (hit : CUnit → Nat → Bool) (ctx n : Nat) :
    s.countBy hit ctx n = { s with units := (s.countBy hit ctx n).units, vfs := (s.countBy hit ctx n).vfs,
                                   pfCauses := (s.countBy hit ctx n).pfCauses } := by
  unfold State.countBy
  dsimp only
  generalize s.units.map (fun u => u.add (hit u) ctx n) = us
  generalize s.units.filter _ = l
  suffices h : ∀ (l : List CUnit) (r : State), r = { s with units := r.units, vfs := r.vfs, pfCauses := r.pfCauses } →
      ∀ r', r' = l.foldl (fun s u =>
        match u.owner with
        | .free => s
        | .pf => s.pfIrq 3
        | .ctx c => match s.ctxAt c with | some x => s.irq x.vf 2 | none => s) r →
      r' = { s with units := r'.units, vfs := r'.vfs, pfCauses := r'.pfCauses } from
    h l { s with units := us } rfl _ rfl
  intro l
  induction l with
  | nil => intro r hr r' h; rw [h]; exact hr
  | cons u l ih =>
    intro r hr r' h
    refine ih _ ?_ r' h
    rw [hr]
    dsimp only
    split
    · rfl
    · rfl
    · split <;> rfl

/-- What State.count can do (R305, R311). -/
theorem count_frame (s : State) (w : Where) (cls ev n : Nat) :
    s.count w cls ev n = { s with units := (s.count w cls ev n).units, vfs := (s.count w cls ev n).vfs,
                                  pfCauses := (s.count w cls ev n).pfCauses } := countBy_frame ..

@[simp] theorem count_power (s : State) (w : Where) (cls ev n : Nat) : (s.count w cls ev n).power = s.power := by rw [count_frame]
@[simp] theorem count_agenda (s : State) (w : Where) (cls ev n : Nat) : (s.count w cls ev n).agenda = s.agenda := by rw [count_frame]
@[simp] theorem count_port (s : State) (w : Where) (cls ev n : Nat) : (s.count w cls ev n).port = s.port := by rw [count_frame]
@[simp] theorem count_free (s : State) (w : Where) (cls ev n : Nat) : (s.count w cls ev n).free = s.free := by rw [count_frame]
@[simp] theorem count_nextId (s : State) (w : Where) (cls ev n : Nat) : (s.count w cls ev n).nextId = s.nextId := by rw [count_frame]
@[simp] theorem count_cores (s : State) (w : Where) (cls ev n : Nat) : (s.count w cls ev n).cores = s.cores := by rw [count_frame]
@[simp] theorem count_tiles (s : State) (w : Where) (cls ev n : Nat) : (s.count w cls ev n).tiles = s.tiles := by rw [count_frame]
@[simp] theorem count_parts (s : State) (w : Where) (cls ev n : Nat) : (s.count w cls ev n).parts = s.parts := by rw [count_frame]
@[simp] theorem count_tenants (s : State) (w : Where) (cls ev n : Nat) : (s.count w cls ev n).tenants = s.tenants := by rw [count_frame]
@[simp] theorem count_contexts (s : State) (w : Where) (cls ev n : Nat) : (s.count w cls ev n).contexts = s.contexts := by rw [count_frame]
@[simp] theorem count_images (s : State) (w : Where) (cls ev n : Nat) : (s.count w cls ev n).images = s.images := by rw [count_frame]
@[simp] theorem count_launches (s : State) (w : Where) (cls ev n : Nat) : (s.count w cls ev n).launches = s.launches := by rw [count_frame]
@[simp] theorem count_blocks (s : State) (w : Where) (cls ev n : Nat) : (s.count w cls ev n).blocks = s.blocks := by rw [count_frame]
@[simp] theorem count_clusters (s : State) (w : Where) (cls ev n : Nat) : (s.count w cls ev n).clusters = s.clusters := by rw [count_frame]
@[simp] theorem count_groups (s : State) (w : Where) (cls ev n : Nat) : (s.count w cls ev n).groups = s.groups := by rw [count_frame]
@[simp] theorem count_mats (s : State) (w : Where) (cls ev n : Nat) : (s.count w cls ev n).mats = s.mats := by rw [count_frame]
@[simp] theorem count_slots (s : State) (w : Where) (cls ev n : Nat) : (s.count w cls ev n).slots = s.slots := by rw [count_frame]
@[simp] theorem count_homeq (s : State) (w : Where) (cls ev n : Nat) : (s.count w cls ev n).homeq = s.homeq := by rw [count_frame]
@[simp] theorem count_turns (s : State) (w : Where) (cls ev n : Nat) : (s.count w cls ev n).turns = s.turns := by rw [count_frame]
@[simp] theorem count_mem (s : State) (w : Where) (cls ev n : Nat) : (s.count w cls ev n).mem = s.mem := by rw [count_frame]
@[simp] theorem count_poison (s : State) (w : Where) (cls ev n : Nat) : (s.count w cls ev n).poison = s.poison := by rw [count_frame]
@[simp] theorem count_host (s : State) (w : Where) (cls ev n : Nat) : (s.count w cls ev n).host = s.host := by rw [count_frame]
@[simp] theorem count_inflight (s : State) (w : Where) (cls ev n : Nat) : (s.count w cls ev n).inflight = s.inflight := by rw [count_frame]
@[simp] theorem count_reads (s : State) (w : Where) (cls ev n : Nat) : (s.count w cls ev n).reads = s.reads := by rw [count_frame]
@[simp] theorem count_rowops (s : State) (w : Where) (cls ev n : Nat) : (s.count w cls ev n).rowops = s.rowops := by rw [count_frame]
@[simp] theorem count_relqs (s : State) (w : Where) (cls ev n : Nat) : (s.count w cls ev n).relqs = s.relqs := by rw [count_frame]
@[simp] theorem count_recs (s : State) (w : Where) (cls ev n : Nat) : (s.count w cls ev n).recs = s.recs := by rw [count_frame]
@[simp] theorem count_faultLog (s : State) (w : Where) (cls ev n : Nat) : (s.count w cls ev n).faultLog = s.faultLog := by rw [count_frame]
@[simp] theorem count_isolation (s : State) (w : Where) (cls ev n : Nat) : (s.count w cls ev n).isolation = s.isolation := by rw [count_frame]
@[simp] theorem count_floor (s : State) (w : Where) (cls ev n : Nat) : (s.count w cls ev n).floor = s.floor := by rw [count_frame]
@[simp] theorem count_pfReport (s : State) (w : Where) (cls ev n : Nat) : (s.count w cls ev n).pfReport = s.pfReport := by rw [count_frame]
@[simp] theorem count_fuseRoll (s : State) (w : Where) (cls ev n : Nat) : (s.count w cls ev n).fuseRoll = s.fuseRoll := by rw [count_frame]
@[simp] theorem count_fw (s : State) (w : Where) (cls ev n : Nat) : (s.count w cls ev n).fw = s.fw := by rw [count_frame]
@[simp] theorem count_image (s : State) (w : Where) (cls ev n : Nat) : (s.count w cls ev n).image = s.image := by rw [count_frame]
@[simp] theorem count_flash (s : State) (w : Where) (cls ev n : Nat) : (s.count w cls ev n).flash = s.flash := by rw [count_frame]
@[simp] theorem count_life (s : State) (w : Where) (cls ev n : Nat) : (s.count w cls ev n).life = s.life := by rw [count_frame]
@[simp] theorem count_heat (s : State) (w : Where) (cls ev n : Nat) : (s.count w cls ev n).heat = s.heat := by rw [count_frame]
@[simp] theorem count_period (s : State) (w : Where) (cls ev n : Nat) : (s.count w cls ev n).period = s.period := by rw [count_frame]
@[simp] theorem count_ticks (s : State) (w : Where) (cls ev n : Nat) : (s.count w cls ev n).ticks = s.ticks := by rw [count_frame]
@[simp] theorem count_hot (s : State) (w : Where) (cls ev n : Nat) : (s.count w cls ev n).hot = s.hot := by rw [count_frame]

/-- The state as a body finds it, of an instruction that names no words, differs from the state before only in counters. -/
theorem counted_frame (s : State) (i : Iss) (u : Uses) (h : u.ahead i = []) :
    counted s i u = { s with units := (counted s i u).units, vfs := (counted s i u).vfs, pfCauses := (counted s i u).pfCauses } := by
  unfold counted State.look
  rw [h]
  dsimp only [List.foldl_nil]
  split
  · exact count_frame ..
  · rfl

@[simp] theorem counted_power (s : State) (i : Iss) (u : Uses) (h : u.ahead i = []) : (counted s i u).power = s.power := by rw [counted_frame s i u h]
@[simp] theorem counted_agenda (s : State) (i : Iss) (u : Uses) (h : u.ahead i = []) : (counted s i u).agenda = s.agenda := by rw [counted_frame s i u h]
@[simp] theorem counted_port (s : State) (i : Iss) (u : Uses) (h : u.ahead i = []) : (counted s i u).port = s.port := by rw [counted_frame s i u h]
@[simp] theorem counted_free (s : State) (i : Iss) (u : Uses) (h : u.ahead i = []) : (counted s i u).free = s.free := by rw [counted_frame s i u h]
@[simp] theorem counted_nextId (s : State) (i : Iss) (u : Uses) (h : u.ahead i = []) : (counted s i u).nextId = s.nextId := by rw [counted_frame s i u h]
@[simp] theorem counted_cores (s : State) (i : Iss) (u : Uses) (h : u.ahead i = []) : (counted s i u).cores = s.cores := by rw [counted_frame s i u h]
@[simp] theorem counted_tiles (s : State) (i : Iss) (u : Uses) (h : u.ahead i = []) : (counted s i u).tiles = s.tiles := by rw [counted_frame s i u h]
@[simp] theorem counted_parts (s : State) (i : Iss) (u : Uses) (h : u.ahead i = []) : (counted s i u).parts = s.parts := by rw [counted_frame s i u h]
@[simp] theorem counted_tenants (s : State) (i : Iss) (u : Uses) (h : u.ahead i = []) : (counted s i u).tenants = s.tenants := by rw [counted_frame s i u h]
@[simp] theorem counted_contexts (s : State) (i : Iss) (u : Uses) (h : u.ahead i = []) : (counted s i u).contexts = s.contexts := by rw [counted_frame s i u h]
@[simp] theorem counted_images (s : State) (i : Iss) (u : Uses) (h : u.ahead i = []) : (counted s i u).images = s.images := by rw [counted_frame s i u h]
@[simp] theorem counted_launches (s : State) (i : Iss) (u : Uses) (h : u.ahead i = []) : (counted s i u).launches = s.launches := by rw [counted_frame s i u h]
@[simp] theorem counted_blocks (s : State) (i : Iss) (u : Uses) (h : u.ahead i = []) : (counted s i u).blocks = s.blocks := by rw [counted_frame s i u h]
@[simp] theorem counted_clusters (s : State) (i : Iss) (u : Uses) (h : u.ahead i = []) : (counted s i u).clusters = s.clusters := by rw [counted_frame s i u h]
@[simp] theorem counted_groups (s : State) (i : Iss) (u : Uses) (h : u.ahead i = []) : (counted s i u).groups = s.groups := by rw [counted_frame s i u h]
@[simp] theorem counted_mats (s : State) (i : Iss) (u : Uses) (h : u.ahead i = []) : (counted s i u).mats = s.mats := by rw [counted_frame s i u h]
@[simp] theorem counted_slots (s : State) (i : Iss) (u : Uses) (h : u.ahead i = []) : (counted s i u).slots = s.slots := by rw [counted_frame s i u h]
@[simp] theorem counted_homeq (s : State) (i : Iss) (u : Uses) (h : u.ahead i = []) : (counted s i u).homeq = s.homeq := by rw [counted_frame s i u h]
@[simp] theorem counted_turns (s : State) (i : Iss) (u : Uses) (h : u.ahead i = []) : (counted s i u).turns = s.turns := by rw [counted_frame s i u h]
@[simp] theorem counted_mem (s : State) (i : Iss) (u : Uses) (h : u.ahead i = []) : (counted s i u).mem = s.mem := by rw [counted_frame s i u h]
@[simp] theorem counted_poison (s : State) (i : Iss) (u : Uses) (h : u.ahead i = []) : (counted s i u).poison = s.poison := by rw [counted_frame s i u h]
@[simp] theorem counted_host (s : State) (i : Iss) (u : Uses) (h : u.ahead i = []) : (counted s i u).host = s.host := by rw [counted_frame s i u h]
@[simp] theorem counted_inflight (s : State) (i : Iss) (u : Uses) (h : u.ahead i = []) : (counted s i u).inflight = s.inflight := by rw [counted_frame s i u h]
@[simp] theorem counted_reads (s : State) (i : Iss) (u : Uses) (h : u.ahead i = []) : (counted s i u).reads = s.reads := by rw [counted_frame s i u h]
@[simp] theorem counted_rowops (s : State) (i : Iss) (u : Uses) (h : u.ahead i = []) : (counted s i u).rowops = s.rowops := by rw [counted_frame s i u h]
@[simp] theorem counted_relqs (s : State) (i : Iss) (u : Uses) (h : u.ahead i = []) : (counted s i u).relqs = s.relqs := by rw [counted_frame s i u h]
@[simp] theorem counted_recs (s : State) (i : Iss) (u : Uses) (h : u.ahead i = []) : (counted s i u).recs = s.recs := by rw [counted_frame s i u h]
@[simp] theorem counted_faultLog (s : State) (i : Iss) (u : Uses) (h : u.ahead i = []) : (counted s i u).faultLog = s.faultLog := by rw [counted_frame s i u h]
@[simp] theorem counted_isolation (s : State) (i : Iss) (u : Uses) (h : u.ahead i = []) : (counted s i u).isolation = s.isolation := by rw [counted_frame s i u h]
@[simp] theorem counted_floor (s : State) (i : Iss) (u : Uses) (h : u.ahead i = []) : (counted s i u).floor = s.floor := by rw [counted_frame s i u h]
@[simp] theorem counted_pfReport (s : State) (i : Iss) (u : Uses) (h : u.ahead i = []) : (counted s i u).pfReport = s.pfReport := by rw [counted_frame s i u h]
@[simp] theorem counted_fuseRoll (s : State) (i : Iss) (u : Uses) (h : u.ahead i = []) : (counted s i u).fuseRoll = s.fuseRoll := by rw [counted_frame s i u h]
@[simp] theorem counted_fw (s : State) (i : Iss) (u : Uses) (h : u.ahead i = []) : (counted s i u).fw = s.fw := by rw [counted_frame s i u h]
@[simp] theorem counted_image (s : State) (i : Iss) (u : Uses) (h : u.ahead i = []) : (counted s i u).image = s.image := by rw [counted_frame s i u h]
@[simp] theorem counted_flash (s : State) (i : Iss) (u : Uses) (h : u.ahead i = []) : (counted s i u).flash = s.flash := by rw [counted_frame s i u h]
@[simp] theorem counted_life (s : State) (i : Iss) (u : Uses) (h : u.ahead i = []) : (counted s i u).life = s.life := by rw [counted_frame s i u h]
@[simp] theorem counted_heat (s : State) (i : Iss) (u : Uses) (h : u.ahead i = []) : (counted s i u).heat = s.heat := by rw [counted_frame s i u h]
@[simp] theorem counted_period (s : State) (i : Iss) (u : Uses) (h : u.ahead i = []) : (counted s i u).period = s.period := by rw [counted_frame s i u h]
@[simp] theorem counted_ticks (s : State) (i : Iss) (u : Uses) (h : u.ahead i = []) : (counted s i u).ticks = s.ticks := by rw [counted_frame s i u h]
@[simp] theorem counted_hot (s : State) (i : Iss) (u : Uses) (h : u.ahead i = []) : (counted s i u).hot = s.hot := by rw [counted_frame s i u h]

end Sys2Proof.Machine
end

