-- ==== Sys2Proof/Laws/Exec.lean ====
section
/-! SUPPORT. What exec is at each constructor. -/

namespace Sys2Proof.Machine

theorem exec_iadd w d a b (s : State) : exec (.iadd w d a b) s = execIadd w d a b s := rfl
theorem exec_isub w d a b (s : State) : exec (.isub w d a b) s = execIsub w d a b s := rfl
theorem exec_imul d a b (s : State) : exec (.imul d a b) s = execImul d a b s := rfl
theorem exec_imulhS32 d a b (s : State) : exec (.imulhS32 d a b) s = execImulhS32 d a b s := rfl
theorem exec_iminS32 d a b (s : State) : exec (.iminS32 d a b) s = execIminS32 d a b s := rfl
theorem exec_imaxS32 d a b (s : State) : exec (.imaxS32 d a b) s = execImaxS32 d a b s := rfl
theorem exec_imad d a b (s : State) : exec (.imad d a b) s = execImad d a b s := rfl
theorem exec_idp4S8 d a b (s : State) : exec (.idp4S8 d a b) s = execIdp4S8 d a b s := rfl
theorem exec_iaddImm w d a ki (s : State) : exec (.iaddImm w d a ki) s = execIaddImm w d a ki s := rfl
theorem exec_isubImm w d a ki (s : State) : exec (.isubImm w d a ki) s = execIsubImm w d a ki s := rfl
theorem exec_imulImm d a ki (s : State) : exec (.imulImm d a ki) s = execImulImm d a ki s := rfl
theorem exec_imulhS32Imm d a ki (s : State) : exec (.imulhS32Imm d a ki) s = execImulhS32Imm d a ki s := rfl
theorem exec_iminS32Imm d a ki (s : State) : exec (.iminS32Imm d a ki) s = execIminS32Imm d a ki s := rfl
theorem exec_imaxS32Imm d a ki (s : State) : exec (.imaxS32Imm d a ki) s = execImaxS32Imm d a ki s := rfl
theorem exec_imadImm d a ki (s : State) : exec (.imadImm d a ki) s = execImadImm d a ki s := rfl
theorem exec_iabs d a (s : State) : exec (.iabs d a) s = execIabs d a s := rfl
theorem exec_imulhUi32 d a b (s : State) : exec (.imulhUi32 d a b) s = execImulhUi32 d a b s := rfl
theorem exec_iminUi32 d a b (s : State) : exec (.iminUi32 d a b) s = execIminUi32 d a b s := rfl
theorem exec_imaxUi32 d a b (s : State) : exec (.imaxUi32 d a b) s = execImaxUi32 d a b s := rfl
theorem exec_idp4Ui8 d a b (s : State) : exec (.idp4Ui8 d a b) s = execIdp4Ui8 d a b s := rfl
theorem exec_lea ks d a b (s : State) : exec (.lea ks d a b) s = execLea ks d a b s := rfl
theorem exec_and d a b (s : State) : exec (.and d a b) s = execAnd d a b s := rfl
theorem exec_or d a b (s : State) : exec (.or d a b) s = execOr d a b s := rfl
theorem exec_xor d a b (s : State) : exec (.xor d a b) s = execXor d a b s := rfl
theorem exec_andn d a b (s : State) : exec (.andn d a b) s = execAndn d a b s := rfl
theorem exec_shl d a b (s : State) : exec (.shl d a b) s = execShl d a b s := rfl
theorem exec_shr d a b (s : State) : exec (.shr d a b) s = execShr d a b s := rfl
theorem exec_sar d a b (s : State) : exec (.sar d a b) s = execSar d a b s := rfl
theorem exec_shf d a b (s : State) : exec (.shf d a b) s = execShf d a b s := rfl
theorem exec_andImm d a ki (s : State) : exec (.andImm d a ki) s = execAndImm d a ki s := rfl
theorem exec_orImm d a ki (s : State) : exec (.orImm d a ki) s = execOrImm d a ki s := rfl
theorem exec_xorImm d a ki (s : State) : exec (.xorImm d a ki) s = execXorImm d a ki s := rfl
theorem exec_andnImm d a ki (s : State) : exec (.andnImm d a ki) s = execAndnImm d a ki s := rfl
theorem exec_shlImm d a ki (s : State) : exec (.shlImm d a ki) s = execShlImm d a ki s := rfl
theorem exec_shrImm d a ki (s : State) : exec (.shrImm d a ki) s = execShrImm d a ki s := rfl
theorem exec_sarImm d a ki (s : State) : exec (.sarImm d a ki) s = execSarImm d a ki s := rfl
theorem exec_shfImm d a ki (s : State) : exec (.shfImm d a ki) s = execShfImm d a ki s := rfl
theorem exec_popc d a (s : State) : exec (.popc d a) s = execPopc d a s := rfl
theorem exec_clz d a (s : State) : exec (.clz d a) s = execClz d a s := rfl
theorem exec_brev d a (s : State) : exec (.brev d a) s = execBrev d a s := rfl
theorem exec_bfxS32 d a b (s : State) : exec (.bfxS32 d a b) s = execBfxS32 d a b s := rfl
theorem exec_bfxUi32 d a b (s : State) : exec (.bfxUi32 d a b) s = execBfxUi32 d a b s := rfl
theorem exec_bfi d a b (s : State) : exec (.bfi d a b) s = execBfi d a b s := rfl
theorem exec_prmt d a b (s : State) : exec (.prmt d a b) s = execPrmt d a b s := rfl
theorem exec_bfxS32Imm d a ki (s : State) : exec (.bfxS32Imm d a ki) s = execBfxS32Imm d a ki s := rfl
theorem exec_bfxUi32Imm d a ki (s : State) : exec (.bfxUi32Imm d a ki) s = execBfxUi32Imm d a ki s := rfl
theorem exec_bfiImm d a ki (s : State) : exec (.bfiImm d a ki) s = execBfiImm d a ki s := rfl
theorem exec_prmtImm d a ki (s : State) : exec (.prmtImm d a ki) s = execPrmtImm d a ki s := rfl
theorem exec_icmpS32 c p a b (s : State) : exec (.icmpS32 c p a b) s = execIcmpS32 c p a b s := rfl
theorem exec_icmpS32Imm c p a ki (s : State) : exec (.icmpS32Imm c p a ki) s = execIcmpS32Imm c p a ki s := rfl
theorem exec_icmpUi32 c p a b (s : State) : exec (.icmpUi32 c p a b) s = execIcmpUi32 c p a b s := rfl
theorem exec_icmpUi32Imm c p a ki (s : State) : exec (.icmpUi32Imm c p a ki) s = execIcmpUi32Imm c p a ki s := rfl
theorem exec_plop c d h a l b (s : State) : exec (.plop c d h a l b) s = execPlop c d h a l b s := rfl
theorem exec_pmovToPred d a (s : State) : exec (.pmovToPred d a) s = execPmovToPred d a s := rfl
theorem exec_pmovToReg d a (s : State) : exec (.pmovToReg d a) s = execPmovToReg d a s := rfl
theorem exec_sel p d a b (s : State) : exec (.sel p d a b) s = execSel p d a b s := rfl
theorem exec_mov w d a (s : State) : exec (.mov w d a) s = execMov w d a s := rfl
theorem exec_movi d ki (s : State) : exec (.movi d ki) s = execMovi d ki s := rfl
theorem exec_moviX2 d ki (s : State) : exec (.moviX2 d ki) s = execMoviX2 d ki s := rfl
theorem exec_fadd r d a b (s : State) : exec (.fadd r d a b) s = execFadd r d a b s := rfl
theorem exec_fsub r d a b (s : State) : exec (.fsub r d a b) s = execFsub r d a b s := rfl
theorem exec_fmul r d a b (s : State) : exec (.fmul r d a b) s = execFmul r d a b s := rfl
theorem exec_ffma r d a b (s : State) : exec (.ffma r d a b) s = execFfma r d a b s := rfl
theorem exec_fmin d a b (s : State) : exec (.fmin d a b) s = execFmin d a b s := rfl
theorem exec_fmax d a b (s : State) : exec (.fmax d a b) s = execFmax d a b s := rfl
theorem exec_fclass d a (s : State) : exec (.fclass d a) s = execFclass d a s := rfl
theorem exec_faddImm r d a ki (s : State) : exec (.faddImm r d a ki) s = execFaddImm r d a ki s := rfl
theorem exec_fsubImm r d a ki (s : State) : exec (.fsubImm r d a ki) s = execFsubImm r d a ki s := rfl
theorem exec_fmulImm r d a ki (s : State) : exec (.fmulImm r d a ki) s = execFmulImm r d a ki s := rfl
theorem exec_ffmaImm r d a ki (s : State) : exec (.ffmaImm r d a ki) s = execFfmaImm r d a ki s := rfl
theorem exec_fminImm d a ki (s : State) : exec (.fminImm d a ki) s = execFminImm d a ki s := rfl
theorem exec_fmaxImm d a ki (s : State) : exec (.fmaxImm d a ki) s = execFmaxImm d a ki s := rfl
theorem exec_fcmp c p a b (s : State) : exec (.fcmp c p a b) s = execFcmp c p a b s := rfl
theorem exec_fcmpImm c p a ki (s : State) : exec (.fcmpImm c p a ki) s = execFcmpImm c p a ki s := rfl
theorem exec_hadd2 r t d a b (s : State) : exec (.hadd2 r t d a b) s = execHadd2 r t d a b s := rfl
theorem exec_hmul2 r t d a b (s : State) : exec (.hmul2 r t d a b) s = execHmul2 r t d a b s := rfl
theorem exec_hfma2 r t d a b (s : State) : exec (.hfma2 r t d a b) s = execHfma2 r t d a b s := rfl
theorem exec_hmax2 t d a b (s : State) : exec (.hmax2 t d a b) s = execHmax2 t d a b s := rfl
theorem exec_rcp r d a (s : State) : exec (.rcp r d a) s = execRcp r d a s := rfl
theorem exec_rsq d a (s : State) : exec (.rsq d a) s = execRsq d a s := rfl
theorem exec_sqrt r d a (s : State) : exec (.sqrt r d a) s = execSqrt r d a s := rfl
theorem exec_ex2 d a (s : State) : exec (.ex2 d a) s = execEx2 d a s := rfl
theorem exec_lg2 d a (s : State) : exec (.lg2 d a) s = execLg2 d a s := rfl
theorem exec_sin d a (s : State) : exec (.sin d a) s = execSin d a s := rfl
theorem exec_cos d a (s : State) : exec (.cos d a) s = execCos d a s := rfl
theorem exec_tanh d a (s : State) : exec (.tanh d a) s = execTanh d a s := rfl
theorem exec_cvt r ks d a t h x (s : State) : exec (.cvt r ks d a t h x) s = execCvt r ks d a t h x s := rfl
theorem exec_cvtsr x f d a b (s : State) : exec (.cvtsr x f d a b) s = execCvtsr x f d a b s := rfl
theorem exec_rng d a b (s : State) : exec (.rng d a b) s = execRng d a b s := rfl
theorem exec_shfl d a b (s : State) : exec (.shfl d a b) s = execShfl d a b s := rfl
theorem exec_shflx d a b (s : State) : exec (.shflx d a b) s = execShflx d a b s := rfl
theorem exec_shflup d a b (s : State) : exec (.shflup d a b) s = execShflup d a b s := rfl
theorem exec_shfldn d a b (s : State) : exec (.shfldn d a b) s = execShfldn d a b s := rfl
theorem exec_qswz d a b (s : State) : exec (.qswz d a b) s = execQswz d a b s := rfl
theorem exec_qbc d a b (s : State) : exec (.qbc d a b) s = execQbc d a b s := rfl
theorem exec_lbc d a b (s : State) : exec (.lbc d a b) s = execLbc d a b s := rfl
theorem exec_shflImm d a ki (s : State) : exec (.shflImm d a ki) s = execShflImm d a ki s := rfl
theorem exec_shflxImm d a ki (s : State) : exec (.shflxImm d a ki) s = execShflxImm d a ki s := rfl
theorem exec_shflupImm d a ki (s : State) : exec (.shflupImm d a ki) s = execShflupImm d a ki s := rfl
theorem exec_shfldnImm d a ki (s : State) : exec (.shfldnImm d a ki) s = execShfldnImm d a ki s := rfl
theorem exec_qswzImm d a ki (s : State) : exec (.qswzImm d a ki) s = execQswzImm d a ki s := rfl
theorem exec_qbcImm d a ki (s : State) : exec (.qbcImm d a ki) s = execQbcImm d a ki s := rfl
theorem exec_lbcImm d a ki (s : State) : exec (.lbcImm d a ki) s = execLbcImm d a ki s := rfl
theorem exec_voteAll d p (s : State) : exec (.voteAll d p) s = execVoteAll d p s := rfl
theorem exec_voteAny d p (s : State) : exec (.voteAny d p) s = execVoteAny d p s := rfl
theorem exec_voteBallot d p (s : State) : exec (.voteBallot d p) s = execVoteBallot d p s := rfl
theorem exec_matchLanes d a (s : State) : exec (.matchLanes d a) s = execMatchLanes d a s := rfl
theorem exec_trn8B8 d a (s : State) : exec (.trn8B8 d a) s = execTrn8B8 d a s := rfl
theorem exec_trn8B16 d a (s : State) : exec (.trn8B16 d a) s = execTrn8B16 d a s := rfl
theorem exec_trn8B32 d a (s : State) : exec (.trn8B32 d a) s = execTrn8B32 d a s := rfl
theorem exec_lredAddI32 d a (s : State) : exec (.lredAddI32 d a) s = execLredAddI32 d a s := rfl
theorem exec_lredAddF32 r d a (s : State) : exec (.lredAddF32 r d a) s = execLredAddF32 r d a s := rfl
theorem exec_lredMinF32 d a (s : State) : exec (.lredMinF32 d a) s = execLredMinF32 d a s := rfl
theorem exec_lredMaxF32 d a (s : State) : exec (.lredMaxF32 d a) s = execLredMaxF32 d a s := rfl
theorem exec_lscanAddI32 d a (s : State) : exec (.lscanAddI32 d a) s = execLscanAddI32 d a s := rfl
theorem exec_lscanAddF32 r d a (s : State) : exec (.lscanAddF32 r d a) s = execLscanAddF32 r d a s := rfl
theorem exec_lredMinI32 d a (s : State) : exec (.lredMinI32 d a) s = execLredMinI32 d a s := rfl
theorem exec_lredMaxI32 d a (s : State) : exec (.lredMaxI32 d a) s = execLredMaxI32 d a s := rfl
theorem exec_ldp p d a o (s : State) : exec (.ldp p d a o) s = execLdp p d a o s := rfl
theorem exec_stp d a o (s : State) : exec (.stp d a o) s = execStp d a o s := rfl
theorem exec_mat d a (s : State) : exec (.mat d a) s = execMat d a s := rfl
theorem exec_pdrop a (s : State) : exec (.pdrop a) s = execPdrop a s := rfl
theorem exec_pqry d a (s : State) : exec (.pqry d a) s = execPqry d a s := rfl
theorem exec_pqryPred p a (s : State) : exec (.pqryPred p a) s = execPqryPred p a s := rfl
theorem exec_pmigr d a b (s : State) : exec (.pmigr d a b) s = execPmigr d a b s := rfl
theorem exec_ld w f d a o (s : State) : exec (.ld w f d a o) s = execLd w f d a o s := rfl
theorem exec_st w f d a o (s : State) : exec (.st w f d a o) s = execSt w f d a o s := rfl
theorem exec_ldq w p d a o (s : State) : exec (.ldq w p d a o) s = execLdq w p d a o s := rfl
theorem exec_ldsB32 w d a o (s : State) : exec (.ldsB32 w d a o) s = execLdsB32 w d a o s := rfl
theorem exec_stsB32 w d a o (s : State) : exec (.stsB32 w d a o) s = execStsB32 w d a o s := rfl
theorem exec_ldsUi16 d a o (s : State) : exec (.ldsUi16 d a o) s = execLdsUi16 d a o s := rfl
theorem exec_ldsS16 d a o (s : State) : exec (.ldsS16 d a o) s = execLdsS16 d a o s := rfl
theorem exec_stsB16 d a o (s : State) : exec (.stsB16 d a o) s = execStsB16 d a o s := rfl
theorem exec_ldsUi8 d a o (s : State) : exec (.ldsUi8 d a o) s = execLdsUi8 d a o s := rfl
theorem exec_ldsS8 d a o (s : State) : exec (.ldsS8 d a o) s = execLdsS8 d a o s := rfl
theorem exec_stsB8 d a o (s : State) : exec (.stsB8 d a o) s = execStsB8 d a o s := rfl
theorem exec_lda w ks d a o (s : State) : exec (.lda w ks d a o) s = execLda w ks d a o s := rfl
theorem exec_stl w ks d a o (s : State) : exec (.stl w ks d a o) s = execStl w ks d a o s := rfl
theorem exec_atom w f d a ks o (s : State) : exec (.atom w f d a ks o) s = execAtom w f d a ks o s := rfl
theorem exec_atomn w f d a ks o (s : State) : exec (.atomn w f d a ks o) s = execAtomn w f d a ks o s := rfl
theorem exec_atoms w f d a ks o (s : State) : exec (.atoms w f d a ks o) s = execAtoms w f d a ks o s := rfl
theorem exec_fence k ks (s : State) : exec (.fence k ks) s = execFence k ks s := rfl
theorem exec_wcdrain (s : State) : exec (.wcdrain) s = execWcdrain s := rfl
theorem exec_pref a c (s : State) : exec (.pref a c) s = execPref a c s := rfl
theorem exec_cvta d a m (s : State) : exec (.cvta d a m) s = execCvta d a m s := rfl
theorem exec_cpkick a b (s : State) : exec (.cpkick a b) s = execCpkick a b s := rfl
theorem exec_boinit a b (s : State) : exec (.boinit a b) s = execBoinit a b s := rfl
theorem exec_boarr a b (s : State) : exec (.boarr a b) s = execBoarr a b s := rfl
theorem exec_bowait d a (s : State) : exec (.bowait d a) s = execBowait d a s := rfl
theorem exec_stn w d a p (s : State) : exec (.stn w d a p) s = execStn w d a p s := rfl
theorem exec_nfence (s : State) : exec (.nfence) s = execNfence s := rfl
theorem exec_relq a b (s : State) : exec (.relq a b) s = execRelq a b s := rfl
theorem exec_pgreq d a b (s : State) : exec (.pgreq d a b) s = execPgreq d a b s := rfl
theorem exec_rzero d a b (s : State) : exec (.rzero d a b) s = execRzero d a b s := rfl
theorem exec_rcopy d a b (s : State) : exec (.rcopy d a b) s = execRcopy d a b s := rfl
theorem exec_wload d a (s : State) : exec (.wload d a) s = execWload d a s := rfl
theorem exec_wloadT d a (s : State) : exec (.wloadT d a) s = execWloadT d a s := rfl
theorem exec_wswap (s : State) : exec (.wswap) s = execWswap s := rfl
theorem exec_accz a (s : State) : exec (.accz a) s = execAccz a s := rfl
theorem exec_accld w d a (s : State) : exec (.accld w d a) s = execAccld w d a s := rfl
theorem exec_accldScr a b (s : State) : exec (.accldScr a b) s = execAccldScr a b s := rfl
theorem exec_accst w d a (s : State) : exec (.accst w d a) s = execAccst w d a s := rfl
theorem exec_accstScr a b (s : State) : exec (.accstScr a b) s = execAccstScr a b s := rfl
theorem exec_gang a (s : State) : exec (.gang a) s = execGang a s := rfl
theorem exec_opfence (s : State) : exec (.opfence) s = execOpfence s := rfl
theorem exec_mmaC8 d a (s : State) : exec (.mmaC8 d a) s = execMmaC8 d a s := rfl
theorem exec_mmaBf16 d a (s : State) : exec (.mmaBf16 d a) s = execMmaBf16 d a s := rfl
theorem exec_mmao d a b (s : State) : exec (.mmao d a b) s = execMmao d a b s := rfl
theorem exec_mwait a (s : State) : exec (.mwait a) s = execMwait a s := rfl
theorem exec_bra p n o (s : State) : exec (.bra p n o) s = execBra p n o s := rfl
theorem exec_call p n o (s : State) : exec (.call p n o) s = execCall p n o s := rfl
theorem exec_brt a n (s : State) : exec (.brt a n) s = execBrt a n s := rfl
theorem exec_callt a n (s : State) : exec (.callt a n) s = execCallt a n s := rfl
theorem exec_ret (s : State) : exec (.ret) s = execRet s := rfl
theorem exec_meet ki (s : State) : exec (.meet ki) s = execMeet ki s := rfl
theorem exec_meetw d ki (s : State) : exec (.meetw d ki) s = execMeetw d ki s := rfl
theorem exec_mpush (s : State) : exec (.mpush) s = execMpush s := rfl
theorem exec_mpop (s : State) : exec (.mpop) s = execMpop s := rfl
theorem exec_exit (s : State) : exec (.exit) s = execExit s := rfl
theorem exec_nap n (s : State) : exec (.nap n) s = execNap n s := rfl
theorem exec_yield (s : State) : exec (.yield) s = execYield s := rfl
theorem exec_bar d b (s : State) : exec (.bar d b) s = execBar d b s := rfl
theorem exec_bara d b (s : State) : exec (.bara d b) s = execBara d b s := rfl
theorem exec_barw b (s : State) : exec (.barw b) s = execBarw b s := rfl
theorem exec_cbar d b (s : State) : exec (.cbar d b) s = execCbar d b s := rfl
theorem exec_width w (s : State) : exec (.width w) s = execWidth w s := rfl
theorem exec_wlock (s : State) : exec (.wlock) s = execWlock s := rfl
theorem exec_wfree (s : State) : exec (.wfree) s = execWfree s := rfl
theorem exec_rclaim n (s : State) : exec (.rclaim n) s = execRclaim n s := rfl
theorem exec_rgive n (s : State) : exec (.rgive n) s = execRgive n s := rfl
theorem exec_win n (s : State) : exec (.win n) s = execWin n s := rfl
theorem exec_srd d ks (s : State) : exec (.srd d ks) s = execSrd d ks s := rfl
theorem exec_swr d ks (s : State) : exec (.swr d ks) s = execSwr d ks s := rfl
theorem exec_launch d p (s : State) : exec (.launch d p) s = execLaunch d p s := rfl
theorem exec_trap c (s : State) : exec (.trap c) s = execTrap c s := rfl
theorem exec_tret (s : State) : exec (.tret) s = execTret s := rfl
theorem exec_bkpt c (s : State) : exec (.bkpt c) s = execBkpt c s := rfl
theorem exec_cntclm d t u p (s : State) : exec (.cntclm d t u p) s = execCntclm d t u p s := rfl
theorem exec_cntrd d h t u c (s : State) : exec (.cntrd d h t u c) s = execCntrd d h t u c s := rfl
theorem exec_cntrel t u (s : State) : exec (.cntrel t u) s = execCntrel t u s := rfl
theorem exec_trmark d t (s : State) : exec (.trmark d t) s = execTrmark d t s := rfl
theorem exec_endRun g y a n (s : State) : exec (.endRun g y a n) s = execEndRun g y a n s := rfl
theorem exec_xi x (s : State) : exec (.xi x) s = execXi x s := rfl
theorem exec_guard p n (s : State) : exec (.guard p n) s = execGuard p n s := rfl
theorem exec_runSelect core part (s : State) : exec (.runSelect core part) s = execRunSelect core part s := rfl
theorem exec_skipCountBoost g (s : State) : exec (.skipCountBoost g) s = execSkipCountBoost g s := rfl
theorem exec_gapExpire g (s : State) : exec (.gapExpire g) s = execGapExpire g s := rfl
theorem exec_scoreboardWriteComplete g n (s : State) : exec (.scoreboardWriteComplete g n) s = execScoreboardWriteComplete g n s := rfl
theorem exec_napExpire g (s : State) : exec (.napExpire g) s = execNapExpire g s := rfl
theorem exec_meetTimeout g target (s : State) : exec (.meetTimeout g target) s = execMeetTimeout g target s := rfl
theorem exec_homeOperation home (s : State) : exec (.homeOperation home) s = execHomeOperation home s := rfl
theorem exec_homeAnswerArrival core (s : State) : exec (.homeAnswerArrival core) s = execHomeAnswerArrival core s := rfl
theorem exec_creditAckArrival core (s : State) : exec (.creditAckArrival core) s = execCreditAckArrival core s := rfl
theorem exec_matrixOpStart core part ctx (s : State) : exec (.matrixOpStart core part ctx) s = execMatrixOpStart core part ctx s := rfl
theorem exec_wswapTakeEffect core part ctx (s : State) : exec (.wswapTakeEffect core part ctx) s = execWswapTakeEffect core part ctx s := rfl
theorem exec_matrixOpComplete core part ctx n (s : State) : exec (.matrixOpComplete core part ctx n) s = execMatrixOpComplete core part ctx n s := rfl
theorem exec_copyRequestStart core (s : State) : exec (.copyRequestStart core) s = execCopyRequestStart core s := rfl
theorem exec_copyLineLand core req line (s : State) : exec (.copyLineLand core req line) s = execCopyLineLand core req line s := rfl
theorem exec_copyOutwardWrite core req (s : State) : exec (.copyOutwardWrite core req) s = execCopyOutwardWrite core req s := rfl
theorem exec_wcBufferTimeout core n (s : State) : exec (.wcBufferTimeout core n) s = execWcBufferTimeout core n s := rfl
theorem exec_stnNameReturn core n (s : State) : exec (.stnNameReturn core n) s = execStnNameReturn core n s := rfl
theorem exec_relqInvalidate n (s : State) : exec (.relqInvalidate n) s = execRelqInvalidate n s := rfl
theorem exec_rowOpStep n (s : State) : exec (.rowOpStep n) s = execRowOpStep n s := rfl
theorem exec_rowOpComplete n (s : State) : exec (.rowOpComplete n) s = execRowOpComplete n s := rfl
theorem exec_dramRefresh tile bank (s : State) : exec (.dramRefresh tile bank) s = execDramRefresh tile bank s := rfl
theorem exec_scrubRead sector found (s : State) : exec (.scrubRead sector found) s = execScrubRead sector found s := rfl
theorem exec_launchWindowDmwr vf offset record (s : State) : exec (.launchWindowDmwr vf offset record) s = execLaunchWindowDmwr vf offset record s := rfl
theorem exec_launchWindowPostedWrite vf (s : State) : exec (.launchWindowPostedWrite vf) s = execLaunchWindowPostedWrite vf s := rfl
theorem exec_fabricLaunch port vf tenant record (s : State) : exec (.fabricLaunch port vf tenant record) s = execFabricLaunch port vf tenant record s := rfl
theorem exec_tokenRefill port vf (s : State) : exec (.tokenRefill port vf) s = execTokenRefill port vf s := rfl
theorem exec_fabricMemoryPacket p (s : State) : exec (.fabricMemoryPacket p) s = execFabricMemoryPacket p s := rfl
theorem exec_waitWordPoll launch (s : State) : exec (.waitWordPoll launch) s = execWaitWordPoll launch s := rfl
theorem exec_launchHeaderRead launch (s : State) : exec (.launchHeaderRead launch) s = execLaunchHeaderRead launch s := rfl
theorem exec_launchPriorityBoost launch (s : State) : exec (.launchPriorityBoost launch) s = execLaunchPriorityBoost launch s := rfl
theorem exec_launchStarvationHold launch (s : State) : exec (.launchStarvationHold launch) s = execLaunchStarvationHold launch s := rfl
theorem exec_blockPlace tile (s : State) : exec (.blockPlace tile) s = execBlockPlace tile s := rfl
theorem exec_launchComplete launch (s : State) : exec (.launchComplete launch) s = execLaunchComplete launch s := rfl
theorem exec_meshForeignPacket tile source (s : State) : exec (.meshForeignPacket tile source) s = execMeshForeignPacket tile source s := rfl
theorem exec_linkReadCompletion n answer (s : State) : exec (.linkReadCompletion n answer) s = execLinkReadCompletion n answer s := rfl
theorem exec_linkReadTimeout n (s : State) : exec (.linkReadTimeout n) s = execLinkReadTimeout n s := rfl
theorem exec_partidWrite tile v (s : State) : exec (.partidWrite tile v) s = execPartidWrite tile v s := rfl
theorem exec_ctxdescWrite vf slot v (s : State) : exec (.ctxdescWrite vf slot v) s = execCtxdescWrite vf slot v s := rfl
theorem exec_resctlWrite tile n v (s : State) : exec (.resctlWrite tile n v) s = execResctlWrite tile n v s := rfl
theorem exec_invPages part v (s : State) : exec (.invPages part v) s = execInvPages part v s := rfl
theorem exec_invContext part v (s : State) : exec (.invContext part v) s = execInvContext part v s := rfl
theorem exec_invPartition part v (s : State) : exec (.invPartition part v) s = execInvPartition part v s := rfl
theorem exec_invCommandExecute part (s : State) : exec (.invCommandExecute part) s = execInvCommandExecute part s := rfl
theorem exec_invCommandComplete part (s : State) : exec (.invCommandComplete part) s = execInvCommandComplete part s := rfl
theorem exec_fqResolve part v (s : State) : exec (.fqResolve part v) s = execFqResolve part v s := rfl
theorem exec_fqRefuse part v (s : State) : exec (.fqRefuse part v) s = execFqRefuse part v s := rfl
theorem exec_fqResumePxexh part v (s : State) : exec (.fqResumePxexh part v) s = execFqResumePxexh part v s := rfl
theorem exec_fqheadWrite vf v (s : State) : exec (.fqheadWrite vf v) s = execFqheadWrite vf v s := rfl
theorem exec_fqctlWrite vf v (s : State) : exec (.fqctlWrite vf v) s = execFqctlWrite vf v s := rfl
theorem exec_victimWrite part vf (s : State) : exec (.victimWrite part vf) s = execVictimWrite part vf s := rfl
theorem exec_vfFrameCountWrite vf burst v (s : State) : exec (.vfFrameCountWrite vf burst v) s = execVfFrameCountWrite vf burst v s := rfl
theorem exec_frameAgingTick (s : State) : exec (.frameAgingTick) s = execFrameAgingTick s := rfl
theorem exec_mapReadSector tile v (s : State) : exec (.mapReadSector tile v) s = execMapReadSector tile v s := rfl
theorem exec_mapDonateUnit tile v (s : State) : exec (.mapDonateUnit tile v) s = execMapDonateUnit tile v s := rfl
theorem exec_mapReclaimUnit tile v (s : State) : exec (.mapReclaimUnit tile v) s = execMapReclaimUnit tile v s := rfl
theorem exec_mapWriteFrame tile v (s : State) : exec (.mapWriteFrame tile v) s = execMapWriteFrame tile v s := rfl
theorem exec_mapCommandDone tile (s : State) : exec (.mapCommandDone tile) s = execMapCommandDone tile s := rfl
theorem exec_flushFrame part v (s : State) : exec (.flushFrame part v) s = execFlushFrame part v s := rfl
theorem exec_flushFrameDone part (s : State) : exec (.flushFrameDone part) s = execFlushFrameDone part s := rfl
theorem exec_pfClaimUnit u v (s : State) : exec (.pfClaimUnit u v) s = execPfClaimUnit u v s := rfl
theorem exec_pfReleaseUnit u (s : State) : exec (.pfReleaseUnit u) s = execPfReleaseUnit u s := rfl
theorem exec_pfAckTrace u v (s : State) : exec (.pfAckTrace u v) s = execPfAckTrace u v s := rfl
theorem exec_tenantEntryWrite port vf offset data (s : State) : exec (.tenantEntryWrite port vf offset data) s = execTenantEntryWrite port vf offset data s := rfl
theorem exec_registerWrite window offset v (s : State) : exec (.registerWrite window offset v) s = execRegisterWrite window offset v s := rfl
theorem exec_snapshotWindow u (s : State) : exec (.snapshotWindow u) s = execSnapshotWindow u s := rfl
theorem exec_tracePcSample core (s : State) : exec (.tracePcSample core) s = execTracePcSample core s := rfl
theorem exec_reuseTagExpire tile n (s : State) : exec (.reuseTagExpire tile n) s = execReuseTagExpire tile n s := rfl
theorem exec_heatChargeWindow core (s : State) : exec (.heatChargeWindow core) s = execHeatChargeWindow core s := rfl
theorem exec_coneSample tile n valid temp (s : State) : exec (.coneSample tile n valid temp) s = execConeSample tile n valid temp s := rfl
theorem exec_damperEvaluate core (s : State) : exec (.damperEvaluate core) s = execDamperEvaluate core s := rfl
theorem exec_thermalPowerOff (s : State) : exec (.thermalPowerOff) s = execThermalPowerOff s := rfl
theorem exec_powerFloorUpdate watts (s : State) : exec (.powerFloorUpdate watts) s = execPowerFloorUpdate watts s := rfl
theorem exec_vfCapUpdate vf watts (s : State) : exec (.vfCapUpdate vf watts) s = execVfCapUpdate vf watts s := rfl
theorem exec_voltageUpdate tile (s : State) : exec (.voltageUpdate tile) s = execVoltageUpdate tile s := rfl
theorem exec_unitGate u (s : State) : exec (.unitGate u) s = execUnitGate u s := rfl
theorem exec_unitWake u (s : State) : exec (.unitWake u) s = execUnitWake u s := rfl
theorem exec_powerOnReset fw (s : State) : exec (.powerOnReset fw) s = execPowerOnReset fw s := rfl
theorem exec_packageReset (s : State) : exec (.packageReset) s = execPackageReset s := rfl
theorem exec_vfFlr vf (s : State) : exec (.vfFlr vf) s = execVfFlr vf s := rfl
theorem exec_recoveryImageWrite fw (s : State) : exec (.recoveryImageWrite fw) s = execRecoveryImageWrite fw s := rfl
theorem exec_lifetimeRecordWrite (s : State) : exec (.lifetimeRecordWrite) s = execLifetimeRecordWrite s := rfl
theorem exec_orderlyShutdown (s : State) : exec (.orderlyShutdown) s = execOrderlyShutdown s := rfl
theorem exec_attestRequest who (s : State) : exec (.attestRequest who) s = execAttestRequest who s := rfl
theorem exec_attestReportReady who (s : State) : exec (.attestReportReady who) s = execAttestReportReady who s := rfl
theorem exec_bindTenantKey vf tenant key (s : State) : exec (.bindTenantKey vf tenant key) s = execBindTenantKey vf tenant key s := rfl
theorem exec_contextCreate vf slot desc policy (s : State) : exec (.contextCreate vf slot desc policy) s = execContextCreate vf slot desc policy s := rfl
theorem exec_preempt ctx (s : State) : exec (.preempt ctx) s = execPreempt ctx s := rfl
theorem exec_contextSave ctx (s : State) : exec (.contextSave ctx) s = execContextSave ctx s := rfl
theorem exec_restore ctx part (s : State) : exec (.restore ctx part) s = execRestore ctx part s := rfl
theorem exec_restoreComplete ctx (s : State) : exec (.restoreComplete ctx) s = execRestoreComplete ctx s := rfl
theorem exec_flattenContext ctx (s : State) : exec (.flattenContext ctx) s = execFlattenContext ctx s := rfl
theorem exec_liveMigrate ctx target rev (s : State) : exec (.liveMigrate ctx target rev) s = execLiveMigrate ctx target rev s := rfl
theorem exec_drainMigrate ctx (s : State) : exec (.drainMigrate ctx) s = execDrainMigrate ctx s := rfl
theorem exec_debugAttach ctx byPf (s : State) : exec (.debugAttach ctx byPf) s = execDebugAttach ctx byPf s := rfl
theorem exec_debugStop ctx (s : State) : exec (.debugStop ctx) s = execDebugStop ctx s := rfl
theorem exec_debugResume ctx g (s : State) : exec (.debugResume ctx g) s = execDebugResume ctx g s := rfl
theorem exec_debugStepSet g on (s : State) : exec (.debugStepSet g on) s = execDebugStepSet g on s := rfl
theorem exec_debugDump g op (s : State) : exec (.debugDump g op) s = execDebugDump g op s := rfl
theorem exec_setColumnSize part units (s : State) : exec (.setColumnSize part units) s = execSetColumnSize part units s := rfl
theorem exec_setLowWater ctx sectors (s : State) : exec (.setLowWater ctx sectors) s = execSetLowWater ctx sectors s := rfl
theorem exec_setAgingPeriod micros (s : State) : exec (.setAgingPeriod micros) s = execSetAgingPeriod micros s := rfl
theorem exec_loadCodeObject ctx o (s : State) : exec (.loadCodeObject ctx o) s = execLoadCodeObject ctx o s := rfl
theorem exec_unloadCodeObject ctx base (s : State) : exec (.unloadCodeObject ctx base) s = execUnloadCodeObject ctx base s := rfl
theorem exec_illegalEncoding w (s : State) : exec (.illegalEncoding w) s = execIllegalEncoding w s := rfl
theorem exec_writePerformed n (s : State) : exec (.writePerformed n) s = execWritePerformed n s := rfl
theorem exec_powerFailure (s : State) : exec (.powerFailure) s = execPowerFailure s := rfl
theorem exec_voltageDroop tile (s : State) : exec (.voltageDroop tile) s = execVoltageDroop tile s := rfl
theorem exec_contextDestroy ctx (s : State) : exec (.contextDestroy ctx) s = execContextDestroy ctx s := rfl

end Sys2Proof.Machine
end

