-- ==== Sys2Proof/Laws/Lists.lean ====
section
/-! SUPPORT. What changing one element of a list, setting one key of a table and writing bytes do. -/

namespace Sys2Proof.Machine

@[simp] theorem modAt_length {α : Type} (l : List α) (k : Nat) (f : α → α) : (modAt l k f).length = l.length := by
  induction l generalizing k with
  | nil => rfl
  | cons x xs ih => cases k <;> simp [modAt, ih]

theorem modAt_getElem? {α : Type} (l : List α) (k : Nat) (f : α → α) (j : Nat) :
    (modAt l k f)[j]? = if j = k then l[j]?.map f else l[j]? := by
  induction l generalizing k j with
  | nil => simp [modAt]
  | cons x xs ih => cases k <;> cases j <;> simp [modAt, ih]

theorem modAt_getD {α : Type} (l : List α) (k : Nat) (f : α → α) (j : Nat) (d : α) :
    (modAt l k f).getD j d = if j = k ∧ j < l.length then f (l.getD j d) else l.getD j d := by
  simp only [List.getD_eq_getElem?_getD, modAt_getElem?]
  by_cases h : j = k <;> by_cases hl : j < l.length <;> simp [h, hl]
  · subst h; simp [hl]
  · subst h; simp [hl]

/-- A table whose keys all lie at or above a bound reads its default below it. -/
theorem tget_below {α : Type} [DecidableEq α] (d : α) : ∀ (m : Table α) (lo k : Nat), tableOk d lo m = true → k < lo → tget d m k = d
  | [], _, _, _, _ => rfl
  | (j, v) :: m, lo, k, h, hk => by
    simp only [tableOk, Bool.and_eq_true, decide_eq_true_eq] at h
    have : j ≠ k := by omega
    simp only [tget, this, if_false]
    exact tget_below d m (j + 1) k h.2 (by omega)

/-- Read after write: the key written reads the value, every other key as before. -/
theorem tget_tset {α : Type} [DecidableEq α] (d : α) : ∀ (m : Table α) (lo k j : Nat) (v : α), tableOk d lo m = true →
    tget d (tset d m k v) j = if j = k then v else tget d m j
  | [], _, k, j, v, _ => by
    by_cases hv : v = d <;> by_cases hj : j = k
    · simp [tset, tget, hv, hj]
    · simp [tset, tget, hv, hj]
    · simp [tset, tget, hv, hj]
    · have : ¬ k = j := fun e => hj e.symm
      simp [tset, tget, hv, hj, this]
  | (i, w) :: m, lo, k, j, v, h => by
    have h' := h
    simp only [tableOk, Bool.and_eq_true, decide_eq_true_eq] at h
    obtain ⟨⟨hi, hw⟩, hm⟩ := h
    have below := fun q (hq : q < i + 1) => tget_below d m (i + 1) q hm hq
    unfold tset
    split
    · next hk =>
      split
      · next hv =>
        subst hv
        by_cases hj : j = k
        · subst hj
          have : ¬ i = j := by omega
          simp [tget, this, below j (by omega)]
        · simp [hj]
      · by_cases hj : j = k
        · simp [tget, hj]
        · have : ¬ k = j := fun e => hj e.symm
          simp [tget, hj, this]
    · split
      · next hk =>
        subst hk
        split
        · next hv =>
          subst hv
          by_cases hj : j = k
          · subst hj; simp [below j (by omega)]
          · have : ¬ k = j := fun e => hj e.symm
            simp [tget, hj, this]
        · by_cases hj : j = k
          · simp [tget, hj]
          · have : ¬ k = j := fun e => hj e.symm
            simp [tget, hj, this]
      · next hlt hne =>
        simp only [tget]
        by_cases hij : i = j
        · have : ¬ j = k := by omega
          simp [hij, this]
        · simp only [hij, if_false]
          exact tget_tset d m (i + 1) k j v hm

/-- Setting a key keeps the canonical form. -/
theorem tableOk_tset {α : Type} [DecidableEq α] (d : α) : ∀ (m : Table α) (lo k : Nat) (v : α), tableOk d lo m = true → lo ≤ k →
    tableOk d lo (tset d m k v) = true
  | [], lo, k, v, _, hk => by
    by_cases hv : v = d <;> simp [tset, tableOk, hv, hk]
  | (i, w) :: m, lo, k, v, h, hk => by
    have h' := h
    simp only [tableOk, Bool.and_eq_true, decide_eq_true_eq] at h
    obtain ⟨⟨hi, hw⟩, hm⟩ := h
    have weaken : ∀ (m : Table α) (a b : Nat), b ≤ a → tableOk d a m = true → tableOk d b m = true := by
      intro m a b hab hm
      cases m with
      | nil => rfl
      | cons e m =>
        obtain ⟨q, u⟩ := e
        simp only [tableOk, Bool.and_eq_true, decide_eq_true_eq] at hm ⊢
        exact ⟨⟨by omega, hm.1.2⟩, hm.2⟩
    unfold tset
    split
    · next hlt =>
      split
      · exact h'
      · next hv =>
        simp only [tableOk, Bool.and_eq_true, decide_eq_true_eq]
        exact ⟨⟨hk, hv⟩, ⟨by omega, hw⟩, hm⟩
    · split
      · next hke =>
        split
        · exact weaken m (i + 1) lo (by omega) hm
        · next hv =>
          simp only [tableOk, Bool.and_eq_true, decide_eq_true_eq]
          exact ⟨⟨hk, hv⟩, by subst hke; exact hm⟩
      · next hlt hne =>
        simp only [tableOk, Bool.and_eq_true, decide_eq_true_eq]
        exact ⟨⟨hi, hw⟩, tableOk_tset d m (i + 1) k v hm (by omega)⟩

/-- Dropping keys keeps the canonical form. -/
theorem tableOk_filter {α : Type} [DecidableEq α] (d : α) (p : Nat × α → Bool) : ∀ (m : Table α) (lo : Nat), tableOk d lo m = true →
    tableOk d lo (m.filter p) = true
  | [], _, _ => rfl
  | (i, w) :: m, lo, h => by
    simp only [tableOk, Bool.and_eq_true, decide_eq_true_eq] at h
    obtain ⟨⟨hi, hw⟩, hm⟩ := h
    have ih := tableOk_filter d p m (i + 1) hm
    simp only [List.filter]
    split
    · simp only [tableOk, Bool.and_eq_true, decide_eq_true_eq]; exact ⟨⟨hi, hw⟩, ih⟩
    · have weaken : ∀ (m : Table α) (a b : Nat), b ≤ a → tableOk d a m = true → tableOk d b m = true := by
        intro m a b hab hm
        cases m with
        | nil => rfl
        | cons e m =>
          obtain ⟨q, u⟩ := e
          simp only [tableOk, Bool.and_eq_true, decide_eq_true_eq] at hm ⊢
          exact ⟨⟨by omega, hm.1.2⟩, hm.2⟩
      exact weaken _ (i + 1) lo (by omega) ih

/-- A byte written reads back, and every other byte reads as before. -/
theorem rdByte_wrByte (m : Memory) (h : Memory.wf m = true) (k j : Nat) (v : Byte) :
    rdByte (wrByte m k v) j = if j = k then v else rdByte m j := tget_tset 0 m 0 k j v h

/-- A byte write keeps the canonical form. -/
theorem wf_wrByte (m : Memory) (h : Memory.wf m = true) (k : Nat) (v : Byte) : Memory.wf (wrByte m k v) = true :=
  tableOk_tset 0 m 0 k v h (Nat.zero_le k)

/-- Writing bytes keeps the canonical form. -/
theorem wf_wrBytes (m : Memory) (h : Memory.wf m = true) (a : Nat) (bs : List Byte) : Memory.wf (wrBytes m a bs) = true := by
  induction bs generalizing m a with
  | nil => exact h
  | cons v vs ih => exact ih _ (wf_wrByte m h a v) _

/-- Bytes written read back, and every other byte reads as before. -/
theorem rdByte_wrBytes (m : Memory) (h : Memory.wf m = true) (a : Nat) (bs : List Byte) (j : Nat) :
    rdByte (wrBytes m a bs) j = if a ≤ j ∧ j < a + bs.length then bs.getD (j - a) 0 else rdByte m j := by
  induction bs generalizing m a with
  | nil => simp only [wrBytes, List.length_nil]; split <;> [omega; rfl]
  | cons v vs ih =>
    simp only [wrBytes, ih (wrByte m a v) (wf_wrByte m h a v) (a + 1), rdByte_wrByte m h, List.length_cons]
    by_cases h1 : a + 1 ≤ j ∧ j < a + 1 + vs.length
    · have h2 : a ≤ j ∧ j < a + (vs.length + 1) := by omega
      obtain ⟨n, hn⟩ : ∃ n, j - a = n + 1 := ⟨j - a - 1, by omega⟩
      have h3 : j - (a + 1) = n := by omega
      simp [h1, h2, hn, h3]
    · rw [if_neg h1]
      by_cases hj : j = a
      · subst hj; simp
      · have h2 : ¬ (a ≤ j ∧ j < a + (vs.length + 1)) := by omega
        rw [if_neg hj, if_neg h2]

end Sys2Proof.Machine
end

