-- ==== Sys2Proof/Laws/Write.lean ====
section
/-! SUPPORT. What an instruction that is ready comes to, and what writing registers does to a group and to the state. -/

namespace Sys2Proof.Machine

/-- The issue context names the group that issues. -/
theorem issOf_group {s : State} {g : Group} {i : Iss} (h : s.issOf g = some i) : i.g = g := by
  unfold State.issOf at h
  split at h
  · cases h
  · split at h
    · cases h
    · cases h; rfl

theorem issueCtx_issuer {s : State} {i : Iss} (h : s.issueCtx = some i) : s.issuer = some i.g ∧ s.issOf i.g = some i := by
  unfold State.issueCtx at h
  split at h
  · cases h
  · next g hg =>
    have := issOf_group h
    subst this
    exact ⟨hg, h⟩

/-- The checks of an instruction that is ready come to its target check (R48). -/
theorem firstFault_ready {s : State} {i : Iss} {u : Uses} (h : Ready s i u) (t : Option Flt) : i.firstFault u t = t := by
  unfold Iss.firstFault
  split
  · rfl
  · simp only [h.prefixes, h.active, h.accepted, h.operands, if_false, Option.isSome_none, Bool.false_eq_true]
    cases t <;> rfl

/-- An instruction that is ready: its target check, then its body (R40, R48). -/
theorem issue_ready {s : State} {i : Iss} {u : Uses} (h : Ready s i u) (tgt : Iss → Option Flt) (body : State → Iss → Act) :
    issue s u tgt body = .next (match tgt i with
      | some f => (s.look i (u.ahead i)).settle i u (.fault f)
      | none => (counted s i u).settle i u (body (counted s i u) i)) := by
  obtain ⟨h1, h2⟩ := issueCtx_issuer h.ctx
  simp only [issue, h1, h2, h.free, firstFault_ready h, h.sighted, h.active, counted, if_true, if_false, Bool.false_eq_true]
  all_goals (cases tgt i <;> rfl)

/-- With no target check. -/
theorem issue_ready' {s : State} {i : Iss} {u : Uses} (h : Ready s i u) (body : State → Iss → Act) :
    issue s u noTarget body = .next ((counted s i u).settle i u (body (counted s i u) i)) := issue_ready h noTarget body

/-- Nothing is undefined of an instruction that is ready. -/
theorem issOf_undef {s : State} {g : Group} {i : Iss} (h : s.issOf g = some i) : i.undef = 0 := by
  unfold State.issOf at h
  split at h
  · cases h
  · split at h
    · cases h
    · cases h; rfl

theorem ready_undef {s : State} {i : Iss} {u : Uses} (h : Ready s i u) : i.undef = 0 := issOf_undef (issueCtx_issuer h.ctx).2

@[simp] theorem settle_done (s t : State) (i : Iss) (u : Uses) : s.settle i u (.done t) = t.nextWord i := rfl
@[simp] theorem settle_settled (s t : State) (i : Iss) (u : Uses) : s.settle i u (.settled t) = t := rfl
@[simp] theorem settle_park (s t : State) (i : Iss) (u : Uses) (w : Park) :
    s.settle i u (.park t w) = t.modIss i fun g => g.suspend (.parked w) := rfl

/-- Registers written one after another, from an element on. -/
def Group.putFrom (g : Group) (act wr : Mask) (d : BitVec 7) (j : Nat) : List (Nat → Word) → Group
  | [] => g
  | v :: vs => (g.put act wr d j v).putFrom act wr d (j + 1) vs

theorem modGroup_modGroup (s : State) (c p k : Nat) (f f' : Group → Group)
    (h : ∀ g, g.isAt c p k = true → (f g).isAt c p k = true) :
    (s.modGroup c p k f).modGroup c p k f' = s.modGroup c p k fun g => f' (f g) := by
  simp only [State.modGroup, List.map_map]
  congr 1
  apply List.map_congr_left
  intro g _
  by_cases hg : g.isAt c p k = true
  · simp [hg, h g hg]
  · simp [hg]

theorem put_frame (g : Group) (act wr : Mask) (f : BitVec 7) (j : Nat) (v : Nat → Word) :
    g.put act wr f j v = { g with threads := (g.put act wr f j v).threads, regs := (g.put act wr f j v).regs,
                                  sregs := (g.put act wr f j v).sregs, rpoison := (g.put act wr f j v).rpoison } := by
  unfold Group.put
  dsimp only
  split
  · rfl
  · split
    · split
      · split <;> rfl
      · rfl
    · split <;> rfl

theorem putFrom_some (g : Group) (act wr : Mask) (f : BitVec 7) (j : Nat) (vs : List (Nat → Word)) :
    ∃ th rg sr rp, g.putFrom act wr f j vs = { g with threads := th, regs := rg, sregs := sr, rpoison := rp } := by
  induction vs generalizing g j with
  | nil => exact ⟨g.threads, g.regs, g.sregs, g.rpoison, rfl⟩
  | cons v vs ih =>
    obtain ⟨th, rg, sr, rp, h⟩ := ih (g.put act wr f j v) (j + 1)
    refine ⟨th, rg, sr, rp, ?_⟩
    simp only [Group.putFrom, h]
    rw [put_frame]

theorem putFrom_frame (g : Group) (act wr : Mask) (f : BitVec 7) (j : Nat) (vs : List (Nat → Word)) :
    g.putFrom act wr f j vs = { g with threads := (g.putFrom act wr f j vs).threads, regs := (g.putFrom act wr f j vs).regs,
                                       sregs := (g.putFrom act wr f j vs).sregs, rpoison := (g.putFrom act wr f j vs).rpoison } := by
  obtain ⟨th, rg, sr, rp, h⟩ := putFrom_some g act wr f j vs
  rw [h]

theorem putFrom_isAt (g : Group) (act wr : Mask) (f : BitVec 7) (j : Nat) (vs : List (Nat → Word)) (c p k : Nat) :
    (g.putFrom act wr f j vs).isAt c p k = g.isAt c p k := by
  rw [putFrom_frame]; rfl

/-- The registers that a write from element j on names. -/
theorem put_regs (g : Group) (act wr : Mask) (d : BitVec 7) (j : Nat) (v : Nat → Word) (k : Nat) :
    (g.put act wr d j v).regs[k]? = g.regs[k]?.map fun old =>
      if d.toNat < 96 ∧ k = g.win.toNat * 32 + d.toNat + j then lanesWritten g.grant wr v old else old := by
  unfold Group.put
  dsimp only
  split
  · next h =>
    simp only [modAt_getElem?, h, true_and]
    by_cases hk : k = g.win.toNat * 32 + d.toNat + j
    · simp only [hk, if_true]
      congr 1
      funext old
      cases old <;> simp only [lanesWritten]
    · simp [hk]
  · next h =>
    have : ∀ r : VReg, (if d.toNat < 96 ∧ k = g.win.toNat * 32 + d.toNat + j then lanesWritten g.grant wr v r else r) = r := by
      intro r; simp [h]
    simp only [this, Option.map_id']
    split
    · split
      · split <;> rfl
      · rfl
    · split <;> rfl

theorem put_sregs (g : Group) (act wr : Mask) (d : BitVec 7) (j : Nat) (v : Nat → Word) (k : Nat) :
    (g.put act wr d j v).sregs[k]? = g.sregs[k]?.map fun old =>
      match (lanesOf act g.grant).head? with
      | some l => if 96 ≤ d.toNat ∧ d.toNat < 112 ∧ k = d.toNat - 96 + j then (if wr.getLsbD l then v l else old) else old
      | none => old := by
  unfold Group.put
  dsimp only
  split
  · next h =>
    have h1 : ¬ 96 ≤ d.toNat := by omega
    cases (lanesOf act g.grant).head? <;> simp [h1]
  · next h =>
    have h0 : 96 ≤ d.toNat := by omega
    split
    · next h1 =>
      cases hl : (lanesOf act g.grant).head? with
      | none => simp
      | some l =>
        by_cases hw : wr.getLsbD l = true
        · simp only [hw, if_true, modAt_getElem?, h0, h1, true_and]
          by_cases hk : k = d.toNat - 96 + j <;> simp [hk]
        · simp [hw]
    · next h1 =>
      cases (lanesOf act g.grant).head? <;> split <;> simp [h1]

/-- A thread of a written lane, by one element of a temporary operand. -/
def putThread (d : BitVec 7) (wr : Mask) (j : Nat) (v : Nat → Word) (l : Nat) (t : Thread) : Thread :=
  if 112 ≤ d.toNat ∧ d.toNat < 120 ∧ wr.getLsbD l then
    { t with x := modAt t.x (d.toNat - 112 + j) fun _ => v l, xmark := t.xmark ||| BitVec.ofNat 8 (2 ^ (d.toNat - 112 + j)) }
  else t

theorem put_threads (g : Group) (act wr : Mask) (d : BitVec 7) (j : Nat) (v : Nat → Word) (l : Nat) :
    (g.put act wr d j v).threads[l]? = g.threads[l]?.map (putThread d wr j v l) := by
  unfold Group.put putThread
  dsimp only
  split
  · next h =>
    have h1 : ¬ 112 ≤ d.toNat := by omega
    simp [h1]
  · split
    · next h =>
      have h1 : ¬ 112 ≤ d.toNat := by omega
      split
      · split <;> simp [h1]
      · simp [h1]
    · next h =>
      have h1 : 112 ≤ d.toNat := by omega
      split
      · next h2 => simp [List.getElem?_mapIdx, h1, h2]
      · next h2 => simp [h2]

theorem put_rpoison (g : Group) (act wr : Mask) (d : BitVec 7) (j : Nat) (v : Nat → Word) :
    (g.put act wr d j v).rpoison = g.rpoison.filter fun e => !(regKey g.win d j == some e.1 && storesIn g.grant act wr d e.2) := by
  unfold Group.put
  dsimp only
  split
  · rfl
  · split
    · split
      · split <;> rfl
      · rfl
    · split <;> rfl

/-- The value that a write from element j on gives the register numbered k counted from a first one. -/
def destFrom (ok : Prop) [Decidable ok] (first : Nat) (vs : List (Nat → Word)) (k : Nat) : Option (Nat → Word) :=
  if ok ∧ first ≤ k then vs[k - first]? else none

theorem destFrom_nil (ok : Prop) [Decidable ok] (first k : Nat) : destFrom ok first [] k = none := by
  unfold destFrom; split <;> simp

theorem destFrom_cons (ok : Prop) [Decidable ok] (first : Nat) (v : Nat → Word) (vs : List (Nat → Word)) (k : Nat) :
    destFrom ok first (v :: vs) k = if ok ∧ k = first then some v else destFrom ok (first + 1) vs k := by
  unfold destFrom
  by_cases ho : ok
  · by_cases hk : k = first
    · subst hk; simp [ho]
    · by_cases h1 : first + 1 ≤ k
      · obtain ⟨n, hn⟩ : ∃ n, k - first = n + 1 := ⟨k - first - 1, by omega⟩
        have h2 : k - (first + 1) = n := by omega
        have h3 : first ≤ k := by omega
        simp [ho, hk, h1, h2, h3, hn]
      · have h3 : ¬ first ≤ k := by omega
        simp [hk, h1, h3]
  · simp [ho]

theorem destFrom_self (ok : Prop) [Decidable ok] (first : Nat) (vs : List (Nat → Word)) :
    destFrom ok (first + 1) vs first = none := by
  unfold destFrom
  have : ¬ first + 1 ≤ first := by omega
  simp [this]

theorem put_win (g : Group) (act wr : Mask) (d : BitVec 7) (j : Nat) (v : Nat → Word) : (g.put act wr d j v).win = g.win := by
  rw [put_frame]

theorem put_grant (g : Group) (act wr : Mask) (d : BitVec 7) (j : Nat) (v : Nat → Word) : (g.put act wr d j v).grant = g.grant := by
  rw [put_frame]

theorem putFrom_regs (g : Group) (act wr : Mask) (d : BitVec 7) (j : Nat) (vs : List (Nat → Word)) (k : Nat) :
    (g.putFrom act wr d j vs).regs[k]? = g.regs[k]?.map fun old =>
      match destFrom (d.toNat < 96) (g.win.toNat * 32 + d.toNat + j) vs k with
      | some v => lanesWritten g.grant wr v old
      | none => old := by
  induction vs generalizing g j with
  | nil => simp [Group.putFrom, destFrom_nil]
  | cons v vs ih =>
    simp only [Group.putFrom, ih, put_regs, put_win, put_grant, Option.map_map, destFrom_cons]
    congr 1
    funext old
    by_cases h : d.toNat < 96 ∧ k = g.win.toNat * 32 + d.toNat + j
    · have hk := h.2
      subst hk
      simp [h.1, ← Nat.add_assoc, destFrom_self]
    · simp [h, Function.comp, ← Nat.add_assoc]

theorem putFrom_sregs (g : Group) (act wr : Mask) (d : BitVec 7) (j : Nat) (vs : List (Nat → Word)) (k : Nat) :
    (g.putFrom act wr d j vs).sregs[k]? = g.sregs[k]?.map fun old =>
      match destFrom (96 ≤ d.toNat ∧ d.toNat < 112) (d.toNat - 96 + j) vs k, (lanesOf act g.grant).head? with
      | some v, some l => if wr.getLsbD l then v l else old
      | _, _ => old := by
  induction vs generalizing g j with
  | nil => simp [Group.putFrom, destFrom_nil]
  | cons v vs ih =>
    simp only [Group.putFrom, ih, put_sregs, put_grant, Option.map_map, destFrom_cons]
    congr 1
    funext old
    cases (lanesOf act g.grant).head? with
    | none => simp
    | some l =>
      by_cases h : (96 ≤ d.toNat ∧ d.toNat < 112) ∧ k = d.toNat - 96 + j
      · have hk := h.2
        subst hk
        simp [h.1, ← Nat.add_assoc, destFrom_self]
      · have h' : ¬ (96 ≤ d.toNat ∧ d.toNat < 112 ∧ k = d.toNat - 96 + j) := fun e => h ⟨⟨e.1, e.2.1⟩, e.2.2⟩
        simp [h, h', Function.comp, ← Nat.add_assoc]

theorem destFrom_scalar (d : BitVec 7) (vs : List (Nat → Word)) (k : Nat) :
    destFrom (96 ≤ d.toNat ∧ d.toNat < 112) (d.toNat - 96 + 0) vs k = scalarDest d vs k := by
  unfold destFrom scalarDest
  by_cases h : 96 ≤ d.toNat ∧ d.toNat < 112 ∧ d.toNat - 96 ≤ k
  · rw [if_pos h, if_pos ⟨⟨h.1, h.2.1⟩, h.2.2⟩]; rfl
  · rw [if_neg h, if_neg fun e => h ⟨e.1.1, e.1.2, e.2⟩]

theorem destFrom_temp (d : BitVec 7) (vs : List (Nat → Word)) (k : Nat) :
    destFrom (112 ≤ d.toNat ∧ d.toNat < 120) (d.toNat - 112 + 0) vs k = tempDest d vs k := by
  unfold destFrom tempDest
  by_cases h : 112 ≤ d.toNat ∧ d.toNat < 120 ∧ d.toNat - 112 ≤ k
  · rw [if_pos h, if_pos ⟨⟨h.1, h.2.1⟩, h.2.2⟩]; rfl
  · rw [if_neg h, if_neg fun e => h ⟨e.1.1, e.1.2, e.2⟩]

/-- A thread of a written lane, by all elements of a temporary operand from one on. -/
def putThreads (d : BitVec 7) (wr : Mask) (l : Nat) : Nat → List (Nat → Word) → Thread → Thread
  | _, [], t => t
  | j, v :: vs, t => putThreads d wr l (j + 1) vs (putThread d wr j v l t)

theorem putFrom_threads (g : Group) (act wr : Mask) (d : BitVec 7) (j : Nat) (vs : List (Nat → Word)) (l : Nat) :
    (g.putFrom act wr d j vs).threads[l]? = g.threads[l]?.map (putThreads d wr l j vs) := by
  induction vs generalizing g j with
  | nil =>
    have : putThreads d wr l j [] = id := by funext t; rfl
    rw [this]; simp [Group.putFrom]
  | cons v vs ih =>
    simp only [Group.putFrom, ih, put_threads, Option.map_map]
    congr 1

theorem putThreads_rest (d : BitVec 7) (wr : Mask) (l j : Nat) (vs : List (Nat → Word)) (t : Thread) :
    ∃ x m, putThreads d wr l j vs t = { t with x := x, xmark := m } := by
  induction vs generalizing t j with
  | nil => exact ⟨t.x, t.xmark, rfl⟩
  | cons v vs ih =>
    obtain ⟨x, m, h⟩ := ih (j + 1) (putThread d wr j v l t)
    refine ⟨x, m, ?_⟩
    simp only [putThreads, h]
    unfold putThread
    split <;> rfl

theorem putThreads_temps (d : BitVec 7) (wr : Mask) (l j : Nat) (vs : List (Nat → Word)) (t : Thread) (k : Nat) :
    (putThreads d wr l j vs t).x[k]? = t.x[k]?.map fun old =>
      match destFrom (112 ≤ d.toNat ∧ d.toNat < 120) (d.toNat - 112 + j) vs k with
      | some v => if wr.getLsbD l then v l else old
      | none => old := by
  induction vs generalizing t j with
  | nil => simp [putThreads, destFrom_nil]
  | cons v vs ih =>
    have h1 : (putThread d wr j v l t).x[k]? = t.x[k]?.map fun old =>
        if (112 ≤ d.toNat ∧ d.toNat < 120 ∧ wr.getLsbD l) ∧ k = d.toNat - 112 + j then v l else old := by
      unfold putThread
      split
      · next h =>
        simp only [modAt_getElem?, h, true_and]
        by_cases hk : k = d.toNat - 112 + j <;> simp [hk]
      · next h => simp [h]
    simp only [putThreads, ih, h1, Option.map_map, destFrom_cons]
    congr 1
    funext old
    by_cases hw : wr.getLsbD l = true
    · by_cases h : (112 ≤ d.toNat ∧ d.toNat < 120) ∧ k = d.toNat - 112 + j
      · have hk := h.2
        subst hk
        simp [h.1, hw, ← Nat.add_assoc, destFrom_self]
      · have h' : ¬ ((112 ≤ d.toNat ∧ d.toNat < 120 ∧ wr.getLsbD l = true) ∧ k = d.toNat - 112 + j) :=
          fun e => h ⟨⟨e.1.1, e.1.2.1⟩, e.2⟩
        simp only [Function.comp, if_neg h, if_neg h', ← Nat.add_assoc]
    · simp [hw, Function.comp, ← Nat.add_assoc]
      split <;> split <;> rfl

theorem putThreads_marks (d : BitVec 7) (wr : Mask) (l j : Nat) (vs : List (Nat → Word)) (t : Thread) (k : Nat) (hk : k < 8) :
    (putThreads d wr l j vs t).xmark.getLsbD k =
      (t.xmark.getLsbD k || (wr.getLsbD l &&
        (destFrom (112 ≤ d.toNat ∧ d.toNat < 120) (d.toNat - 112 + j) vs k).isSome)) := by
  induction vs generalizing t j with
  | nil => simp [putThreads, destFrom_nil]
  | cons v vs ih =>
    have h1 : (putThread d wr j v l t).xmark.getLsbD k =
        (t.xmark.getLsbD k || decide ((112 ≤ d.toNat ∧ d.toNat < 120 ∧ wr.getLsbD l) ∧ k = d.toNat - 112 + j)) := by
      unfold putThread
      split
      · next h =>
        simp only [BitVec.getLsbD_or, BitVec.getLsbD_ofNat, hk, decide_true, Bool.true_and, Nat.testBit_two_pow, h, true_and, and_true]
        congr 1
        exact decide_eq_decide.mpr eq_comm
      · next h => simp [h]
    simp only [putThreads, ih, h1, destFrom_cons]
    by_cases hw : wr.getLsbD l = true
    · by_cases h : (112 ≤ d.toNat ∧ d.toNat < 120) ∧ k = d.toNat - 112 + j
      · simp [h, hw]
      · have : ¬ ((112 ≤ d.toNat ∧ d.toNat < 120 ∧ wr.getLsbD l = true) ∧ k = d.toNat - 112 + j) :=
          fun e => h ⟨⟨e.1.1, e.1.2.1⟩, e.2⟩
        simp only [this, h, if_false, decide_false, Bool.or_false, ← Nat.add_assoc]
    · simp [hw]

theorem filter_filter_dest (l : List (Nat × Nat)) (p q : Nat × Nat → Bool) :
    (l.filter p).filter q = l.filter fun e => p e && q e := by
  rw [List.filter_filter]
  congr 1
  funext e
  exact Bool.and_comm _ _

/-- The value that a write from element j on gives the register of a key. -/
def keyFrom (win : BitVec 3) (d : BitVec 7) (j : Nat) (vs : List (Nat → Word)) (k : Nat) : Option (Nat → Word) :=
  match regKey win d j with
  | some first => if first ≤ k ∧ (first < 256 → k < 256) then vs[k - first]? else none
  | none => none

theorem regKey_succ (win : BitVec 3) (d : BitVec 7) (j : Nat) :
    regKey win d (j + 1) = (regKey win d j).bind fun n => if n = 255 then none else some (n + 1) := by
  unfold regKey
  dsimp only
  split
  · by_cases h : win.toNat * 32 + d.toNat + j < 256
    · rw [if_pos h, Option.bind_some]
      by_cases h1 : win.toNat * 32 + d.toNat + j = 255
      · rw [if_pos h1, if_neg (by omega)]
      · rw [if_neg h1, if_pos (by omega)]
        simp [Nat.add_assoc]
    · rw [if_neg h, if_neg (by omega), Option.bind_none]
  · split
    · rw [Option.bind_some, if_neg (by omega)]
      simp [Nat.add_assoc]
    · split
      · rw [Option.bind_some, if_neg (by omega)]
        simp [Nat.add_assoc]
      · rfl

theorem keyFrom_cons (win : BitVec 3) (d : BitVec 7) (j : Nat) (v : Nat → Word) (vs : List (Nat → Word)) (k : Nat) :
    (keyFrom win d j (v :: vs) k).isSome = ((regKey win d j == some k) || (keyFrom win d (j + 1) vs k).isSome) := by
  unfold keyFrom
  rw [regKey_succ]
  cases regKey win d j with
  | none => rfl
  | some first =>
    simp only [Option.bind_some]
    by_cases h : first = k
    · subst h; simp
    · by_cases h5 : first = 255
      · subst h5
        have h1 : ¬ (255 ≤ k ∧ k < 256) := by omega
        have h2 : (255 == k) = false := by simpa using h
        simp [h1, h2]
      · rw [if_neg h5]
        by_cases h1 : first ≤ k ∧ (first < 256 → k < 256)
        · have h2 : first + 1 ≤ k ∧ (first + 1 < 256 → k < 256) := by omega
          have h3 : k - first = (k - (first + 1)) + 1 := by omega
          simp only [if_pos h1, if_pos h2, h3]
          simp [h]
        · have h2 : ¬ (first + 1 ≤ k ∧ (first + 1 < 256 → k < 256)) := by omega
          simp only [if_neg h1, if_neg h2]
          simp [h]

theorem putFrom_rpoison (g : Group) (act wr : Mask) (d : BitVec 7) (j : Nat) (vs : List (Nat → Word)) :
    (g.putFrom act wr d j vs).rpoison =
      g.rpoison.filter fun e => !((keyFrom g.win d j vs e.1).isSome && storesIn g.grant act wr d e.2) := by
  induction vs generalizing g j with
  | nil =>
    have : ∀ k, keyFrom g.win d j [] k = none := by intro k; unfold keyFrom; split <;> simp
    simp [Group.putFrom, this]
  | cons v vs ih =>
    simp only [Group.putFrom, ih, put_rpoison, put_win, put_grant, filter_filter_dest]
    apply List.filter_congr
    intro e _
    rw [keyFrom_cons]
    cases regKey g.win d j == some e.1 <;> simp
    intro h
    exact Or.inr h

/-- Moving the issue set on (R40). -/
theorem advance_threads (g : Group) (l : Nat) :
    g.advance.threads[l]? = g.threads[l]?.map fun t => if g.iset.getLsbD l then { t with pc := t.pc + 4, via := false } else t := by
  simp [Group.advance, Group.modThreads, List.getElem?_mapIdx]

/-- What writing registers and moving on does to the issuing group. -/
theorem group_written (g : Group) (act wr : Mask) (d : BitVec 7) (vs : List (Nat → Word)) :
    GroupWritten g (g.putFrom act wr d 0 vs).advance act wr d vs := by
  have hw : (g.putFrom act wr d 0 vs).win = g.win := by rw [putFrom_frame]
  have hi : (g.putFrom act wr d 0 vs).iset = g.iset := by rw [putFrom_frame]
  refine ⟨?_, ?_, ?_, ?_, ?_⟩
  · obtain ⟨th, rg, sr, rp, h⟩ := putFrom_some g act wr d 0 vs
    rw [h]; rfl
  · intro k
    have : (g.putFrom act wr d 0 vs).advance.regs = (g.putFrom act wr d 0 vs).regs := rfl
    rw [this, putFrom_regs]; rfl
  · intro k
    have : (g.putFrom act wr d 0 vs).advance.sregs = (g.putFrom act wr d 0 vs).sregs := rfl
    rw [this, putFrom_sregs]
    simp only [destFrom_scalar] <;> rfl
  · intro l
    rw [advance_threads, putFrom_threads, hi]
    refine ⟨by cases g.threads[l]? <;> simp, ?_⟩
    intro t t' ht ht'
    rw [ht] at ht'
    simp only [Option.map_some, Option.some.injEq] at ht'
    obtain ⟨x, m, hr⟩ := putThreads_rest d wr l 0 vs t
    refine ⟨?_, ?_, ?_⟩
    · rw [← ht', hr]; split <;> rfl
    · intro k
      have h1 : t'.x = (putThreads d wr l 0 vs t).x := by rw [← ht']; split <;> rfl
      rw [h1, putThreads_temps]
      simp only [destFrom_temp] <;> rfl
    · intro k hk
      have h1 : t'.xmark = (putThreads d wr l 0 vs t).xmark := by rw [← ht']; split <;> rfl
      rw [h1, putThreads_marks _ _ _ _ _ _ _ hk, destFrom_temp]
  · have : (g.putFrom act wr d 0 vs).advance.rpoison = (g.putFrom act wr d 0 vs).rpoison := rfl
    rw [this, putFrom_rpoison]; rfl

/-- What writing registers of the issuing group and moving on does to the state. -/
theorem regs_written (s : State) (i : Iss) (wr : Mask) (d : BitVec 7) (vs : List (Nat → Word)) :
    RegsWritten s ((s.modIss i fun g => g.putFrom i.act wr d 0 vs).nextWord i) i wr d vs := by
  refine ⟨rfl, ?_, ?_, ?_⟩
  · intro k g hk hg
    simp [State.nextWord, State.modIss, State.modGroup, hk, hg]
  · simp [State.nextWord, State.modIss, State.modGroup]
  · intro k g hk hg
    refine ⟨(g.putFrom i.act wr d 0 vs).advance, ?_, group_written g i.act wr d vs⟩
    simp [State.nextWord, State.modIss, State.modGroup, hk, hg, putFrom_isAt]

/-- The writes of values to an operand from an element on. -/
def reqsFrom (d : BitVec 7) (wr : Mask) (j : Nat) : List (Nat → Word) → List WReq
  | [] => []
  | v :: vs => ⟨d, j, wr, v⟩ :: reqsFrom d wr (j + 1) vs

theorem modIss_modIss_put (s : State) (i : Iss) (wr : Mask) (d : BitVec 7) (j : Nat) (v : Nat → Word) (f : Group → Group) :
    (s.modIss i fun g => g.put i.act wr d j v).modIss i f = s.modIss i fun g => f (g.put i.act wr d j v) := by
  apply modGroup_modGroup
  intro g hg
  rw [put_frame]; exact hg

/-- Writes to registers that hold values need no merge (R137). -/
theorem merges_plain (i : Iss) (d : BitVec 7) (wr : Mask) (j : Nat) (vs : List (Nat → Word))
    (h : ∀ k, j ≤ k → k < j + vs.length → i.proxy d k = none) : i.merges (reqsFrom d wr j vs) = [] := by
  induction vs generalizing j with
  | nil => rfl
  | cons v vs ih =>
    have h0 : i.proxy d j = none := h j (Nat.le_refl _) (by simp only [List.length_cons]; omega)
    have h1 := ih (j + 1) fun k hk hl => h k (by omega) (by simp only [List.length_cons]; omega)
    unfold Iss.merges at h1 ⊢
    simp [reqsFrom, h0, h1]

theorem shortAll_nil (s : State) (i : Iss) : s.shortAll i [] = none := by simp [State.shortAll, dedup]

theorem putRegs_plain (s : State) (i : Iss) (out : Bool) (d : BitVec 7) (wr : Mask) (j : Nat) (vs : List (Nat → Word)) (hu : i.undef = 0)
    (h : ∀ k, j ≤ k → k < j + vs.length → i.proxy d k = none) :
    s.putRegs i out (reqsFrom d wr j vs) = s.modIss i fun g => g.putFrom i.act wr d j vs := by
  unfold State.putRegs Iss.blurAll
  rw [if_pos hu]
  induction vs generalizing s j with
  | nil =>
    simp [reqsFrom, Group.putFrom, State.modIss, State.modGroup]
  | cons v vs ih =>
    have h0 : i.proxy d j = none := h j (Nat.le_refl _) (by simp only [List.length_cons]; omega)
    simp only [reqsFrom, List.foldl_cons, h0]
    rw [ih _ (j + 1) fun k hk hl => h k (by omega) (by simp only [List.length_cons]; omega), modIss_modIss_put]
    rfl

/-- Registers that hold values take the values written (R76). -/
theorem writeRegs_plain (s : State) (i : Iss) (d : BitVec 7) (wr : Mask) (vs : List (Nat → Word)) (hu : i.undef = 0)
    (h : ∀ k < vs.length, i.proxy d k = none) :
    s.writeRegs i (reqsFrom d wr 0 vs) = .done (s.modIss i fun g => g.putFrom i.act wr d 0 vs) := by
  have h' : ∀ k, 0 ≤ k → k < 0 + vs.length → i.proxy d k = none := fun k _ hk => h k (by omega)
  unfold State.writeRegs
  rw [merges_plain i d wr 0 vs h', shortAll_nil]
  exact congrArg Act.done (putRegs_plain s i false d wr 0 vs hu h')

/-- The writes of n elements, listed. -/
theorem reqsFrom_range (d : BitVec 7) (wr : Mask) (n : Nat) (f : Nat → Nat → Word) :
    ((List.range n).map fun j => (⟨d, j, wr, f j⟩ : WReq)) = reqsFrom d wr 0 ((List.range n).map f) := by
  have : ∀ (n j : Nat), ((List.range' j n).map fun j => (⟨d, j, wr, f j⟩ : WReq)) = reqsFrom d wr j ((List.range' j n).map f) := by
    intro n
    induction n with
    | zero => intro j; rfl
    | succ n ih => intro j; simp [List.range'_succ, reqsFrom, ih]
  rw [List.range_eq_range']
  exact this n 0

theorem plain_writes {i : Iss} {u : Uses} (h : Plain i u) {d : BitVec 7} {n : Nat} (hm : (d, n) ∈ u.writes) :
    ∀ k < n, i.proxy d k = none := fun k hk => h (d, n) (by simp [hm]) k hk

/-- The result of an instruction that writes values to registers. -/
theorem gives_of_body {s : State} {i : Iss} {x : Instr} {u : Uses} {body : State → Iss → Act} {wr : Mask} {d : BitVec 7} {n : Nat}
    {vs : List (Nat → Word)} (hx : exec x s = issue s u noTarget body) (hu : (d, n) ∈ u.writes) (hn : vs.length = n)
    (hb : Plain i u → body (counted s i u) i = (counted s i u).writeRegs i (reqsFrom d wr 0 vs)) : Gives s i x u wr d vs := by
  intro hr hp
  refine ⟨((counted s i u).modIss i fun g => g.putFrom i.act wr d 0 vs).nextWord i, ?_, regs_written _ _ _ _ _⟩
  rw [hx, issue_ready' hr, hb hp, writeRegs_plain _ _ _ _ _ (ready_undef hr) (by rw [hn]; exact plain_writes hp hu), settle_done]

end Sys2Proof.Machine
end

