-- ==== Sys2Proof/Laws/Forms.lean ====
section
/-! SUPPORT. What the operand forms give on values: one lemma for each shape of instruction that writes registers. -/

namespace Sys2Proof.Machine

/-- The two registers of a pair, low word first (R25). -/
theorem writePair_reqs (s : State) (i : Iss) (d : BitVec 7) (wr : Mask) (v : Nat → Addr) :
    s.writePair i d wr v = s.writeRegs i (reqsFrom d wr 0 [fun l => (v l).setWidth 32, fun l => ((v l) >>> 32).setWidth 32]) := rfl

theorem writeOne_reqs (s : State) (i : Iss) (d : BitVec 7) (v : Nat → Word) :
    s.writeOne i d v = s.writeRegs i (reqsFrom d i.wr 0 [v]) := rfl

/-- The same values, said otherwise. -/
theorem gives_congr {s : State} {i : Iss} {x : Instr} {u : Uses} {wr : Mask} {d : BitVec 7} {vs vs' : List (Nat → Word)}
    (h : Gives s i x u wr d vs) (e : vs = vs') : Gives s i x u wr d vs' := e ▸ h

/-- The same value in every lane, said otherwise. -/
theorem gives_congr1 {s : State} {i : Iss} {x : Instr} {u : Uses} {wr : Mask} {d : BitVec 7} {v v' : Nat → Word}
    (h : Gives s i x u wr d [v]) (e : ∀ l, v l = v' l) : Gives s i x u wr d [v'] := gives_congr h (by rw [funext e])

theorem lane1_gives {s : State} {i : Iss} {x : Instr} {d a : BitVec 7} {f : Word → Word} (hx : exec x s = lane1 s d a f) :
    Gives s i x { reads := [(a, 1)], writes := [(d, 1)] } i.wr d [fun l => f (i.rd a 0 l)] :=
  gives_of_body hx (by simp : (d, 1) ∈ [(d, 1)]) rfl fun _ => rfl

theorem lane2_gives {s : State} {i : Iss} {x : Instr} {d a : BitVec 7} {b : Src2} {f : Word → Word → Word}
    (hx : exec x s = lane2 s d a b f) :
    Gives s i x { reads := (a, 1) :: b.uses 1, writes := [(d, 1)], xi := b.xi } i.wr d
      [fun l => f (i.rd a 0 l) ((b.opd i).val i l)] :=
  gives_of_body hx (by simp : (d, 1) ∈ [(d, 1)]) rfl fun _ => rfl

theorem lane3_gives {s : State} {i : Iss} {x : Instr} {d a : BitVec 7} {b : Src2} {f : Word → Word → Word → Word}
    (hx : exec x s = lane3 s d a b f) :
    Gives s i x { reads := (a, 1) :: b.uses 1 ++ [(d, 1)], dsrc := true, writes := [(d, 1)], xi := b.xi } i.wr d
      [fun l => f (i.rd a 0 l) ((b.opd i).val i l) (i.rd d 0 l)] :=
  gives_of_body hx (by simp : (d, 1) ∈ [(d, 1)]) rfl fun _ => rfl

theorem pair2_gives {s : State} {i : Iss} {x : Instr} {d a : BitVec 7} {b : Src2} {f : Addr → Addr → Addr}
    (hx : exec x s = pair2 s d a b f) :
    Gives s i x { reads := (a, 2) :: b.uses 2, writes := [(d, 2)], xi := b.xi } i.wr d
      [fun l => (f (i.rd2 a l) (b.pair i l)).setWidth 32, fun l => ((f (i.rd2 a l) (b.pair i l)) >>> 32).setWidth 32] :=
  gives_of_body hx (by simp : (d, 2) ∈ [(d, 2)]) rfl fun _ => rfl

/-- An instruction that accepts proxies, given values in all its sources, works in the core (R133). -/
theorem alu_plain (s : State) (i : Iss) (d : BitVec 7) (outs : List Nat) (a b c : Opd) (pick : Nat → HomeFn)
    (ha : a.px i = none) (hb : b.px i = none) (hc : c.px i = none) :
    s.alu i d outs a b c pick =
      s.writeRegs i (outs.map fun j => ⟨d, j, i.wr, fun l => (pick j).eval l (a.val i l) (b.val i l) (c.val i l)⟩) := by
  simp [State.alu, ha, hb, hc]

theorem src2_px {i : Iss} {u : Uses} (h : Plain i u) (b : Src2) (n : Nat) (hn : 0 < n) (hb : ∀ f ∈ b.uses n, f ∈ u.reads) :
    (b.opd i).px i = none := by
  cases b with
  | reg f => exact h (f, n) (by simp [hb (f, n) (by simp [Src2.uses])]) 0 hn
  | int k => rfl
  | fp k => rfl

theorem alu2_gives {s : State} {i : Iss} {x : Instr} {d a : BitVec 7} {b : Src2} {fn : HomeFn} (hx : exec x s = alu2 s d a b fn) :
    Gives s i x { reads := (a, 1) :: b.uses 1, writes := [(d, 1)], px := true, toPx := true, xi := b.xi } i.wr d
      [fun l => fn.eval l (i.rd a 0 l) ((b.opd i).val i l) 0] := by
  refine gives_of_body hx (by simp : (d, 1) ∈ [(d, 1)]) rfl fun hp => ?_
  exact alu_plain _ _ _ _ _ _ _ _ (hp (a, 1) (by simp) 0 (by simp)) (src2_px hp b 1 (by simp) fun f hf => by simp [hf]) rfl

theorem alu3_gives {s : State} {i : Iss} {x : Instr} {d a : BitVec 7} {b : Src2} {fn : HomeFn} (hx : exec x s = alu3 s d a b fn) :
    Gives s i x { reads := (a, 1) :: b.uses 1 ++ [(d, 1)], dsrc := true, writes := [(d, 1)], px := true, toPx := true, xi := b.xi } i.wr d
      [fun l => fn.eval l (i.rd a 0 l) ((b.opd i).val i l) (i.rd d 0 l)] := by
  refine gives_of_body hx (by simp : (d, 1) ∈ [(d, 1)]) rfl fun hp => ?_
  exact alu_plain _ _ _ _ _ _ _ _ (hp (a, 1) (by simp) 0 (by simp)) (src2_px hp b 1 (by simp) fun f hf => by simp [hf])
    (hp (d, 1) (by simp) 0 (by simp))

/-- Lanes that exchange values: the lanes that have a source take its value (R100). -/
theorem exchange_gives {s : State} {i : Iss} {x : Instr} {d a : BitVec 7} {b : Option (BitVec 7)} {src : Iss → Nat → Option Nat}
    {low : Bool} (hx : exec x s = exchange s d a b src low) :
    Gives s i x { reads := (a, 1) :: b.toList.map fun f => (f, 1), from_ := exchangeFrom src low, writes := [(d, 1)] }
      (i.wr &&& maskOf i.g.grant fun l => (src i l).isSome) d [fun l => i.rd a 0 ((src i l).getD l)] :=
  gives_of_body hx (by simp : (d, 1) ∈ [(d, 1)]) rfl fun _ => rfl

theorem vote_gives {s : State} {i : Iss} {x : Instr} {d : BitVec 7} {p : BitVec 3} {v : Iss → Word} (hx : exec x s = vote s d p v) :
    Gives s i x { writes := [(d, 1)], preds := [p], psrc := [p] } i.act d [fun _ => v i] :=
  gives_of_body hx (by simp : (d, 1) ∈ [(d, 1)]) rfl fun _ => rfl

theorem reduce_gives {s : State} {i : Iss} {x : Instr} {scan : Bool} {e : Word} {f : Word → Word → Word} {d a : BitVec 7}
    (hx : exec x s = reduce s scan e f d a) :
    Gives s i x { reads := [(a, 1)], from_ := fromActive, writes := [(d, 1)] } i.act d
      [fun l => ((strides i.g.grant).foldl (fun t st => if scan then scanStep f i.g.grant st t else treeStep f i.g.grant st t)
        ((List.range i.g.grant).map fun l => if i.act.getLsbD l then i.rd a 0 l else e)).getD (if scan then l else 0) 0] :=
  gives_of_body hx (by simp : (d, 1) ∈ [(d, 1)]) rfl fun _ => rfl

/-- What writing predicate bits and moving on does to the state (R31). -/
theorem pred_written (s : State) (i : Iss) (wr : Mask) (p : BitVec 3) (v : Mask) :
    PredWritten s ((s.modIss i fun g => g.putPred wr p.toNat v).nextWord i) i wr p v := by
  refine ⟨rfl, ?_, ?_, ?_⟩
  · intro k g hk hg
    simp [State.nextWord, State.modIss, State.modGroup, hk, hg]
  · simp [State.nextWord, State.modIss, State.modGroup]
  · intro k g hk hg
    refine ⟨(g.putPred wr p.toNat v).advance, ?_, rfl, ?_, rfl⟩
    · have : (g.putPred wr p.toNat v).isAt i.g.core i.g.part i.g.slot = true := hg
      simp [State.nextWord, State.modIss, State.modGroup, hk, hg, this]
    · intro n
      have : (g.putPred wr p.toNat v).advance.preds = modAt g.preds p.toNat fun old => (old &&& ~~~wr) ||| (v &&& wr) := rfl
      rw [this, modAt_getElem?]
      by_cases h : n = p.toNat <;> simp [h]

/-- The result of an instruction that writes bits to a predicate. -/
theorem givesPred_of_body {s : State} {i : Iss} {x : Instr} {u : Uses} {body : State → Iss → Act} {wr : Mask} {p : BitVec 3} {v : Mask}
    (hx : exec x s = issue s u noTarget body)
    (hb : i.undef = 0 → Plain i u → body (counted s i u) i = .done ((counted s i u).modIss i fun g => g.putPred wr p.toNat v)) :
    GivesPred s i x u wr p v := by
  intro hr hp
  refine ⟨((counted s i u).modIss i fun g => g.putPred wr p.toNat v).nextWord i, ?_, pred_written _ _ _ _ _⟩
  rw [hx, issue_ready' hr, hb (ready_undef hr) hp, settle_done]

/-- A compare of values (R89). -/
theorem compare_gives {s : State} {i : Iss} {x : Instr} {kind : Nat} {c p : BitVec 3} {a : BitVec 7} {b : Src2}
    (hx : exec x s = compareOp s kind c p a b) :
    GivesPred s i x { reads := (a, 1) :: b.uses 1, preds := [p], px := true, xi := b.xi } i.wr p
      (maskOf i.g.grant fun l => condOf kind c.toNat (i.rd a 0 l) ((b.opd i).val i l)) := by
  refine givesPred_of_body hx fun hu hp => ?_
  have ha : (Opd.reg a).px i = none := hp (a, 1) (by simp) 0 (by simp)
  have hb := src2_px hp b 1 (by simp) fun f hf => by simp [hf]
  simp [State.compare, ha, hb, hu, Opd.val, Iss.bits]

end Sys2Proof.Machine
end

