-- ==== Sys2Proof/Machine/HorekText.lean ====
section
/-! DEFINITION. The horek assembler: lexical elements, expressions and operands (R49, R349). -/

namespace Sys2Proof.Machine.Horek

/-- Text as its characters. -/
abbrev Text := List Char

/-- A lexical element (R349); a floating-point literal is its FP32 word. -/
inductive Tok where
  | id (s : String)
  | int (n : Nat)
  | flt (w : Nat)
  | str (s : Text)
  | sym (s : String)
  deriving DecidableEq, Repr

/-- Whether a character begins a name (R349). -/
def nameStart (c : Char) : Bool := c.isAlpha || c == '_' || c == '.'

/-- Whether a character goes on with a name (R349). -/
def nameChar (c : Char) : Bool := nameStart c || c.isDigit || c == '$'

/-- The value of a digit in a base. -/
def digitOf (base : Nat) (c : Char) : Option Nat :=
  let n := if c.isDigit then c.toNat - 48 else if 'a' ≤ c ∧ c ≤ 'z' then c.toNat - 87 else if 'A' ≤ c ∧ c ≤ 'Z' then c.toNat - 55 else base
  if n < base then some n else none

/-- Digits, with underscores between them (R349): their value, how many, and the rest. -/
def digits (base : Nat) : Text → Nat → Nat → Nat × Nat × Text
  | [], v, n => (v, n, [])
  | c :: cs, v, n =>
    match digitOf base c with
    | some d => digits base cs (v * base + d) (n + 1)
    | none => if c == '_' && n != 0 && cs.head?.any (fun d => (digitOf base d).isSome) then digits base cs v n else (v, n, c :: cs)

/-- m × 10^e as an FP32 word, by RN (R349). -/
def decimal (m : Nat) (e : Int) : Nat :=
  if m = 0 then 0
  else if 0 ≤ e then Fmt.f32.round 0 false false (m * 10 ^ min e.toNat 100) 0
  else
    let j := (-e).toNat
    if (toString m).length + 100 < j then 0
    else
      let k := 4 * j + 64
      let q := m * 2 ^ k / 10 ^ j
      Fmt.f32.round 0 false false (2 * q + (if m * 2 ^ k % 10 ^ j = 0 then 0 else 1)) (-(k + 1 : Int))

/-- The exponent of a floating-point literal, and the rest. -/
def exponent : Text → Option (Int × Text)
  | c :: r =>
    if c == 'e' || c == 'E' then
      let (neg, r) := match r with | '-' :: t => (true, t) | '+' :: t => (false, t) | t => (false, t)
      let (v, n, r) := digits 10 r 0 0
      if n = 0 then none else some (if neg then -(v : Int) else v, r)
    else none
  | [] => none

/-- A number that begins with a digit (R349). -/
def number (t : Text) : Option (Tok × Text) :=
  let based := fun (b : Nat) (t : Text) => let (v, n, r) := digits b t 0 0; if n = 0 then none else some (Tok.int v, r)
  let got := match t with
    | '0' :: 'x' :: r => based 16 r
    | '0' :: 'b' :: r => based 2 r
    | _ =>
      let (v, _, r) := digits 10 t 0 0
      let (m, k, dot, r) := match r with
        | '.' :: r' => if r'.head? = some '.' then (v, 0, false, r) else let (m, k, r'') := digits 10 r' v 0; (m, k, true, r'')
        | _ => (v, 0, false, r)
      match exponent r with
      | some (e, r) => some (Tok.flt (decimal m (e - k)), r)
      | none => some (if dot then Tok.flt (decimal m (-k)) else Tok.int v, r)
  got.bind fun x => if x.2.head?.any nameChar then none else some x

/-- The characters that stand alone. -/
def symbols : List Char := ['(', ')', '+', '-', '*', '/', '%', '&', '^', '|', '~', '[', ']', ',', '=', '!', '?', ':']

/-- The lexical elements of a line, its comment left out (R49, R349); none for a character that begins none. -/
def lex : Nat → Text → Option (List Tok)
  | 0, _ => none
  | _ + 1, [] => some []
  | n + 1, c :: cs =>
    if c == ' ' || c == '\t' || c == '\r' then lex n cs
    else if c == ';' || (c == '/' && cs.head? == some '/') then some []
    else if c.isDigit then (number (c :: cs)).bind fun x => (lex n x.2).map (x.1 :: ·)
    else if nameStart c then
      let s := (c :: cs).takeWhile nameChar
      (lex n ((c :: cs).drop s.length)).map (.id (String.ofList s) :: ·)
    else if c == '"' then
      let s := cs.takeWhile (· != '"')
      if s.length < cs.length then (lex n (cs.drop (s.length + 1))).map (.str s :: ·) else none
    else if (c == '<' || c == '>') && cs.head? == some c then (lex n cs.tail).map (.sym (String.ofList [c, c]) :: ·)
    else if symbols.contains c then (lex n cs).map (.sym (String.ofList [c]) :: ·)
    else none

/-- The lexical elements of a whole line. -/
def lexLine (t : Text) : Option (List Tok) := lex (t.length + 1) t

/-- An expression (R349). -/
inductive Exp where
  | num (v : Int)
  | flt (w : Nat)
  | sym (s : String)
  | neg (e : Exp)
  | not (e : Exp)
  | bin (op : String) (l r : Exp)
  deriving DecidableEq, Repr

/-- How closely an operator binds (R349). -/
def opLevel (s : String) : Nat :=
  if s = "*" ∨ s = "/" ∨ s = "%" then 4 else if s = "+" ∨ s = "-" then 3 else if s = "<<" ∨ s = ">>" then 2
  else if s = "&" ∨ s = "^" ∨ s = "|" then 1 else 0

/-- An expression read at a level of binding, 5 for a primary; `left` is what has been read of a chain of that level. -/
def parse : Nat → Nat → Option Exp → List Tok → Option (Exp × List Tok)
  | 0, _, _, _ => none
  | n + 1, lvl, some e, ts =>
    match ts with
    | .sym op :: r =>
      if opLevel op = lvl ∧ lvl ≠ 0 then (parse n (lvl + 1) none r).bind fun x => parse n lvl (some (.bin op e x.1)) x.2 else some (e, ts)
    | _ => some (e, ts)
  | n + 1, lvl, none, ts =>
    if lvl < 5 then (parse n (lvl + 1) none ts).bind fun x => parse n lvl (some x.1) x.2
    else
      match ts with
      | .int v :: r => some (.num v, r)
      | .flt w :: r => some (.flt w, r)
      | .id s :: r => some (.sym s, r)
      | .sym "-" :: r => (parse n 5 none r).map fun x => (.neg x.1, x.2)
      | .sym "~" :: r => (parse n 5 none r).map fun x => (.not x.1, x.2)
      | .sym "(" :: r => (parse n 1 none r).bind fun x => match x.2 with | .sym ")" :: r => some (x.1, r) | _ => none
      | _ => none

/-- The elements of a list read whole as an expression. -/
def parseExp (ts : List Tok) : Option Exp :=
  (parse (12 * ts.length + 12) 1 none ts).bind fun x => if x.2.isEmpty then some x.1 else none

/-- The symbols that an expression names. -/
def Exp.names : Exp → List String
  | .num _ => []
  | .flt _ => []
  | .sym s => [s]
  | .neg e => e.names
  | .not e => e.names
  | .bin _ l r => l.names ++ r.names

/-- What a symbol stands for (R349, R350): a constant, a code offset, an offset in the data section. -/
inductive Def where
  | equ (e : Exp)
  | code (off : Nat)
  | data (off : Nat)
  deriving DecidableEq, Repr

/-- The symbols of a source, those defined first in front. -/
abbrev Env := List (String × Def)

/-- What a symbol stands for in a source. -/
def Env.get (env : Env) (s : String) : Option Def := (env.find? fun x => x.1 == s).map Prod.snd

/-- The value of an expression: a number of 64 bits, and whether it counts from the start of the data section. -/
structure Val where
  n : Int
  data : Bool
  deriving DecidableEq, Repr

/-- A number in 64-bit two's complement (R349). -/
def wrap64 (i : Int) : Int := (BitVec.ofInt 64 i).toInt

/-- An operator of two numbers (R349); E07 for a division by zero and for a count that is no count. -/
def binVal (op : String) (a b : Int) : Except Nat Int :=
  match op with
  | "*" => .ok (a * b)
  | "/" => if b = 0 then .error 7 else .ok (a.tdiv b)
  | "%" => if b = 0 then .error 7 else .ok (a.tmod b)
  | "+" => .ok (a + b)
  | "-" => .ok (a - b)
  | "<<" => if b < 0 then .error 7 else .ok (if 64 ≤ b then 0 else a * 2 ^ b.toNat)
  | ">>" => if b < 0 then .error 7 else .ok (a.shiftRight (min b.toNat 64))
  | "&" => .ok (BitVec.ofInt 64 a &&& BitVec.ofInt 64 b).toInt
  | "^" => .ok (BitVec.ofInt 64 a ^^^ BitVec.ofInt 64 b).toInt
  | _ => .ok (BitVec.ofInt 64 a ||| BitVec.ofInt 64 b).toInt

/-- The value of an expression (R349), or the error that it is: E11 for a symbol that is not defined, E03 for a data label in a place
where its address would be needed and for a floating-point literal. -/
def eval (env : Env) : Nat → Exp → Except Nat Val
  | 0, _ => .error 11
  | n + 1, e =>
    match e with
    | .num v => .ok ⟨wrap64 v, false⟩
    | .flt _ => .error 3
    | .sym s =>
      match env.get s with
      | none => .error 11
      | some (.equ e) => eval env n e
      | some (.code o) => .ok ⟨o, false⟩
      | some (.data o) => .ok ⟨o, true⟩
    | .neg e => do
      let v ← eval env n e
      if v.data then .error 3 else .ok ⟨wrap64 (-v.n), false⟩
    | .not e => do
      let v ← eval env n e
      if v.data then .error 3 else .ok ⟨wrap64 (-v.n - 1), false⟩
    | .bin op l r => do
      let a ← eval env n l
      let b ← eval env n r
      let v ← binVal op a.n b.n
      match op, a.data, b.data with
      | _, false, false => .ok ⟨wrap64 v, false⟩
      | "+", true, false => .ok ⟨wrap64 v, true⟩
      | "+", false, true => .ok ⟨wrap64 v, true⟩
      | "-", true, false => .ok ⟨wrap64 v, true⟩
      | "-", true, true => .ok ⟨wrap64 v, false⟩
      | _, _, _ => .error 3

/-- How deep constants and operators may stand within one another. -/
def evalDepth : Nat := 1000

/-- The number that an expression is, in a place where no data label may stand (R349). -/
def evalNum (env : Env) (e : Exp) : Except Nat Int :=
  (eval env evalDepth e).bind fun v => if v.data then .error 3 else .ok v.n

/-- The FP32 word of an expression in the place of an FP32 immediate (R33, R356): a literal, or the number that it is. -/
def evalFp (env : Env) : Exp → Except Nat Nat
  | .flt w => .ok w
  | .neg (.flt w) => .ok (w ^^^ 0x80000000)
  | e => (evalNum env e).map fun v => Fmt.f32.round 0 false (decide (v < 0)) v.natAbs 0

/-- Text in lower case: mnemonics, suffixes and register names do not tell cases apart (R349). -/
def lower (s : String) : String := String.ofList (s.toList.map Char.toLower)

/-- A decimal number with nothing else. -/
def plainNat (t : Text) : Option Nat :=
  if t.isEmpty || !t.all Char.isDigit then none else some (digits 10 t 0 0).1

/-- What a register operand names (R28, R49): a vector register by its absolute number, an s register, a temporary, or another field. -/
inductive Reg where
  | v (n : Nat)
  | s (n : Nat)
  | x (n : Nat)
  | field (n : Nat)
  deriving DecidableEq, Repr

/-- A register by its name (R49). -/
def regOf (s : String) : Option Reg :=
  match s.toList.map Char.toLower with
  | 'v' :: t => (plainNat t).bind fun n => if n < 256 then some (.v n) else none
  | 's' :: t => (plainNat t).bind fun n => if n < 16 then some (.s n) else none
  | 'x' :: t => (plainNat t).bind fun n => if n < 8 then some (.x n) else none
  | ['z', 'e', 'r', 'o'] => some (.field 120)
  | _ => none

/-- A register whose name begins with a percent sign (R49). -/
def percentOf (s : String) : Option Reg :=
  match lower s with
  | "lane" => some (.field 121)
  | "grant" => some (.field 122)
  | "quad" => some (.field 123)
  | "group" => some (.field 124)
  | "block" => some (.field 125)
  | _ => none

/-- A predicate by its name (R31, R49). -/
def predOf (s : String) : Option Nat :=
  match s.toList.map Char.toLower with
  | 'p' :: t => (plainNat t).bind fun n => if n < 8 then some n else none
  | _ => none

/-- The two parts of a name around its first two dots that stand together. -/
def splitRange : Text → Option (Text × Text)
  | '.' :: '.' :: t => some ([], t)
  | c :: t => (splitRange t).map fun x => (c :: x.1, x.2)
  | [] => none

/-- A range of registers (R49, R352). -/
def rangeOf (s : String) : Option (Reg × Reg) := do
  let x ← splitRange s.toList
  let a ← regOf (String.ofList x.1)
  let b ← regOf (String.ofList x.2)
  some (a, b)

/-- An operand (R49): a register with the end of its range, a predicate, an address, a name given to a value, or an expression. -/
inductive Opnd where
  | reg (r : Reg) (last : Option Reg)
  | pred (neg : Bool) (n : Nat)
  | mem (r : Reg) (last : Option Reg) (off : Option Exp)
  | hint (name : String) (ts : List Tok)
  | exp (e : Exp)
  deriving DecidableEq, Repr

/-- A register or a range at the head of some elements, and the rest. -/
def headReg : List Tok → Option (Reg × Option Reg × List Tok)
  | .sym "%" :: .id s :: r => (percentOf s).map fun x => (x, none, r)
  | .id s :: r =>
    match regOf s, rangeOf s with
    | some x, _ => some (x, none, r)
    | none, some (a, b) => some (a, some b, r)
    | none, none => none
  | _ => none

/-- The operand that some elements are. -/
def operandOf (ts : List Tok) : Option Opnd :=
  match ts with
  | .sym "!" :: .id s :: [] => (predOf s).map (.pred true)
  | .sym "[" :: r =>
    (headReg (r.take (r.length - 1))).bind fun x =>
      if r.getLast? != some (.sym "]") then none
      else
        match x.2.2 with
        | [] => some (.mem x.1 x.2.1 none)
        | .sym "+" :: t => (parseExp t).map fun e => .mem x.1 x.2.1 (some e)
        | .sym "-" :: t => (parseExp (.sym "-" :: t)).map fun e => .mem x.1 x.2.1 (some e)
        | _ => none
  | .id s :: .sym "=" :: t => some (.hint (lower s) t)
  | _ =>
    match headReg ts, ts with
    | some (r, l, []), _ => some (.reg r l)
    | _, [.id s] => (match predOf s with | some n => some (.pred false n) | none => some (.exp (.sym s)))
    | _, _ => (parseExp ts).map .exp

/-- Elements cut at the commas that stand in no brackets. -/
def commas : List Tok → Nat → List Tok → List (List Tok)
  | [], _, cur => [cur.reverse]
  | t :: ts, depth, cur =>
    match t with
    | .sym "," => if depth = 0 then cur.reverse :: commas ts 0 [] else commas ts depth (t :: cur)
    | .sym "(" => commas ts (depth + 1) (t :: cur)
    | .sym "[" => commas ts (depth + 1) (t :: cur)
    | .sym ")" => commas ts (depth - 1) (t :: cur)
    | .sym "]" => commas ts (depth - 1) (t :: cur)
    | _ => commas ts depth (t :: cur)

/-- The operand texts of a line. -/
def splitOperands (ts : List Tok) : List (List Tok) := if ts.isEmpty then [] else commas ts 0 []

end Sys2Proof.Machine.Horek
end

