-- ==== Sys2Proof/Machine/HorekForms.lean ====
section
/-! DEFINITION. The horek assembler: the assembly forms of the instructions (R24 to R28, R44, R45, R47, R49, R78). -/

namespace Sys2Proof.Machine.Horek

/-- The immediates of R356: an integer, an FP32 number, a number without XI up to a bound, MOVI's. -/
inductive ImmKind where
  | int
  | fp
  | lane (hi : Int)
  deriving DecidableEq, Repr

/-- What an operand of an assembly form may be and where it goes in the word; `sh` is the lowest bit of its field. A register operand
is read or written or both, and is one of 2^k registers, or of as many as the width suffix says where k is 9. -/
inductive Arg where
  | reg (sh : Nat) (rd wr : Bool) (k : Nat)
  | pred (sh : Nat) (wr : Bool)
  | npred
  | regImm (kind : ImmKind) (k : Nat)
  | movi
  | mem (k : Nat)
  | addr (sh k : Nat)
  | num (sh : Nat) (lo hi : Int)
  | jump (bits : Nat)
  | special
  | width
  | zero
  | table
  deriving DecidableEq, Repr

/-- How an instruction takes proxies (R78, R129): not at all, as operands of what its home does, or by making one of an address. -/
inductive PxUse where
  | no
  | accepts
  | reads
  | makes
  deriving DecidableEq, Repr

/-- An assembly form of an instruction: its major opcode, that of its immediate form, its function, the widths that a suffix may give,
a fixed width field, whether it rounds, whether it is of format L, its operands, other bits of the word, the bytes of a memory element,
whether it accepts GUARD, whether it is legal in P6 code, and how it takes proxies. -/
structure Form where
  major : Nat
  imm : Option Nat := none
  f : Nat := 0
  widths : List Nat := [0]
  w : Option Nat := none
  round : Bool := false
  long : Bool := false
  args : List Arg
  base : Nat := 0
  bytes : Nat := 4
  guard : Bool := true
  p6 : Bool := true
  px : PxUse := .no
  deriving DecidableEq, Repr

/-- A destination, a source, and a destination that is also read, in a field. -/
def dst (k : Nat := 0) : Arg := .reg 14 false true k
/-- A source in field d. -/
def srcD (k : Nat := 0) : Arg := .reg 14 true false k
/-- A destination that is read too. -/
def both : Arg := .reg 14 true true 0
/-- A source in field a. -/
def srcA (k : Nat := 0) : Arg := .reg 7 true false k
/-- A source in field b. -/
def srcB (k : Nat := 0) : Arg := .reg 0 true false k
/-- How many registers the width suffix says. -/
def wide : Nat := 9

/-- d, a and a register or an integer. -/
def intForm (major imm f : Nat) (px : PxUse := .accepts) (widths : List Nat := [0]) (d : Arg := dst) : Form :=
  let k := if widths = [0] then 0 else wide
  { major := major, imm := some imm, f := f, widths := widths, px := px,
    args := [if widths = [0] then d else dst wide, srcA k, .regImm .int k] }

/-- d, a and b, all registers. -/
def regForm (major f : Nat) (d : Arg := dst) : Form := { major := major, f := f, args := [d, srcA, srcB] }

/-- d and a. -/
def oneForm (major f : Nat) : Form := { major := major, f := f, args := [dst, srcA] }

/-- An FP32 form with a register or an FP32 immediate. -/
def fpForm (f : Nat) (round : Bool) (d : Arg := dst) : Form :=
  { major := 0x10, imm := some 0x11, f := f, round := round, px := .accepts, args := [d, srcA, .regImm .fp 0] }

/-- A lane exchange with a register or a number. -/
def laneForm (f : Nat) (hi : Int) : Form := { major := 0x1C, imm := some 0x1D, f := f, args := [dst, srcA, .regImm (.lane hi) 0] }

/-- The integer, logic and bit-field instructions (R80 to R88). -/
def intForms : List (String × List Form) :=
  [("iadd", [intForm 0x00 0x01 0 .accepts [0, 1]]), ("isub", [intForm 0x00 0x01 1 .accepts [0, 1]]), ("imul", [intForm 0x00 0x01 2]),
   ("imulh.s32", [intForm 0x00 0x01 3 .no]), ("imin.s32", [intForm 0x00 0x01 4]), ("imax.s32", [intForm 0x00 0x01 5]),
   ("imad", [intForm 0x00 0x01 6 .no [0] both]), ("idp4.s8", [regForm 0x00 7 both]), ("iabs", [oneForm 0x02 0]),
   ("imulh.ui32", [regForm 0x02 1]), ("imin.ui32", [{ regForm 0x02 2 with px := .accepts }]),
   ("imax.ui32", [{ regForm 0x02 3 with px := .accepts }]), ("idp4.ui8", [regForm 0x02 4 both]),
   ("lea", [{ major := 0x03, widths := [1], args := [dst 1, srcA 1, srcB, .num 21 0 7] }]),
   ("and", [intForm 0x04 0x05 0]), ("or", [intForm 0x04 0x05 1]), ("xor", [intForm 0x04 0x05 2]), ("andn", [intForm 0x04 0x05 3 .no]),
   ("shl", [intForm 0x04 0x05 4]), ("shr", [intForm 0x04 0x05 5]), ("sar", [intForm 0x04 0x05 6]),
   ("shf", [intForm 0x04 0x05 7 .no [0] both]), ("popc", [oneForm 0x06 0]), ("clz", [oneForm 0x06 1]), ("brev", [oneForm 0x06 2]),
   ("bfx.s32", [intForm 0x06 0x07 3 .no]), ("bfx.ui32", [intForm 0x06 0x07 4 .no]), ("bfi", [intForm 0x06 0x07 5 .no [0] both]),
   ("prmt", [intForm 0x06 0x07 6 .no [0] both])]

/-- Predicates, selects, moves and floating point (R89 to R99). -/
def floatForms : List (String × List Form) :=
  [("plop", [{ major := 0x0C, args := [.pred 14 true, .pred 7 false, .pred 0 false, .pred 21 false, .table] }]),
   ("pmov", [{ major := 0x0C, w := some 1, args := [.pred 14 true, srcA] }, { major := 0x0C, w := some 2, args := [dst, .pred 7 false] }]),
   ("sel", [{ major := 0x0D, px := .accepts, args := [dst, srcA, srcB, .pred 21 false] }]),
   ("mov", [{ major := 0x0E, widths := [0, 1, 2, 3], px := .accepts, args := [dst wide, srcA wide] }]),
   ("movi", [{ major := 0x0F, long := true, args := [dst, .movi] }, { major := 0x0F, f := 1, long := true, widths := [1], args := [dst 1, .movi] }]),
   ("fadd", [fpForm 0 true]), ("fsub", [fpForm 1 true]), ("fmul", [fpForm 2 true]), ("ffma", [fpForm 3 true both]), ("fmin", [fpForm 4 false]),
   ("fmax", [fpForm 5 false]), ("fclass", [oneForm 0x10 6]),
   ("hadd2.f16x2", [{ regForm 0x14 0 with round := true }]), ("hmul2.f16x2", [{ regForm 0x14 1 with round := true }]),
   ("hfma2.f16x2", [{ regForm 0x14 2 both with round := true }]), ("hmax2.f16x2", [regForm 0x14 3]),
   ("hadd2.bf16x2", [{ regForm 0x14 4 with round := true }]), ("hmul2.bf16x2", [{ regForm 0x14 5 with round := true }]),
   ("hfma2.bf16x2", [{ regForm 0x14 6 both with round := true }]), ("hmax2.bf16x2", [regForm 0x14 7]),
   ("rcp", [{ oneForm 0x18 0 with round := true }]), ("rsq", [oneForm 0x18 1]), ("sqrt", [{ oneForm 0x18 2 with round := true }]),
   ("ex2", [oneForm 0x18 3]), ("lg2", [oneForm 0x18 4]), ("sin", [oneForm 0x18 5]), ("cos", [oneForm 0x18 6]), ("tanh", [oneForm 0x18 7]),
   ("rng", [regForm 0x1B 0])]

/-- Lane exchanges, votes, reductions and transposes (R100 to R104). -/
def laneForms : List (String × List Form) :=
  let red := fun (f : Nat) (r : Bool) => [{ oneForm 0x1F f with round := r }]
  let trn := fun (f k : Nat) => [{ major := 0x1E, f := f, w := some k, args := [dst k, srcA k] : Form }]
  [("shfl", [laneForm 0 127]), ("shflx", [laneForm 1 127]), ("shflup", [laneForm 2 127]), ("shfldn", [laneForm 3 127]),
   ("qswz", [laneForm 4 23]), ("qbc", [laneForm 5 3]), ("lbc", [laneForm 6 127]),
   ("vote.all", [{ major := 0x1E, f := 0, args := [dst, .pred 7 false] }]), ("vote.any", [{ major := 0x1E, f := 1, args := [dst, .pred 7 false] }]),
   ("vote.ballot", [{ major := 0x1E, f := 2, w := some 1, args := [dst 1, .pred 7 false] }]),
   ("match", [{ major := 0x1E, f := 3, w := some 1, args := [dst 1, srcA] }]),
   ("trn8.b8", trn 4 1), ("trn8.b16", trn 5 2), ("trn8.b32", trn 6 3),
   ("lred.add.i32", red 0 false), ("lred.add.f32", red 1 true), ("lred.min.f32", red 2 false), ("lred.max.f32", red 3 false),
   ("lscan.add.i32", red 4 false), ("lscan.add.f32", red 5 true), ("lred.min.i32", red 6 false), ("lred.max.i32", red 7 false)]

/-- A load and a store of an element with a 64-bit base. -/
def loadForm (major f bytes : Nat) (widths : List Nat) : Form :=
  { major := major, f := f, widths := widths, bytes := bytes, args := [dst wide, .mem 1] }
/-- A store. -/
def storeForm (major f bytes : Nat) (widths : List Nat) : Form :=
  { major := major, f := f, widths := widths, bytes := bytes, args := [.mem 1, srcD wide] }
/-- A scratchpad access: its base is one register. -/
def scratch (x : Form) : Form := { x with args := x.args.map fun a => match a with | .mem _ => .mem 0 | a => a }

/-- Proxies, loads and stores (R148 to R151, R186 to R190). -/
def memForms : List (String × List Form) :=
  let all := [0, 1, 2, 3]
  [("ldp", [{ major := 0x20, p6 := false, px := .makes, args := [dst, .pred 21 true, .mem 1] }]),
   ("stp", [{ major := 0x21, p6 := false, px := .reads, args := [.mem 1, srcD] }]),
   ("mat", [{ oneForm 0x22 0 with p6 := false, px := .reads }]),
   ("pdrop", [{ major := 0x22, f := 1, p6 := false, px := .reads, args := [.reg 7 true true 0] }]),
   ("pqry", [{ major := 0x22, f := 3, p6 := false, px := .reads, args := [.pred 14 true, srcA] }, { oneForm 0x22 2 with p6 := false, px := .reads }]),
   ("pmigr", [{ regForm 0x22 4 with p6 := false, px := .makes }]),
   ("ld.ui8", [loadForm 0x24 0 1 [0]]), ("ld.s8", [loadForm 0x24 1 1 [0]]), ("ld.ui16", [loadForm 0x24 2 2 [0]]), ("ld.s16", [loadForm 0x24 3 2 [0]]),
   ("ld.b32", [loadForm 0x24 4 4 all]), ("ld.b32.nt", [loadForm 0x24 5 4 all]),
   ("st.b8", [storeForm 0x25 0 1 [0]]), ("st.b16", [storeForm 0x25 2 2 [0]]), ("st.b32", [storeForm 0x25 4 4 all]),
   ("st.b32.nt", [storeForm 0x25 5 4 all]), ("st.b32.wc", [storeForm 0x25 6 4 all]),
   ("ldq", [{ major := 0x26, widths := all, args := [dst wide, .pred 21 true, .mem 1] }]),
   ("lds.b32", [scratch (loadForm 0x27 0 4 all)]), ("sts.b32", [scratch (storeForm 0x27 1 4 all)]), ("lds.ui16", [scratch (loadForm 0x27 2 2 [0])]),
   ("lds.s16", [scratch (loadForm 0x27 3 2 [0])]), ("sts.b16", [scratch (storeForm 0x27 4 2 [0])]), ("lds.ui8", [scratch (loadForm 0x27 5 1 [0])]),
   ("lds.s8", [scratch (loadForm 0x27 6 1 [0])]), ("sts.b8", [scratch (storeForm 0x27 7 1 [0])])]

/-- Fences, copies, names, pages and rows (R195 to R210). -/
def moveForms : List (String × List Form) :=
  let cvta := fun (m : Nat) => [{ major := 0x2B, f := 3, w := some 1, base := m, args := [dst 1, srcA 1] : Form }]
  [("wcdrain", [{ major := 0x2B, f := 1, guard := false, args := [] }]),
   ("pref.l1", [{ major := 0x2B, f := 2, w := some 1, args := [.addr 7 1] }]), ("pref.l2", [{ major := 0x2B, f := 2, w := some 1, base := 1, args := [.addr 7 1] }]),
   ("cvta.off", cvta 0), ("cvta.space", cvta 1), ("cvta.scr", cvta 2), ("cvta.prv", cvta 3), ("cvta.glob", cvta 4),
   ("cpkick", [{ major := 0x2C, f := 0, args := [srcA, srcB] }]), ("boinit", [{ major := 0x2C, f := 1, args := [srcA, srcB] }]),
   ("boarr", [{ major := 0x2C, f := 2, args := [srcA, srcB] }]), ("bowait", [{ oneForm 0x2C 3 with guard := false }]),
   ("stn", [{ major := 0x2D, f := 0, widths := [0, 1, 2, 3], p6 := false, args := [dst 1, .pred 0 true, srcA wide] }]),
   ("nfence", [{ major := 0x2D, f := 1, guard := false, p6 := false, args := [] }]),
   ("relq", [{ major := 0x2D, f := 2, w := some 1, p6 := false, args := [srcA 1, srcB] }]),
   ("pgreq", [{ major := 0x2E, f := 0, w := some 1, args := [dst, srcA 1, srcB] }]),
   ("rzero", [{ major := 0x2E, f := 1, w := some 1, p6 := false, args := [dst, srcA 1, srcB] }]),
   ("rcopy", [{ major := 0x2E, f := 2, w := some 2, p6 := false, args := [dst, srcA 2, srcB] }])]

/-- The matrix unit (R113 to R125). -/
def matForms : List (String × List Form) :=
  let mx := fun (f : Nat) (w : Option Nat) (args : List Arg) => ({ major := 0x30, f := f, w := w, guard := false, args := args } : Form)
  let mm := fun (f : Nat) (args : List Arg) => ({ major := 0x31, f := f, w := some 2, guard := false, args := args } : Form)
  [("wload", [mx 0 (some 1) [dst, srcA 1]]), ("wload.t", [mx 1 (some 1) [dst, srcA 1]]), ("wswap", [mx 2 none []]), ("accz", [mx 3 none [srcA]]),
   ("accld", [{ major := 0x30, f := 4, widths := [0, 1, 2, 3], args := [dst wide, srcA] }, { major := 0x30, f := 4, base := 0x1E0000, args := [.zero, srcA, srcB] }]),
   ("accst", [{ major := 0x30, f := 5, widths := [0, 1, 2, 3], args := [srcD wide, srcA] }, { major := 0x30, f := 5, base := 0x1E0000, args := [.zero, srcA, srcB] }]),
   ("gang", [{ mx 6 none [srcA] with p6 := false }]), ("opfence", [mx 7 none []]),
   ("mma.c8", [mm 0 [dst, srcA 2]]), ("mma.bf16", [mm 1 [dst, srcA 2]]), ("mmao", [{ mm 2 [dst, srcA 2, srcB] with p6 := false }]),
   ("mwait", [{ major := 0x31, f := 3, guard := false, args := [srcA] }])]

/-- Branches, meetings, barriers and thread control (R248 to R260). -/
def controlForms : List (String × List Form) :=
  let j := fun (m : Nat) => [{ major := m, base := 0x3800000, guard := false, args := [.jump 22] }, { major := m, guard := false, args := [.npred, .jump 22] : Form }]
  let l := fun (m f : Nat) (args : List Arg) => ({ major := m, f := f, long := true, guard := false, args := args } : Form)
  let bar := fun (f : Nat) (hi : Int) => [{ l 0x39 f [.num 0 0 hi] with base := 0x1E0000 }, l 0x39 f [.num 0 0 hi, srcD]]
  [("bra", j 0x34), ("call", j 0x35), ("brt", [{ major := 0x36, f := 0, guard := false, args := [srcA, .num 0 1 127] }]),
   ("callt", [{ major := 0x36, f := 1, guard := false, args := [srcA, .num 0 1 127] }]), ("ret", [{ major := 0x36, f := 2, guard := false, args := [] }]),
   ("meet", [l 0x38 0 [.jump 14]]), ("meetw", [{ l 0x38 1 [.jump 14, srcD] with p6 := false }]), ("mpush", [l 0x38 2 []]), ("mpop", [l 0x38 3 []]),
   ("exit", [{ l 0x38 4 [] with guard := true }]), ("nap", [l 0x38 5 [.num 0 0 16383]]), ("yield", [l 0x38 6 []]),
   ("bar", bar 0 15), ("bara", bar 1 15), ("barw", [l 0x39 2 [.num 0 0 15]]), ("cbar", bar 3 7),
   ("width", [{ l 0x3A 0 [.width] with p6 := false }]), ("wlock", [{ l 0x3A 1 [] with p6 := false }]), ("wfree", [{ l 0x3A 2 [] with p6 := false }]),
   ("rclaim", [{ l 0x3A 3 [.num 0 0 255] with p6 := false }]), ("rgive", [{ l 0x3A 4 [.num 0 0 255] with p6 := false }]), ("win", [l 0x3A 5 [.num 0 0 7]])]

/-- Special registers, launches, traps and counters (R261 to R264, R312, R320, R332, R333). -/
def systemForms : List (String × List Form) :=
  let l := fun (m f base : Nat) (args : List Arg) => [({ major := m, f := f, long := true, base := base, guard := false, args := args } : Form)]
  [("srd", l 0x3C 0 0 [dst, .special]), ("swr", l 0x3C 1 0 [.special, srcD]), ("launch", l 0x3C 2 0 [.pred 0 true, srcD]),
   ("trap", l 0x3C 3 0 [.num 0 0 16383]), ("tret", l 0x3C 4 0 []), ("bkpt", l 0x3C 5 0 [.num 0 0 16383]),
   ("cntclm", l 0x3D 0 0 [.pred 0 true, .num 3 0 4, srcD]), ("cntclm.tile", l 0x3D 0 0x40 [.pred 0 true, .num 3 0 4, srcD]),
   ("cntrd", l 0x3D 1 0 [dst, .num 3 0 4, .num 0 0 7]), ("cntrd.tile", l 0x3D 1 0x40 [dst, .num 3 0 4, .num 0 0 7]),
   ("cntrd.hi", l 0x3D 1 0x80 [dst, .num 3 0 4, .num 0 0 7]), ("cntrd.tile.hi", l 0x3D 1 0xC0 [dst, .num 3 0 4, .num 0 0 7]),
   ("cntrel", l 0x3D 2 0 [.num 3 0 4]), ("cntrel.tile", l 0x3D 2 0x40 [.num 3 0 4]), ("trmark", l 0x3D 3 0 [srcD, .num 0 0 255])]

/-- The place of a name in a list. -/
def indexIn (l : List String) (s : String) : Option Nat := l.findIdx? (· == s)

/-- The scopes by their suffixes (R45). -/
def scopeNames : List String := ["grp", "blk", "clu", "dev", "sys"]

/-- The type codes of CVT by their suffixes (R45). -/
def typeNames : List String := ["f32", "f16", "bf16", "e4m3", "e5m2", "i32", "ui32", "s8", "ui8", "f16x2", "bf16x2", "e4m3x4", "e5m2x4", "q4"]

/-- The form of a CVT (R96, R97): the registers of its packed side. -/
def cvtForm (sat : Bool) (d s : Nat) : Form :=
  let k := fun (t : Nat) => if t = 9 ∨ t = 10 then 1 else if t = 11 ∨ t = 12 then 2 else 0
  { major := 0x19, f := s % 8, round := true, base := 8 * d + 4 * (s / 8) + (if sat then 2 else 0),
    px := if (s, d) ∈ [(0, 10), (10, 0), (0, 5), (5, 0)] then .accepts else .no,
    args := [dst (if s < 9 then 0 else k s), srcA (if d < 9 ∨ 13 ≤ d then 0 else k d)] }

/-- The forms whose suffixes choose a field: compares, conversions, scopes and atomics (R27, R45, R89, R96, R98, R190, R191, R195). -/
def suffixForms (base : String) (sfx : List String) : List Form :=
  let icond := indexIn ["eq", "ne", "lt", "le", "gt", "ge"]
  let cmp := fun (r i : Nat) (kind : ImmKind) (f : Nat) => [{ major := r, imm := some i, f := f, px := .accepts, args := [.pred 14 true, srcA, .regImm kind 0] : Form }]
  let one := fun (o : Option Form) => o.toList
  match base, sfx with
  | "icmp", [c] => (match icond c with | some f => cmp 0x08 0x09 .int f | none => [])
  | "icmp", ["s32", c] => (match icond c with | some f => cmp 0x08 0x09 .int f | none => [])
  | "icmp", ["ui32", c] => (match icond c with | some f => cmp 0x0A 0x0B .int f | none => [])
  | "fcmp", [c] => (match indexIn ["eq", "ne", "lt", "le", "gt", "ge", "num", "nan"] c with | some f => cmp 0x12 0x13 .fp f | none => [])
  | "cvt", ["sat", d, s] => one do return cvtForm true (← indexIn typeNames d) (← indexIn typeNames s)
  | "cvt", [d, s] => one do return cvtForm false (← indexIn typeNames d) (← indexIn typeNames s)
  | "cvtsr", ["sat", t] => one do return { regForm 0x1A (← indexIn ["bf16", "f16", "e4m3", "e5m2"] t) with base := 0x1000000 }
  | "cvtsr", [t] => one do return regForm 0x1A (← indexIn ["bf16", "f16", "e4m3", "e5m2"] t)
  | "lda", [c] => one do return loadForm 0x28 (← indexIn scopeNames c) 4 [0, 1]
  | "stl", [c] => one do return storeForm 0x29 (← indexIn scopeNames c) 4 [0, 1]
  | "lda", [c, "acq"] => one do return loadForm 0x28 (← indexIn scopeNames c) 4 [0, 1]
  | "stl", [c, "rel"] => one do return storeForm 0x29 (← indexIn scopeNames c) 4 [0, 1]
  | "fence", [c, k] => one do
    let x ← indexIn scopeNames c
    let y ← indexIn ["acq", "rel", "ar"] k
    return { major := 0x2B, guard := false, base := 0x80 * (x + 8 * (y + 1)), args := [] }
  | _, _ =>
    match indexIn ["atom", "atomn", "atoms"] base with
    | none => []
    | some kind => one do
      let (op, rest) ← match sfx with
        | "and" :: r => some (4, r)
        | "or" :: r => some (5, r)
        | "exch" :: r => some (6, r)
        | "cas" :: r => some (7, r)
        | o :: t :: r => (indexIn ["add.i32", "add.f32", "min.s32", "max.s32"] (o ++ "." ++ t)).map fun x => (x, r)
        | _ => none
      let (c, r) ← match rest with
        | [c] => (indexIn scopeNames c).map fun x => (x, 0)
        | [c, k] => (indexIn scopeNames c).bind fun x => (indexIn ["acq", "rel", "ar"] k).map fun y => (x, y + 1)
        | _ => none
      let n := if op = 7 then 1 else 0
      return { major := 0x2A, f := op, w := some n, base := 16 * c + 4 * r + kind,
               args := if kind = 1 then [.addr 7 1, .reg 14 true false n] else [.reg 14 true true n, .addr 7 1] }

/-- A mnemonic taken apart (R49): its forms, its width, and its rounding mode when one is written. -/
structure Mnem where
  forms : List Form
  w : Nat
  rm : Option Nat

/-- The forms of a mnemonic with its suffixes (R44, R49): the width and the rounding mode may be written at any place among them. -/
def mnemOf (s : String) : Option Mnem :=
  let parts := (lower s).splitToList (· == '.')
  let ws := parts.tail.filterMap (indexIn ["x1", "x2", "x4", "x8"])
  let rs := parts.tail.filterMap (indexIn ["rn", "rz", "ru", "rd"])
  let rest := parts.tail.filter fun p => !(["x2", "x4", "x8", "rn", "rz", "ru", "rd"].contains p)
  let base := parts.headD ""
  let key := ".".intercalate (base :: rest)
  let tables := [intForms, floatForms, laneForms, memForms, moveForms, matForms, controlForms, systemForms]
  let forms := match tables.findSome? fun t => (t.find? fun x => x.1 == key).map Prod.snd with | some f => f | none => suffixForms base rest
  let w := ws.headD 0
  let forms := forms.filter fun f => f.widths.contains w && (f.round || rs.isEmpty)
  if 2 ≤ ws.length ∨ 2 ≤ rs.length ∨ ws.contains 0 ∨ forms.isEmpty then none else some ⟨forms, w, rs.head?⟩

/-- The special registers by their names (R262). -/
def specialNames : List (String × Nat) :=
  [("corecap", 0x000), ("gslot", 0x001), ("blkx", 0x002), ("blky", 0x003), ("blkz", 0x004), ("gridx", 0x005), ("gridy", 0x006), ("gridz", 0x007),
   ("clupos", 0x008), ("cluidx", 0x009), ("thridx", 0x00A), ("bthridx", 0x00B), ("ctxid", 0x00C), ("meet", 0x100), ("mdepth", 0x101),
   ("winbase", 0x102), ("gang", 0x103), ("gstat", 0x104), ("pxquota", 0x200), ("pxpol", 0x201), ("spare", 0x202), ("roleinfo", 0x203),
   ("cyclo", 0x204), ("cychi", 0x205), ("trapfp", 0x210), ("cmdseqlo", 0x300), ("cmdseqhi", 0x301), ("taskq", 0x302)]

/-- Whether an operand is of the kind that an assembly form asks for at its place. -/
def Arg.fits (a : Arg) (imm : Bool) (o : Opnd) : Bool :=
  match a, o with
  | .reg _ _ _ _, .reg _ _ => true
  | .pred _ _, .pred neg _ => !neg
  | .npred, .pred _ _ => true
  | .regImm _ _, .reg _ _ => true
  | .regImm _ _, .exp _ => imm
  | .movi, .exp _ => true
  | .mem _, .mem _ _ _ => true
  | .addr _ _, .mem _ _ off => off.isNone
  | .num _ _ _, .exp _ => true
  | .jump _, .exp _ => true
  | .special, .exp _ => true
  | .width, .exp _ => true
  | .zero, .reg (.field 120) none => true
  | .table, .exp _ => true
  | _, _ => false

/-- The form whose operands these are. -/
def Mnem.pick (m : Mnem) (os : List Opnd) : Option Form :=
  m.forms.find? fun f => f.args.length == os.length && (f.args.zip os).all fun x => x.1.fits f.imm.isSome x.2

end Sys2Proof.Machine.Horek
end

