-- ==== Sys2Proof/Machine/HorekSource.lean ====
section
/-! DEFINITION. The horek assembler: source text, macros, conditional assembly, includes and constants (R349, R350). -/

namespace Sys2Proof.Machine.Horek

/-- A line of text: its file, its number there, and its place among the lines in the order in which they are read. -/
structure Line where
  file : String
  no : Nat
  text : Text
  key : Nat := 0
  deriving DecidableEq, Repr

/-- A diagnostic (R348, R358): error E or warning W of a number, at a line. -/
structure Diag where
  line : Line
  warn : Bool
  code : Nat
  deriving DecidableEq, Repr

/-- An error at a line. -/
def err (l : Line) (code : Nat) : Diag := ⟨l, false, code⟩

/-- A warning at a line. -/
def warning (l : Line) (code : Nat) : Diag := ⟨l, true, code⟩

/-- The blanks at the head of some text left out. -/
def skip (t : Text) : Text := t.dropWhile fun c => c == ' ' || c == '\t'

/-- A name at the head of some text, or an empty one, and the rest. -/
def word (t : Text) : String × Text :=
  let t := skip t
  if t.head?.any nameStart then (String.ofList (t.takeWhile nameChar), t.dropWhile nameChar) else ("", t)

/-- The label at the head of a line, and the rest (R49). -/
def labelOf (t : Text) : Option String × Text :=
  let (w, r) := word t
  match skip r with
  | ':' :: r' => if w = "" then (none, t) else (some w, r')
  | _ => (none, t)

/-- Text up to its comment (R49). -/
def bare : Bool → Text → Text
  | _, [] => []
  | q, c :: cs =>
    if c == '"' then c :: bare (!q) cs
    else if !q && (c == ';' || (c == '/' && cs.head? == some '/')) then [] else c :: bare q cs

/-- Blanks at both ends left out. -/
def trim (t : Text) : Text := (skip ((skip t.reverse).reverse))

/-- Text cut at the commas that stand in no brackets and no quotes; `q` says that a quote is open. -/
def cut : Bool → Nat → Text → Text → List Text
  | _, _, cur, [] => [trim cur.reverse]
  | q, n, cur, c :: cs =>
    if q then cut (c != '"') n (c :: cur) cs
    else if c == '"' then cut true n (c :: cur) cs
    else if c == ',' && n == 0 then trim cur.reverse :: cut false 0 [] cs
    else cut false (if c == '(' || c == '[' then n + 1 else if c == ')' || c == ']' then n - 1 else n) (c :: cur) cs

/-- The argument texts of a line. -/
def arguments (t : Text) : List Text := let t := trim (bare false t); if t.isEmpty then [] else cut false 0 [] t

/-- A macro (R350). -/
structure Macro where
  name : String
  params : List String
  body : List Line
  deriving DecidableEq, Repr

/-- A line of a macro's body with its parameters replaced by their arguments (R350). -/
def expand (args : List (String × Text)) : Nat → Text → Text
  | 0, t => t
  | _ + 1, [] => []
  | n + 1, c :: cs =>
    let hits := if c == '\\' then args.filter fun a => a.1.toList.isPrefixOf cs else []
    match hits with
    | [] => c :: expand args n cs
    | h :: hs =>
      let best := hs.foldl (fun (b : String × Text) a => if b.1.length < a.1.length then a else b) h
      best.2 ++ expand args n (cs.drop best.1.length)

/-- A conditional that is open: whether its lines are taken now, whether one of its parts has been, and whether its `.else` has come. -/
structure Cond where
  on : Bool
  done : Bool
  last : Bool
  deriving DecidableEq, Repr

/-- Text still to be read: a line with the depth of macros and of includes that it stands in, or the end of a macro's expansion. -/
inductive Work where
  | line (l : Line) (macros incs : Nat)
  | close (name : String)

/-- What reading the source has come to: its macros, open conditionals, constants, the symbols that a reading before this one found
(R349: a symbol may be used before it is defined), the source's directory, label names, the macros in expansion, the macro whose
definition is being read with the depth of definitions in it, the lines that are left, diagnostics, and the count of lines read. -/
structure Pre where
  macros : List Macro := []
  conds : List Cond := []
  env : Env := []
  found : Env := []
  home : String := ""
  labels : List String := []
  busy : List String := []
  open_ : Option (Macro × Nat) := none
  lines : List Line := []
  diags : List Diag := []
  count : Nat := 0

/-- Whether lines are taken. -/
def Pre.live (p : Pre) : Bool := p.conds.all Cond.on

/-- A diagnostic added. -/
def Pre.say (p : Pre) (d : Diag) : Pre := { p with diags := d :: p.diags }

/-- Whether a name is a symbol that the text has defined so far. -/
def Pre.known (p : Pre) (s : String) : Bool := (p.env.get s).isSome || p.labels.contains s

/-- The value of the expression that a text is, for conditional assembly. -/
def Pre.value (p : Pre) (t : Text) : Except Nat Int :=
  match (lexLine t).bind parseExp with
  | some e => evalNum (p.env ++ p.found) e
  | none => .error 1

/-- A line left for the assembler; its label is defined once (R349). -/
def Pre.keep (p : Pre) (l : Line) : Pre :=
  match (labelOf l.text).1 with
  | some s => { (if p.known s then p.say (err l 11) else { p with labels := s :: p.labels }) with lines := l :: p.lines }
  | none => { p with lines := l :: p.lines }

/-- A conditional directive (R350); at most 16 stand within one another. -/
def Pre.condition (p : Pre) (l : Line) (w : String) (rest : Text) : Pre :=
  let test : Except Nat Bool :=
    if w = ".ifdef" then .ok (p.known (word rest).1) else if w = ".ifndef" then .ok !(p.known (word rest).1)
    else (p.value rest).map fun v => v != 0
  if w = ".if" ∨ w = ".ifdef" ∨ w = ".ifndef" then
    let p' := if 16 ≤ p.conds.length then p.say (err l 19) else p
    if !p.live then { p' with conds := ⟨false, true, false⟩ :: p'.conds }
    else
      match test with
      | .ok b => { p' with conds := ⟨b, b, false⟩ :: p'.conds }
      | .error c => { p'.say (err l c) with conds := ⟨false, false, false⟩ :: p'.conds }
  else
    match p.conds with
    | [] => p.say (err l 18)
    | c :: cs =>
      if w = ".endif" then { p with conds := cs }
      else if c.last then p.say (err l 18)
      else if w = ".else" then { p with conds := ⟨!c.done, true, true⟩ :: cs }
      else if c.done then { p with conds := ⟨false, true, false⟩ :: cs }
      else
        match test with
        | .ok b => { p with conds := ⟨b, b, false⟩ :: cs }
        | .error e => { p.say (err l e) with conds := ⟨false, false, false⟩ :: cs }

/-- The directives of conditional assembly. -/
def condWords : List String := [".if", ".ifdef", ".ifndef", ".elif", ".else", ".endif"]

/-- A constant defined once (R349, R350). -/
def Pre.define (p : Pre) (l : Line) (rest : Text) : Pre :=
  match arguments rest with
  | [n, v] =>
    let (s, r) := word n
    match (lexLine v).bind parseExp with
    | some e => if s = "" ∨ !(skip r).isEmpty then p.say (err l 1) else if p.known s then p.say (err l 11) else { p with env := (s, .equ e) :: p.env }
    | none => p.say (err l 1)
  | _ => p.say (err l 3)

/-- A file beside others: the source's directory and those that -I gives, in order (R348). -/
def findFile (files : List (String × String)) (dirs : List String) (name : String) : Option (String × String) :=
  if name.toList.head? = some '/' then files.find? fun f => f.1 == name
  else dirs.findSome? fun d => files.find? fun f => f.1 == (if d = "" then name else d ++ "/" ++ name)

/-- The directory of a file, empty for one in the directory at hand. -/
def dirOf (f : String) : String :=
  let r := f.toList.reverse.dropWhile fun c => c != '/'
  String.ofList ((r.drop 1).reverse)

/-- Text cut into lines. -/
def linesOf : Text → Text → List Text
  | cur, [] => if cur.isEmpty then [] else [cur.reverse]
  | cur, c :: cs => if c == '\n' then cur.reverse :: linesOf [] cs else linesOf (c :: cur) cs

/-- The lines of a file. -/
def fileLines (f : String × String) : List Line := (linesOf [] f.2.toList).mapIdx fun n t => ⟨f.1, n + 1, t, 0⟩

/-- One line read (R350): what it leaves and the text that it brings. -/
def Pre.line (p : Pre) (files : List (String × String)) (dirs : List String) (l : Line) (macros incs : Nat) : Pre × List Work :=
  let l := { l with key := p.count }
  let p := { p with count := p.count + 1 }
  let (lab, rest) := labelOf l.text
  let (w, args) := word rest
  match p.open_ with
  | some (m, n) =>
    if w = ".endm" then
      if n = 0 then
        ({ p with open_ := none, macros := if p.busy.contains m.name || m.name == "" then p.macros else { m with body := m.body.reverse } :: p.macros }, [])
      else ({ p with open_ := some ({ m with body := l :: m.body }, n - 1) }, [])
    else ({ p with open_ := some ({ m with body := l :: m.body }, if w = ".macro" then n + 1 else n) }, [])
  | none =>
    let p' := if lab.isSome && p.live then p.keep { l with text := l.text.take (l.text.length - rest.length) } else p
    if condWords.contains w then (p'.condition l w args, [])
    else if !p.live then (p, [])
    else
      if w = ".macro" then
        let names := (((lexLine args).getD []).filterMap fun t => match t with | .id s => some s | _ => none)
        let name := names.headD ""
        let p' := if name = "" then p'.say (err l 1) else if p.busy.contains name then p'.say (err l 19) else p'
        ({ p' with open_ := some (⟨name, names.tail, []⟩, 0) }, [])
      else if w = ".endm" then (p'.say (err l 18), [])
      else if w = ".equ" then (p'.define l args, [])
      else if w = ".include" then
        match lexLine args with
        | some [.str s] =>
          match findFile files (p.home :: dirs) (String.ofList s) with
          | some f => if 16 ≤ incs then (p'.say (err l 20), []) else (p', (fileLines f).map fun x => .line x macros (incs + 1))
          | none => (p'.say (err l 20), [])
        | _ => (p'.say (err l 3), [])
      else
        match p.macros.find? fun m => m.name == w with
        | some m =>
          let given := arguments args
          if 16 ≤ macros then (p'.say (err l 19), [])
          else if m.params.length < given.length then (p'.say (err l 3), [])
          else
            let env := m.params.mapIdx fun n s => (s, given.getD n [])
            ({ p' with busy := m.name :: p.busy }, (m.body.map fun x => .line { x with text := expand env (x.text.length + 1) x.text } (macros + 1) incs) ++ [.close m.name])
        | none => (p.keep l, [])

/-- All text read (R350). -/
def Pre.run (files : List (String × String)) (dirs : List String) : Nat → Pre → List Work → Pre
  | 0, p, _ => p
  | _ + 1, p, [] => p
  | n + 1, p, .close _ :: ws => Pre.run files dirs n { p with busy := p.busy.tail } ws
  | n + 1, p, .line l m i :: ws => let x := p.line files dirs l m i; Pre.run files dirs n x.1 (x.2 ++ ws)

/-- How many lines a source may have once its macros are expanded. -/
def maxLines : Nat := 100000000

/-- Whether a name is defined twice among some symbols. -/
def twice : Env → Bool
  | [] => false
  | x :: xs => (xs.any fun y => y.1 == x.1) || twice xs

/-- A source read: its lines, its constants and what there is to say of it (R348 to R350); `found` is what a reading before this one
has found. -/
def readSource (files : List (String × String)) (dirs : List String) (env found : Env) (src : String × String) : Pre :=
  let first := if twice env then [err ⟨src.1, 1, [], 0⟩ 11] else []
  let p := Pre.run files dirs maxLines { env := env, found := found, home := dirOf src.1, diags := first }
    ((fileLines src).map fun l => .line l 0 0)
  let at_ : Line := ⟨src.1, (fileLines src).length, [], p.count⟩
  let p := if p.open_.isSome ∨ !p.conds.isEmpty then p.say (err at_ 19) else p
  { p with lines := p.lines.reverse }

/-- A line taken apart (R49): its label, its guard, its operation and its operands. -/
structure Stmt where
  line : Line
  label : Option String
  guard : Option (Bool × Nat)
  op : String
  ops : List (List Tok)
  deriving DecidableEq, Repr

/-- The statement of a line; none for text that breaks the syntax. -/
def stmtOf (l : Line) : Option Stmt := do
  let (lab, rest) := labelOf l.text
  let ts ← lexLine rest
  let (g, ts) ← match ts with
    | .sym "?" :: .sym "!" :: .id p :: r => (predOf p).map fun n => (some (true, n), r)
    | .sym "?" :: .id p :: r => (predOf p).map fun n => (some (false, n), r)
    | .sym "?" :: _ => none
    | r => some (none, r)
  match ts with
  | [] => if g.isSome then none else some ⟨l, lab, none, "", []⟩
  | .id op :: r => some ⟨l, lab, g, op, splitOperands r⟩
  | _ => none

end Sys2Proof.Machine.Horek
end

