-- ==== Sys2Proof/Machine/HorekItems.lean ====
section
/-! DEFINITION. The horek assembler: directives, kernels, the data section, and the items of the text section (R245, R350, R351, R363). -/

namespace Sys2Proof.Machine.Horek

/-- An instruction as it is written: its form, width and rounding mode, its operands, its guard, and the XI written before it. -/
structure Ins where
  form : Form
  w : Nat
  rm : Nat
  ops : List Opnd
  guard : Option (Bool × Nat)
  xi : Option Exp
  deriving DecidableEq, Repr

/-- The hints of a written END (R34). -/
structure Hints where
  gap : Option Exp := none
  yld : Bool := false
  await : Option (Reg × Option Reg) := none
  deriving DecidableEq, Repr

/-- What stands in the text section, in order. -/
inductive Item where
  | label (s : String)
  | ins (i : Ins)
  | trailer (h : Hints)
  | targets (es : List Exp)
  | align (n : Nat)
  | kernel (k : Nat)
  | role (k r : Nat)
  | win (e : Exp)
  | other
  deriving DecidableEq, Repr

/-- An item with its line. -/
abbrev Placed := Item × Line

/-- A role as a `.role` declares it (R350). -/
structure RoleDesc where
  line : Line
  threads : Nat := 64
  allot : Nat := 0
  cls : Nat := 0
  pmask : Nat := 0xF
  pref : Option Nat := none
  min : Option Nat := none
  deriving DecidableEq, Repr

/-- A kernel as its directives declare it (R350, R351); `begun` once an instruction of it has come. -/
structure KernelDesc where
  line : Line
  name : String
  p6 : Bool
  begun : Bool := false
  roles : List RoleDesc := []
  implicit : RoleDesc
  mdepth : Nat := 0
  scratch : Nat := 0
  column : Nat := 0
  priv : Option Nat := none
  pquota : Option Nat := none
  mmrev : Option Nat := none
  trap : Option (String × Line) := none
  drain : Bool := false
  deriving DecidableEq, Repr

/-- Data of some bytes that an expression gives (R350). -/
structure Datum where
  off : Nat
  bytes : Nat
  exp : Exp
  line : Line
  deriving DecidableEq, Repr

/-- What the lines of a source have come to, the latest of each list in front; `found` is what a reading before this one has found. -/
structure Source where
  data : Bool := false
  env : Env
  found : Env := []
  items : List Placed := []
  kernels : List KernelDesc := []
  datums : List Datum := []
  dataLen : Nat := 0
  notes : List ObjNote := []
  xi : Option (Exp × Line) := none
  diags : List Diag := []

/-- A diagnostic added. -/
def Source.say (s : Source) (d : Diag) : Source := { s with diags := d :: s.diags }

/-- An item added to the text. -/
def Source.put (s : Source) (i : Item) (l : Line) : Source := { s with items := (i, l) :: s.items }

/-- The kernel that is being written changed. -/
def Source.modKernel (s : Source) (f : KernelDesc → KernelDesc) : Source :=
  match s.kernels with
  | k :: ks => { s with kernels := f k :: ks }
  | [] => s

/-- A directive's operand read as a number within bounds; E03 for one that is none, and an error of its own out of bounds. -/
def Source.number (s : Source) (l : Line) (ts : List Tok) (lo hi : Int) (code : Nat) (f : Source → Nat → Source) : Source :=
  match parseExp ts with
  | none => s.say (err l 3)
  | some e =>
    match evalNum (s.env ++ s.found) e with
    | .error c => s.say (err l c)
    | .ok v => if v < lo ∨ hi < v then s.say (err l code) else f s v.toNat

/-- A directive of a kernel's header (R351): E18 outside a kernel and after its first instruction. -/
def Source.header (s : Source) (l : Line) (f : Source → Source) : Source :=
  match s.kernels with
  | k :: _ => if k.begun then s.say (err l 18) else f s
  | [] => s.say (err l 18)

/-- A value given to a name among a directive's operands. -/
def hintOf (ts : List Tok) : Option (String × List Tok) := match ts with | .id n :: .sym "=" :: r => some (n, r) | _ => none

/-- `.role` (R350). -/
def Source.role (s : Source) (l : Line) (ops : List (List Tok)) : Source :=
  match s.kernels, ops with
  | [], _ => s.say (err l 18)
  | k :: _, [.id _] :: t :: a :: more =>
    let s := if 4 ≤ k.roles.length ∨ (k.p6 ∧ 1 ≤ k.roles.length) then s.say (err l 16) else s
    let s := s.number l t 0 65535 16 fun s th => s.number l a 0 65535 16 fun s al =>
      { s.modKernel fun k => { k with roles := { line := l, threads := th, allot := al } :: k.roles } with
        items := (.role (s.kernels.length - 1) k.roles.length, l) :: s.items }
    more.foldl (fun s o =>
      let top := fun (s : Source) (f : RoleDesc → RoleDesc) => s.modKernel fun k => { k with roles := match k.roles with | r :: rs => f r :: rs | [] => [] }
      match hintOf o with
      | some ("class", ts) => s.number l ts 0 3 16 fun s v => top s fun r => { r with cls := v }
      | some ("pmask", ts) => s.number l ts 1 15 16 fun s v => top s fun r => { r with pmask := v }
      | _ => s.say (err l 3)) s
  | _, _ => s.say (err l 3)

/-- `.width` (R350, R351): of the role that was declared last, or of the implicit one. -/
def Source.width (s : Source) (l : Line) (ops : List (List Tok)) : Source :=
  let code := fun (s : Source) (ts : List Tok) (f : Source → Nat → Source) => s.number l ts 16 64 16 fun s v =>
    if v = 16 then f s 0 else if v = 32 then f s 1 else if v = 64 then f s 2 else s.say (err l 16)
  let put := fun (s : Source) (f : RoleDesc → RoleDesc) => s.modKernel fun k =>
    match k.roles with | r :: rs => { k with roles := f r :: rs } | [] => { k with implicit := f k.implicit }
  match s.kernels with
  | [] => s.say (err l 18)
  | k :: _ =>
    if k.p6 then s.say (err l 16)
    else
      match ops with
      | [p] => code s p fun s v => put s fun r => { r with pref := some v }
      | [p, m] => code s p fun s v => code s m fun s w => put s fun r => { r with pref := some v, min := some w }
      | _ => s.say (err l 3)

/-- `.kernel` (R350): the revision is its own, or that of the command line; every kernel of a source has that of the first. -/
def Source.kernel (s : Source) (l : Line) (rev : Bool) (ops : List (List Tok)) : Source :=
  let go := fun (n : String) (p6 : Bool) =>
    let s := if s.kernels.any fun k => k.name == n then s.say (err l 11) else s
    let s := match s.kernels.getLast? with | some k => if k.p6 != p6 then s.say (err l 16) else s | none => s
    { s with kernels := { line := l, name := n, p6 := p6, implicit := { line := l } } :: s.kernels
             items := (.kernel s.kernels.length, l) :: s.items }
  match ops with
  | [[.id n]] => go n rev
  | [[.id n], [.id r]] => if r = "p6" then go n true else if r = "p8" then go n false else s.say (err l 3)
  | _ => s.say (err l 3)

/-- `.word`, `.byte` and `.dword` (R350). -/
def Source.datum (s : Source) (l : Line) (n : Nat) (ops : List (List Tok)) : Source :=
  if !s.data then s.say (err l 18)
  else if ops.isEmpty then s.say (err l 3)
  else ops.foldl (fun s o =>
    match parseExp o with
    | some e => { s with datums := ⟨s.dataLen, n, e, l⟩ :: s.datums, dataLen := s.dataLen + n }
    | none => s.say (err l 3)) s

/-- `.align` (R350): in the data section the pad is zeros. -/
def Source.align (s : Source) (l : Line) (ops : List (List Tok)) : Source :=
  match ops with
  | [o] => s.number l o 1 (2 ^ 62) 7 fun s n =>
    if 2 ^ Nat.log2 n ≠ n ∨ (!s.data ∧ n < 4) then s.say (err l 7)
    else if s.data then { s with dataLen := (s.dataLen + n - 1) / n * n }
    else s.put (.align n) l
  | _ => s.say (err l 3)

/-- `.note` (R350, R363): the name with its NUL, the type with the mandatory flag, the bytes. -/
def Source.note (s : Source) (l : Line) (ops : List (List Tok)) : Source :=
  let name := match ops.head? with
    | some [.str t] => some t
    | some [.id n] => some n.toList
    | _ => none
  match name, ops with
  | some n, _ :: t :: [.id m] :: bs =>
    if m ≠ "mandatory" ∧ m ≠ "optional" then s.say (err l 3)
    else
      s.number l t 0 (2 ^ 31 - 1) 7 fun s ty =>
        let got := bs.foldl (fun (acc : Except Nat (List Byte)) o => do
          let done ← acc
          let e ← (match parseExp o with | some e => .ok e | none => .error 3)
          let v ← evalNum (s.env ++ s.found) e
          if v < -128 ∨ 255 < v then .error 7 else .ok (done ++ [BitVec.ofInt 8 v])) (.ok [])
        match got with
        | .error c => s.say (err l c)
        | .ok desc => { s with notes := s.notes ++ [⟨(n.map fun c => BitVec.ofNat 8 c.toNat) ++ [0], ty + (if m = "mandatory" then 2 ^ 31 else 0), desc⟩] }
  | _, _ => s.say (err l 3)

/-- The directives that leave an item of their own in the text, and the others, which may not stand before a target list (R355). -/
def itemWords : List String := [".kernel", ".role", ".win", ".targets", ".align"]

/-- A directive (R350); macros, conditionals, includes and constants have been read before. -/
def Source.directive (s : Source) (st : Stmt) (rev : Bool) : Source :=
  let l := st.line
  let one := fun (f : List Tok → Source) => match st.ops with | [o] => f o | _ => s.say (err l 3)
  let none_ := fun (r : Source) => if st.ops.isEmpty then r else s.say (err l 3)
  match st.op with
  | ".text" => none_ { s with data := false }
  | ".data" => none_ { s with data := true }
  | ".kernel" => s.kernel l rev st.ops
  | ".role" => s.role l st.ops
  | ".width" => s.width l st.ops
  | ".meetdepth" => s.header l fun s => one fun o => s.number l o 0 64 16 fun s v => s.modKernel fun k => { k with mdepth := v }
  | ".scratch" => s.header l fun s => one fun o => s.number l o 0 0x100000 16 fun s v =>
    if v % 1024 = 0 then s.modKernel fun k => { k with scratch := v } else s.say (err l 16)
  | ".column" => s.header l fun s => one fun o => s.number l o 0 4096 16 fun s v => s.modKernel fun k => { k with column := v }
  | ".priv" => s.header l fun s => one fun o => s.number l o 0 65536 16 fun s v =>
    if v % 16 = 0 then s.modKernel fun k => { k with priv := some v } else s.say (err l 16)
  | ".pquota" => s.header l fun s => one fun o =>
    if o = [.id "default"] then s.modKernel fun k => { k with pquota := some 255 }
    else s.number l o 0 128 16 fun s v => s.modKernel fun k => { k with pquota := some v }
  | ".mmrev" => s.header l fun s => one fun o => s.number l o 0 1 16 fun s v => s.modKernel fun k => { k with mmrev := some v }
  | ".trap" => s.header l fun s => one fun o => match o with | [.id n] => s.modKernel fun k => { k with trap := some (n, l) } | _ => s.say (err l 3)
  | ".drain" => s.header l fun s => match s.kernels with
    | k :: _ => if k.p6 then s.say (err l 16) else none_ (s.modKernel fun k => { k with drain := true })
    | [] => s
  | ".win" => one fun o => s.number l o 0 7 7 fun s v => s.put (.win (.num v)) l
  | ".targets" =>
    match st.ops.mapM parseExp with
    | some es => if s.data then s.say (err l 18) else if es.isEmpty then s.say (err l 3) else s.put (.targets es) l
    | none => s.say (err l 3)
  | ".word" => s.datum l 4 st.ops
  | ".byte" => s.datum l 1 st.ops
  | ".dword" => s.datum l 8 st.ops
  | ".align" => s.align l st.ops
  | ".note" => s.note l st.ops
  | _ => s.say (err l 2)

/-- The hints of an END, in any order, between blanks or commas (R34, R49). -/
def hintsOf : Nat → List Tok → Hints → Option Hints
  | 0, _, _ => none
  | _ + 1, [], h => some h
  | n + 1, .sym "," :: r, h => hintsOf n r h
  | n + 1, .id w :: r, h =>
    match lower w, r with
    | "yield", r => hintsOf n r { h with yld := true }
    | "await", .sym "=" :: r => (headReg r).bind fun x => hintsOf n x.2.2 { h with await := some (x.1, x.2.1) }
    | "gap", .sym "=" :: r =>
      let e := r.takeWhile fun t => match t with | .sym y => y != "," | .id y => !(["yield", "await", "gap"].contains (lower y)) | _ => true
      (parseExp e).bind fun x => hintsOf n (r.drop e.length) { h with gap := some x }
    | _, _ => none
  | _ + 1, _, _ => none

/-- The elements of a statement's operands, commas left out. -/
def Stmt.flat (st : Stmt) : List Tok := st.ops.flatten

/-- An instruction, an END or an XI (R49, R354): an XI waits for its instruction. -/
def Source.instr (s : Source) (st : Stmt) : Source :=
  let l := st.line
  let op := lower st.op
  if op = "end" then
    let s := if st.guard.isSome ∨ s.xi.isSome then { s.say (err l 14) with xi := none } else s
    match hintsOf (2 * st.flat.length + 2) st.flat {} with
    | some h => s.put (.trailer h) l
    | none => s.say (err l 3)
  else if op = "xi" then
    if st.guard.isSome ∨ s.xi.isSome then s.say (err l 14)
    else
      match st.ops with
      | [o] => (match parseExp o with | some e => { s with xi := some (e, l) } | none => s.say (err l 3))
      | _ => s.say (err l 3)
  else
    let s := s.modKernel fun k => { k with begun := true }
    match mnemOf st.op with
    | none => s.say (err l 2)
    | some m =>
      match st.ops.mapM operandOf with
      | none => s.say (err l 1)
      | some os =>
        match m.pick os with
        | none => s.say (err l 3)
        | some f => { s.put (.ins ⟨f, m.w, m.rm.getD 0, os, st.guard, s.xi.map Prod.fst⟩) l with xi := none }

/-- A line of the source (R349, R350, R354): its label, then what it says. A prefix that no instruction follows is misplaced. -/
def Source.line (rev : Bool) (s : Source) (l : Line) : Source :=
  match stmtOf l with
  | none => s.say (err l 1)
  | some st =>
    let s := match st.label with
      | some n =>
        if s.data then { s with env := s.env ++ [(n, .data s.dataLen)] } else (if s.xi.isSome then { s.say (err l 14) with xi := none } else s).put (.label n) l
      | none => s
    if st.op = "" then s
    else if st.op.toList.head? = some '.' then
      let s := if s.xi.isSome then { s.say (err l 14) with xi := none } else s
      let s := if itemWords.contains st.op then s else s.put .other l
      if st.guard.isSome then s.say (err l 14) else s.directive st rev
    else if s.data then s.say (err l 18)
    else s.instr st

/-- The items, kernels, data and notes of a source, in the order in which they stand. -/
def readItems (p : Pre) (rev : Bool) : Source :=
  let s := p.lines.foldl (Source.line rev) { env := p.env, found := p.found }
  let s := match s.xi with | some x => s.say (err x.2 14) | none => s
  { s with items := s.items.reverse, datums := s.datums.reverse
           kernels := s.kernels.reverse.map fun k => { k with roles := k.roles.reverse }, diags := s.diags ++ p.diags }

end Sys2Proof.Machine.Horek
end

