-- ==== Sys2Proof/Machine/HorekLayout.lean ====
section
/-! DEFINITION. The horek assembler: windows, runs, inserted words and the places of labels (R351 to R356). -/

namespace Sys2Proof.Machine.Horek

/-- Registers that an instruction names: the first, how many, whether it reads them, whether it writes them. -/
structure Named where
  reg : Reg
  len : Nat
  rd : Bool
  wr : Bool
  deriving DecidableEq, Repr

/-- How many registers an operand of a form names. -/
def Ins.len (i : Ins) (k : Nat) : Nat := 2 ^ (if k = wide then i.w else k)

/-- The registers that an operand names. -/
def Ins.namedBy (i : Ins) : Arg × Opnd → List Named
  | (.reg _ rd wr k, .reg r _) => [⟨r, i.len k, rd, wr⟩]
  | (.regImm _ k, .reg r _) => [⟨r, i.len k, true, false⟩]
  | (.mem k, .mem r _ _) => [⟨r, i.len k, true, false⟩]
  | (.addr _ k, .mem r _ _) => [⟨r, i.len k, true, false⟩]
  | _ => []

/-- The registers that an instruction names. -/
def Ins.named (i : Ins) : List Named := ((i.form.args.zip i.ops).map i.namedBy).flatten

/-- The temporaries among some registers. -/
def temps (l : List Named) : List Nat := (l.map fun n => match n.reg with | .x m => (List.range n.len).map (m + ·) | _ => []).flatten

/-- The expression that a branch, a call or a meeting jumps to (R353). -/
def Ins.jump (i : Ins) : Option Exp :=
  (i.form.args.zip i.ops).findSome? fun x => match x with | (.jump _, .exp e) => some e | _ => none

/-- The number that the operand of a kind without a register is. -/
def Ins.number (i : Ins) (env : Env) : Option Nat :=
  (i.form.args.zip i.ops).findSome? fun x => match x with | (.num _ _ _, .exp e) => (evalNum env e).toOption.map Int.toNat | _ => none

/-- Whether an instruction is a BRT or a CALLT (R43). -/
def Ins.isTable (i : Ins) : Bool := i.form.major == 0x36 && decide (i.form.f < 2)

/-- Whether a run that holds an instruction is returned to (R354). -/
def Ins.isCall (i : Ins) : Bool := i.form.major == 0x35 || (i.form.major == 0x36 && i.form.f == 1)

/-- Whether a J-format instruction jumps in every lane: its predicate is p7 or none is written. -/
def Ins.always (i : Ins) : Bool :=
  !((i.form.args.zip i.ops).any fun x => match x with | (.npred, .pred neg n) => neg || n != 7 | _ => false)

/-- Whether the words after an instruction in its run are never reached (R357). -/
def Ins.endsRun (i : Ins) : Bool :=
  ((i.form.major == 0x34 || i.form.major == 0x35) && i.always) || i.form.major == 0x36 ||
    (i.form.major == 0x38 && i.form.f == 4 && i.guard.isNone)

/-- An item with the window in force and the kernel and role that it stands in (R353). -/
structure Site where
  item : Item
  line : Line
  win : Nat
  kern : Option Nat
  role : Nat
  deriving DecidableEq, Repr

/-- The window that follows an item. -/
def winAfter (env : Env) (w : Nat) : Item → Nat
  | .win e => ((evalNum env e).toOption.map Int.toNat).getD w
  | .ins i => if i.form.major = 0x3A ∧ i.form.f = 5 then (i.number env).getD w else w
  | _ => w

/-- The window, the kernel and the role at an item: the window is 0 at an entry (R353). -/
def siteAt (src : Source) (w : Nat) (k : Option Nat) (r : Nat) : Item → Nat × Option Nat × Nat
  | .kernel n => (0, some n, 0)
  | .role n m => (0, some n, m)
  | .label s => (if src.kernels.any fun d => d.trap.any fun t => t.1 == s then 0 else w, k, r)
  | _ => (w, k, r)

/-- The items with their windows, kernels and roles. -/
def sitesOf (src : Source) : Nat → Option Nat → Nat → List Placed → List Site
  | _, _, _, [] => []
  | w, k, r, x :: xs =>
    let a := siteAt src w k r x.1
    ⟨x.1, x.2, a.1, a.2.1, a.2.2⟩ :: sitesOf src (winAfter src.env a.1 x.1) a.2.1 a.2.2 xs

/-- The names in an expression, and those in the constants that it names. -/
def namesIn (env : Env) : Nat → Exp → List String
  | 0, _ => []
  | n + 1, e => (e.names.map fun s => s :: (match env.get s with | some (.equ x) => namesIn env n x | _ => [])).flatten

/-- The expressions by which an item refers to labels (R353). -/
def Item.jumps : Item → List Exp
  | .ins i => i.jump.toList
  | .targets es => es
  | _ => []

/-- The names that branches, calls, meetings, target lists and `.trap` refer to (R354). -/
def refsOf (src : Source) (sites : List Site) : List String :=
  (src.kernels.filterMap fun k => k.trap.map Prod.fst) ++
    ((sites.map fun x => (x.item.jumps.map (namesIn src.env 17)).flatten).flatten)

/-- An immediate (R356): its value in its own unit, the bits that its field holds, whether it fits without XI, whether it does with one,
the error if it does neither, whether its major accepts XI, and whether it is an offset in the data section. -/
structure Imm where
  v : Int
  low : Nat
  fits : Bool
  ok : Bool
  code : Nat
  xi : Bool := true
  data : Bool := false
  deriving DecidableEq, Repr

/-- Whether a number lies within n bits of two's complement. -/
def within (n : Nat) (v : Int) : Bool := decide (-2 ^ (n - 1) ≤ v) && decide (v < 2 ^ (n - 1))

/-- The integer that an FP32 word is, where one from -64 to 63 is and the word is not -0.0 (R356). -/
def smallFp (b : Nat) : Option Int :=
  ((List.range 128).map fun n => (n : Int) - 64).find? fun v => Fmt.f32.round 0 false (decide (v < 0)) v.natAbs 0 == b

/-- The immediate that an operand is (R33, R356). -/
def Ins.immOf (env : Env) (i : Ins) : Arg × Opnd → Option (Except Nat Imm)
  | (.regImm .int _, .exp e) => some ((evalNum env e).map fun v => { v := v, low := 7, fits := within 7 v, ok := within 30 v, code := 7 })
  | (.regImm .fp _, .exp e) => some ((evalFp env e).map fun b =>
      match smallFp b with
      | some v => { v := v, low := 7, fits := true, ok := true, code := 8 }
      | none => { v := b / 4, low := 7, fits := false, ok := b % 4 == 0, code := 8 })
  | (.regImm (.lane hi) _, .exp e) => some ((evalNum env e).map fun v =>
      { v := v, low := 7, fits := decide (0 ≤ v) && decide (v ≤ hi), ok := false, code := 7, xi := false })
  | (.movi, .exp e) => some (
      if i.form.f = 1 then
        (eval env evalDepth e).map fun v => { v := v.n, low := 14, fits := !v.data && within 14 v.n, ok := within 37 v.n, code := 7, data := v.data }
      else
        (evalNum env e).map fun v =>
          { v := (BitVec.ofInt 32 v).toInt, low := 14, fits := within 14 v, ok := decide (-2 ^ 31 ≤ v) && decide (v < 2 ^ 32), code := 7 })
  | (.mem _, .mem _ _ off) =>
    let a : Int := i.form.bytes * 2 ^ i.w
    match off with
    | none => some (.ok { v := 0, low := 7, fits := true, ok := true, code := 7 })
    | some e => some ((evalNum env e).bind fun v =>
        if v % a ≠ 0 then .error 9 else .ok { v := v / a, low := 7, fits := within 7 (v / a), ok := within 30 (v / a), code := 7 })
  | _ => none

/-- The immediate of an instruction. -/
def Ins.imm (env : Env) (i : Ins) : Option (Except Nat Imm) := (i.form.args.zip i.ops).findSome? (i.immOf env)

/-- Whether an XI has to be inserted before an instruction that carries none (R356). -/
def Ins.needsXi (env : Env) (i : Ins) : Bool :=
  match i.imm env with
  | some (.ok m) => !m.fits && m.ok
  | _ => false

/-- A word of the text section before its encoding: the two prefixes, an instruction with whether an XI stands before it, an END, a word
of the target list of the table branch at a place, the filler of R354. -/
inductive Emit where
  | guard (neg : Bool) (n : Nat)
  | xi (i : Ins)
  | ins (i : Ins) (xi : Bool)
  | trailer (h : Hints)
  | list (e : Exp) (branch : Nat)
  | filler
  deriving DecidableEq, Repr

/-- A word of the text section: whether the assembler inserted it, whether it is an END that follows an END, and where it comes from. -/
structure Cell where
  emit : Emit
  plus : Bool
  site : Site
  empty : Bool := false
  deriving DecidableEq, Repr

/-- The word that stands last in the text: none, an END, one that pads, the last of a target list, an instruction. -/
inductive Prev where
  | start
  | trailer
  | pad
  | list
  | word
  deriving DecidableEq, Repr

/-- The text section while it is laid out, its latest word in front: how many words it has and the run has, the last word, whether a name
or an entry is here, whether the run holds a call and the one before did, the temporaries written in the run, the table branch that
waits for its list with whether its run is closed, the labels, the entries of roles, the one that waits for its word. -/
structure Lay where
  cells : List Cell := []
  pos : Nat := 0
  run : Nat := 0
  prev : Prev := .start
  named : Bool := false
  call : Bool := false
  after : Bool := false
  written : List Nat := []
  table : Option (Nat × Nat × Bool) := none
  labels : Env := []
  entry : Option (Nat × Nat) := none
  entries : List ((Nat × Nat) × Nat) := []
  diags : List Diag := []

/-- A diagnostic added. -/
def Lay.say (y : Lay) (l : Line) (code : Nat) : Lay := { y with diags := err l code :: y.diags }

/-- A word added. -/
def Lay.put (y : Lay) (c : Cell) : Lay := { y with cells := c :: y.cells, pos := y.pos + 1 }

/-- A table branch whose list cannot come any more (R355). -/
def Lay.dropTable (y : Lay) (l : Line) : Lay := if y.table.isSome then { y.say l 12 with table := none } else y

/-- A table branch whose run is closed and after which only its list may stand (R355). -/
def Lay.barTable (y : Lay) (l : Line) : Lay := if y.table.any fun t => t.2.2 then y.dropTable l else y

/-- An END placed: the run closes. -/
def Lay.trailer (y : Lay) (x : Site) (h : Hints) (plus : Bool) : Lay :=
  { (y.barTable x.line).put ⟨.trailer h, plus, x, y.prev == .trailer⟩ with
    run := 0, prev := .trailer, named := false, after := y.call, call := false, written := [],
    table := (y.barTable x.line).table.map fun t => (t.1, t.2.1, true) }

/-- Whether one of some temporaries is read later in a run that no END of the source closes, before it is written in all lanes again. -/
def readLater : List Nat → List Site → Bool
  | _, [] => false
  | xs, s :: ss =>
    match s.item with
    | .ins i =>
      (temps (i.named.filter Named.rd)).any xs.contains ||
        readLater (if i.guard.isSome then xs else xs.filter fun n => !(temps (i.named.filter Named.wr)).contains n) ss
    | .label _ => readLater xs ss
    | .win _ => readLater xs ss
    | .other => readLater xs ss
    | _ => false

/-- A run closed by an END that the assembler inserts (R354): E13 where a temporary would be read across it; under -S E13, and nothing
is inserted. -/
def Lay.close (y : Lay) (strict : Bool) (x : Site) (rest : List Site) : Lay :=
  if y.prev ≠ .word then y
  else if strict then
    { y.say x.line 13 with
      run := 0, prev := .list, named := false, after := y.call, call := false, written := [], table := y.table.map fun t => (t.1, t.2.1, true) }
  else (if readLater y.written rest then y.say x.line 13 else y).trailer x {} true

/-- The entry that waits for its word. -/
def Lay.enter (y : Lay) : Lay :=
  match y.entry with
  | some e => { y with entry := none, entries := (e, y.pos) :: y.entries }
  | none => y

/-- An instruction placed with its prefixes (R354, R356). -/
def Lay.instr (y : Lay) (strict : Bool) (env : Env) (x : Site) (i : Ins) (xi : Bool) (rest : List Site) : Lay :=
  let has := i.xi.isSome || xi
  let n := 1 + (if i.guard.isSome then 1 else 0) + (if has then 1 else 0)
  let y := if 24 < y.run + n then y.close strict x (x :: rest) else y
  let y := y.barTable x.line
  let fill := y.prev != .word && (y.named || y.after || y.entry.isSome) && n != 1
  let y := y.enter
  let y := if fill then y.put ⟨.filler, true, x, false⟩ else y
  let y := if i.xi.isSome then y.put ⟨.xi i, false, x, false⟩ else y
  let y := match i.guard with | some g => y.put ⟨.guard g.1 g.2, false, x, false⟩ | none => y
  let y := if xi && i.xi.isNone then y.put ⟨.xi i, true, x, false⟩ else y
  let y := if i.isTable then { y.dropTable x.line with table := some (y.pos, (i.number env).getD 0, false) } else y
  { y.put ⟨.ins i has, false, x, false⟩ with
    run := y.run + n + (if fill then 1 else 0), prev := .word, named := false, after := false, call := y.call || i.isCall,
    written := temps (i.named.filter Named.wr) ++ y.written }

/-- n words that pad (R354). -/
def Lay.pad (y : Lay) (x : Site) : Nat → Lay
  | 0 => y
  | n + 1 => Lay.pad { y.put ⟨.trailer {}, true, x, false⟩ with prev := .pad, named := false, after := false } x n

/-- An item laid out (R354, R355). -/
def Lay.item (src : Source) (strict : Bool) (refs : List String) (y : Lay) (x : Site) (xi : Bool) (rest : List Site) : Lay :=
  match x.item with
  | .label s =>
    let y := if refs.contains s then { y.close strict x rest with named := true } else y
    { y.barTable x.line with labels := (s, .code (4 * y.pos)) :: y.labels }
  | .role k r => { (y.close strict x rest).dropTable x.line with entry := some (k, r) }
  | .kernel k =>
    { (y.close strict x []).dropTable x.line with
      entry := if src.kernels[k]?.any fun d => d.roles.isEmpty then some (k, 0) else none }
  | .align n =>
    let y := y.dropTable x.line
    if y.prev = .trailer ∨ y.prev = .pad then y.pad x ((n / 4 - y.pos % (n / 4)) % (n / 4)) else y.say x.line 18
  | .targets es =>
    let y := y.close strict x []
    match y.table with
    | none => y.say x.line 12
    | some (b, n, _) =>
      let y := if es.length = n then y else y.say x.line 12
      { es.foldl (fun y e => y.put ⟨.list e b, false, x, false⟩) y with table := none, prev := .list, named := false }
  | .trailer h => y.trailer x h false
  | .win _ => y.dropTable x.line
  | .other => y.dropTable x.line
  | .ins i => y.instr strict src.env x i xi rest

/-- The text section laid out, with an XI inserted where `xi` says so. -/
def layout (src : Source) (strict : Bool) (refs : List String) : Lay → List Site → List Bool → Lay
  | y, [], _ => y
  | y, x :: xs, bs => layout src strict refs (y.item src strict refs x (bs.headD false) xs) xs bs.tail

/-- The whole text: a run that is open at the end is closed, and a table branch has had its list (R354, R355). -/
def layAll (src : Source) (strict : Bool) (refs : List String) (sites : List Site) (xi : List Bool) : Lay :=
  let y := layout src strict refs {} sites xi
  match sites.getLast? with
  | some x => (y.close strict x []).dropTable x.line
  | none => y

/-- The inserted XI of each item, once the labels that they move give no more of them. -/
def settleXi (src : Source) (strict : Bool) (refs : List String) (sites : List Site) : Nat → List Bool → Lay
  | 0, xi => layAll src strict refs sites xi
  | n + 1, xi =>
    let y := layAll src strict refs sites xi
    let xi' := (sites.zip xi).map fun x => x.2 || (match x.1.item with | .ins i => i.xi.isNone && i.needsXi (src.env ++ y.labels) | _ => false)
    if xi' = xi then y else settleXi src strict refs sites n xi'

/-- The references whose window differs from that of their label (R353). -/
def windowErrors (src : Source) (sites : List Site) : Nat → List Site → List Diag
  | _, [] => []
  | t, x :: xs =>
    let t := match x.item with | .ins i => if i.isTable then x.win else t | _ => t
    let w := match x.item with | .targets _ => t | _ => x.win
    let names := (x.item.jumps.map (namesIn src.env 17)).flatten
    let bad := sites.any fun y => match y.item with | .label s => names.contains s && y.win != w | _ => false
    (if bad then [err x.line 17] else []) ++ windowErrors src sites t xs

end Sys2Proof.Machine.Horek
end

