-- ==== Sys2Proof/Machine/HorekEncode.lean ====
section
/-! DEFINITION. The horek assembler: registers under a window, operands, and the words of the text section (R24 to R45, R352, R356, R362). -/

namespace Sys2Proof.Machine.Horek

/-- The field that names a register under a window (R28, R352). -/
def fieldOf (win : Nat) : Reg → Except Nat Nat
  | .v n => if 32 * win ≤ n ∧ n < 32 * win + 96 then .ok (n - 32 * win) else .error 5
  | .s n => .ok (96 + n)
  | .x n => .ok (112 + n)
  | .field n => .ok n

/-- How many registers a range holds, where both its ends are of one kind. -/
def spanOf : Reg → Reg → Option Nat
  | .v a, .v b => if a ≤ b then some (b + 1 - a) else none
  | .s a, .s b => if a ≤ b then some (b + 1 - a) else none
  | .x a, .x b => if a ≤ b then some (b + 1 - a) else none
  | _, _ => none

/-- The field of a register operand of n registers (R25, R28, R352): E03 for a range of another count, E04, E05, E06 where it lies at or
above the registers that its role may name, E21 for a write to a field that is only read. -/
def regField (win limit : Nat) (n : Nat) (wr : Bool) (r : Reg) (last : Option Reg) : Except Nat Nat := do
  if last.any fun l => spanOf r l != some n then throw 3
  let f ← fieldOf win r
  if wr ∧ 120 < f then throw 21
  if n ≠ 1 ∧ 120 < f then throw 3
  if n ≠ 1 ∧ f < 120 ∧ f % n ≠ 0 then throw 4
  match r with
  | .v m => if limit < m + n then throw 6 else pure f
  | _ => pure f

/-- A number within bounds. -/
def bounded (lo hi v : Int) : Except Nat Nat := if lo ≤ v ∧ v ≤ hi then .ok v.toNat else .error 7

/-- A word offset from the word at a place to a code offset, in n bits (R43, R356). -/
def offsetTo (bits pos : Nat) (v : Int) : Except Nat Nat :=
  let o := v / 4 - pos
  if v % 4 = 0 ∧ within bits o then .ok (BitVec.ofInt bits o).toNat else .error 10

/-- The number of the special register that an expression names (R262). -/
def specialOf (env : Env) (e : Exp) : Except Nat Nat :=
  let named := match e with | .sym s => (specialNames.find? fun x => x.1 == lower s).map Prod.snd | _ => none
  match named with
  | some n => .ok n
  | none => (evalNum env e).bind (bounded 0 4095)

/-- The bits that an operand puts into its word, immediates left out (R24, R27, R45). -/
def Ins.argBits (i : Ins) (env : Env) (win limit pos : Nat) : Arg × Opnd → Except Nat Nat
  | (.reg sh _ wr k, .reg r l) => (regField win limit (i.len k) wr r l).map (· * 2 ^ sh)
  | (.regImm _ k, .reg r l) => regField win limit (i.len k) false r l
  | (.mem k, .mem r l _) => (regField win limit (i.len k) false r l).map (· * 2 ^ 7)
  | (.addr sh k, .mem r l _) => (regField win limit (i.len k) false r l).map (· * 2 ^ sh)
  | (.pred sh _, .pred _ n) => .ok (n * 2 ^ sh)
  | (.npred, .pred neg n) => .ok (n * 2 ^ 23 + (if neg then 2 ^ 22 else 0))
  | (.num sh lo hi, .exp e) => ((evalNum env e).bind (bounded lo hi)).map (· * 2 ^ sh)
  | (.jump bits, .exp e) => (evalNum env e).bind (offsetTo bits pos)
  | (.special, .exp e) => specialOf env e
  | (.width, .exp e) => (evalNum env e).bind fun v => if v = 16 then .ok 0 else if v = 32 then .ok 1 else if v = 64 then .ok 2 else .error 7
  | (.table, .exp e) => ((evalNum env e).bind (bounded 0 255)).map fun v => v / 16 * 2 ^ 10 + v % 16 * 2 ^ 3
  | _ => .ok 0

/-- Whether an operand of an immediate form is written. -/
def Ins.byImm (i : Ins) : Bool := (i.form.args.zip i.ops).any fun x => match x with | (.regImm _ _, .exp _) => true | _ => false

/-- The word of an instruction at a place (R24, R44, R45); E03 for one that no decoder takes and for an ACCLD or ACCST of the field
`zero`, which is their scratchpad form's (R123), E21 for a SWR of a register that is only read. -/
def Ins.word (i : Ins) (env : Env) (win limit pos : Nat) : Except Nat Nat := do
  if i.form.major = 0x30 ∧ (i.form.f = 4 ∨ i.form.f = 5) ∧ i.ops.length = 2 ∧ i.ops.head? = some (.reg (.field 120) none) then throw 3
  let parts ← (i.form.args.zip i.ops).mapM (i.argBits env win limit pos)
  let imm ← match i.imm env with
    | none => pure 0
    | some (.error c) => throw c
    | some (.ok m) => if m.fits || m.ok then pure (m.v % 2 ^ m.low).toNat else throw m.code
  let w := if i.form.long then 0 else i.form.w.getD (if i.form.round then i.rm else i.w)
  let major := if i.byImm then i.form.imm.getD i.form.major else i.form.major
  let n := major * 2 ^ 26 + w * 2 ^ 24 + i.form.f * 2 ^ 21 + i.form.base + imm + parts.sum
  match decode n with
  | .ok _ => pure n
  | .error _ => if i.form.major = 0x3C ∧ i.form.f = 1 ∧ (decode (0xF0000000 + n % 4096)).toOption.isSome then throw 21 else throw 3

/-- The word of an XI (R35, R356): the one written, or the high bits of the immediate. -/
def Ins.xiWord (i : Ins) (env : Env) : Except Nat Nat := do
  let x ← match i.xi, i.imm env with
    | some e, _ => (evalNum env e).bind (bounded 0 (2 ^ 23 - 1))
    | none, some (.ok m) => pure (m.v / 2 ^ m.low % 2 ^ 23).toNat
    | none, _ => pure 0
  pure (0xFC800000 + x)

/-- The errors of an instruction's prefixes (R37, R44, R356). -/
def Ins.prefixErrors (i : Ins) (env : Env) : List Nat :=
  let m := match i.imm env with | some (.ok m) => some m | _ => none
  let over_ := i.xi.isSome && !((i.form.args.zip i.ops).any fun x => match i.immOf env x with | some (.ok m) => m.xi | some (.error _) => true | none => false)
  (if (i.guard.isSome && !i.form.guard) || over_ || (i.xi.isSome && m.any fun m => !m.fits && m.ok) then [14] else [])

/-- The fields that an END awaits: the first and how many (R34); E06 where one lies above what its role may name (R352). -/
def awaited (win limit : Nat) (a : Reg × Option Reg) : Except Nat (Nat × Nat) := do
  let n ← match a.2 with
    | none => pure 1
    | some l => (match spanOf a.1 l with | some n => pure n | none => throw 3)
  let f ← (match fieldOf win a.1 with | .ok f => pure f | .error _ => throw 22)
  let above := match a.1 with | .v m => decide (limit < m + n) | _ => false
  if 7 < n ∨ !(decide (f + n ≤ 96) || (decide (96 ≤ f) && decide (f + n ≤ 112))) then throw 22
  if above then throw 6 else pure (f, n)

/-- The word of an END (R34). -/
def Hints.word (h : Hints) (env : Env) (win limit : Nat) : Except Nat Nat := do
  let gap ← match h.gap with | none => pure 0 | some e => (evalNum env e).bind (bounded 0 7)
  let a ← match h.await with | none => pure (0, 0) | some a => awaited win limit a
  pure (0xFC000000 + gap * 2 ^ 20 + (if h.yld then 2 ^ 19 else 0) + a.1 * 2 ^ 12 + a.2 * 2 ^ 9)

/-- The registers a thread of a role may name: ALLOT less MDEPTH (R29, R352). -/
abbrev Limits := Option Nat → Nat → Nat

/-- The word that stands at a place. -/
def Cell.word (c : Cell) (env : Env) (limits : Limits) (pos : Nat) : Except Nat Nat :=
  let limit := limits c.site.kern c.site.role
  match c.emit with
  | .guard neg n => .ok (0xFD000000 + n * 2 ^ 20 + (if neg then 2 ^ 19 else 0))
  | .xi i => i.xiWord env
  | .ins i _ => i.word env c.site.win limit pos
  | .trailer h => h.word env c.site.win limit
  | .list e b => ((evalNum env e).bind (offsetTo 22 b)).bind fun o => if o = 2 ^ 21 then .error 10 else .ok (0xF8000000 + o)
  | .filler => .ok 0x381E3C00

/-- The words of the text section, 0 for one in error, with the errors. -/
def encodeAll (env : Env) (limits : Limits) : Nat → List Cell → List Nat × List Diag
  | _, [] => ([], [])
  | pos, c :: cs =>
    let r := encodeAll env limits (pos + 1) cs
    let pre := match c.emit with | .ins i _ => (i.prefixErrors env).map (err c.site.line) | _ => []
    match c.word env limits pos with
    | .ok n => (n :: r.1, pre ++ r.2)
    | .error k => (0 :: r.1, pre ++ (err c.site.line k :: r.2))

/-- The relocations of the text section (R349, R362): one for each XI whose MOVI.x2 takes the address of a data label. -/
def relocsOf (env : Env) : Nat → List Cell → List ObjReloc
  | _, [] => []
  | pos, c :: cs =>
    let rest := relocsOf env (pos + 1) cs
    match c.emit with
    | .xi i => (match i.imm env with
      | some (.ok m) => if m.data then ⟨".text", 4 * pos, 1, ⟨0, ".data", 0⟩, m.v⟩ :: rest else rest
      | _ => rest)
    | _ => rest

/-- The highest vector register that the code of a role names, END's among it, with 1 added; 0 for none (R351). -/
def highest (cells : List Cell) (kern role : Nat) : Nat :=
  let top := fun (n : Nat) (r : Reg) => match r with | .v m => m + n | _ => 0
  ((cells.filter fun c => c.site.kern == some kern && c.site.role == role).map fun c =>
    match c.emit with
    | .ins i _ => (i.named.map fun n => top n.len n.reg).foldl max 0
    | .trailer h => (match h.await with | some (r, l) => max (top 1 r) (top 1 (l.getD r)) | none => 0)
    | _ => 0).foldl max 0

/-- A number rounded up to a multiple of 8. -/
def up8 (n : Nat) : Nat := (n + 7) / 8 * 8

/-- The allotment of a role (R351): the one written, or the computed one for the implicit role and for 0. -/
def allotOf (cells : List Cell) (kern role : Nat) (d : KernelDesc) (r : RoleDesc) : Nat :=
  if r.allot ≠ 0 then r.allot else max (up8 (highest cells kern role + d.mdepth)) (up8 d.mdepth + 8)

/-- The roles of a kernel: the implicit one where none is declared (R351). -/
def KernelDesc.all (d : KernelDesc) : List RoleDesc := if d.roles.isEmpty then [d.implicit] else d.roles

/-- The bounds of a source's roles (R352); code outside a kernel has none. -/
def limitsOf (src : Source) (cells : List Cell) : Limits := fun k r =>
  match k with
  | none => 256
  | some n =>
    match src.kernels[n]? with
    | none => 256
    | some d => (match d.all[r]? with | some x => allotOf cells n r d x - d.mdepth | none => 256)

/-- The 20 bytes of a role's entry (R245, R350, R351): the width codes of P6 are fixed. -/
def roleBytes (d : KernelDesc) (r : RoleDesc) (allot entry : Nat) : List Byte :=
  let pref := if d.p6 then 1 else r.pref.getD 2
  let min_ := if d.p6 then 1 else r.min.getD 0
  leBytes 4 entry ++ leBytes 2 r.threads ++ leBytes 2 allot ++ leBytes 1 (16 * min_ + 4 * pref + r.cls) ++ leBytes 1 r.pmask ++ leBytes 10 0

/-- The MMREV of a kernel (R350). -/
def KernelDesc.rev (d : KernelDesc) : Nat := d.mmrev.getD (if d.p6 then 0 else 1)

/-- The 128 bytes of a kernel's header (R245, R350, R351); no `.pquota` asks for the default. -/
def headerBytes (d : KernelDesc) (allots entries : List Nat) (trap : Nat) : List Byte :=
  let flags := (if d.trap.isSome then 1 else 0) + (if d.drain then 2 else 0)
  let priv := d.priv.getD (if d.trap.isSome then 16 else 0)
  let head := leBytes 4 0x0008C5D1 ++ leBytes 2 128 ++ leBytes 1 (if d.p6 then 0 else 1) ++ leBytes 1 d.rev ++ leBytes 4 flags ++
    leBytes 4 d.scratch ++ leBytes 4 d.column ++ leBytes 4 priv ++ leBytes 1 (d.pquota.getD 0xFF) ++ leBytes 1 d.mdepth ++
    leBytes 1 d.all.length ++ leBytes 1 0 ++ leBytes 4 trap ++ leBytes 8 0 ++ leBytes 8 0
  let roles := ((d.all.zip (allots.zip entries)).map fun x => roleBytes d x.1 x.2.1 x.2.2).flatten
  let all := head ++ roles
  all ++ leBytes (128 - all.length) 0

end Sys2Proof.Machine.Horek
end

