-- ==== Sys2Proof/Machine/HorekCheck.lean ====
section
/-! DEFINITION. The horek assembler: the checks of runs, proxies, predicates and revisions (R347, R357). -/

namespace Sys2Proof.Machine.Horek

/-- A register as one number: the vector registers, then the s registers, then the temporaries. -/
def Reg.key : Reg → Option Nat
  | .v n => some n
  | .s n => some (256 + n)
  | .x n => some (272 + n)
  | .field _ => none

/-- The registers from one on, as numbers. -/
def keysFrom (r : Reg) (n : Nat) : List Nat := match r.key with | some k => (List.range n).map (k + ·) | none => []

/-- Registers as numbers. -/
def keys (l : List Named) : List Nat := (l.map fun n => keysFrom n.reg n.len).flatten

/-- Whether an instruction takes proxies in its sources (R78): IADD and ISUB take them in single registers only. -/
def Ins.takesProxies (i : Ins) : Bool := i.form.px == .accepts && (decide (1 < i.form.major) || i.w == 0)

/-- Whether a proxy is rejected in an operand (R78, R148 to R151): everywhere but in the sources of what takes them, and in every address. -/
def Ins.rejects (i : Ins) (x : Arg × Opnd) : Bool :=
  match x.1, i.form.px with
  | .mem _, _ => true
  | .addr _ _, _ => true
  | .reg sh _ _ _, .makes => sh == 0
  | _, .reads => false
  | _, _ => !i.takesProxies

/-- What is known of the run that is being checked: the registers that it has written, those whose last write may have left a proxy,
whether its later words are never reached; and the kernels that have had their W08. -/
structure Check where
  wrote : List Nat := []
  proxies : List Nat := []
  ended : Bool := false
  told : List Nat := []
  diags : List Diag := []

/-- The registers among whose sources a proxy would be read, by whether the operand rejects it. -/
def Ins.sources (i : Ins) (rejected : Bool) : List Nat :=
  keys ((((i.form.args.zip i.ops).filter fun x => i.rejects x == rejected).map i.namedBy).flatten.filter Named.rd)

/-- Whether an operand is a predicate p7 that an instruction writes, or a branch's !p7 (R31, R357). -/
def idlePred (x : Arg × Opnd) : Bool :=
  match x with
  | (.pred _ wr, .pred _ n) => wr && n == 7
  | (.npred, .pred neg n) => neg && n == 7
  | _ => false

/-- Whether an instruction is one of P8 only (R47). -/
def Ins.isP8 (i : Ins) (env : Env) : Bool :=
  !i.form.p6 || (i.form.major == 0x3C && i.form.f == 1 &&
    (i.form.args.zip i.ops).any fun x => match x with | (.special, .exp e) => (specialOf env e).toOption == some 0x103 | _ => false)

/-- An instruction checked (R357). -/
def Check.instr (c : Check) (src : Source) (env : Env) (x : Site) (i : Ins) : Check :=
  let rds := keys (i.named.filter Named.rd)
  let wrs := keys (i.named.filter Named.wr)
  let carried := (i.sources false).any c.proxies.contains && (i.takesProxies || i.form.px == .makes)
  let scalar := wrs.any fun k => decide (256 ≤ k)
  let d := x.kern.bind fun k => src.kernels[k]?
  let quota := decide (0x20 ≤ i.form.major) && decide (i.form.major ≤ 0x22) && d.any (fun d => d.pquota == some 0) && !(x.kern.toList.all c.told.contains)
  let found :=
    (if d.any KernelDesc.p6 && i.isP8 env then [err x.line 15] else []) ++
    (if rds.any fun k => decide (272 ≤ k) && !c.wrote.contains k then [warning x.line 1] else []) ++
    (if (i.sources true).any c.proxies.contains || (carried && scalar) then [warning x.line 2] else []) ++
    (if c.ended then [warning x.line 5] else []) ++
    (if i.guard == some (true, 7) || (i.form.args.zip i.ops).any idlePred then [warning x.line 7] else []) ++
    (if quota then [warning x.line 8] else [])
  { c with
    wrote := wrs ++ c.wrote
    proxies := if carried || i.form.px == .makes then wrs ++ c.proxies else c.proxies.filter fun k => !wrs.contains k
    ended := c.ended || i.endsRun
    told := if quota then x.kern.toList ++ c.told else c.told
    diags := found ++ c.diags }

/-- Whether an END gives a hint (R34). -/
def Hints.any (h : Hints) (env : Env) : Bool := h.yld || h.await.isSome || h.gap.any fun e => (evalNum env e).toOption != some 0

/-- An END checked, and the run that it closes (R357). -/
def Check.trailer (c : Check) (env : Env) (x : Cell) (h : Hints) : Check :=
  let awaits := match h.await with | some (r, l) => keysFrom r ((l.bind (spanOf r)).getD 1) | none => []
  let found :=
    (if awaits.all c.wrote.contains then [] else [warning x.site.line 3]) ++
    (if c.ended && h.any env then [warning x.site.line 4] else []) ++
    (if x.empty && !x.plus then [warning x.site.line 6] else [])
  { c with wrote := [], proxies := [], ended := false, diags := found ++ c.diags }

/-- The text section checked. -/
def checkAll (src : Source) (env : Env) (cells : List Cell) : List Diag :=
  (cells.foldl (fun (c : Check) x =>
    match x.emit with
    | .ins i _ => c.instr src env x.site i
    | .trailer h => c.trailer env x h
    | _ => c) {}).diags

end Sys2Proof.Machine.Horek
end

