-- ==== Sys2Proof/Machine/Horek.lean ====
section
/-! DEFINITION. The horek assembler: its command line, its diagnostics, its listing and the object that it writes (R348, R358 to R363). -/

namespace Sys2Proof.Machine.Horek

/-- What a command line asks for (R348). -/
structure Options where
  src : String
  out : Option String := none
  list : Option String := none
  dirs : List String := []
  defs : Env := []
  p8 : Bool := true
  strict : Bool := false
  werror : Bool := false
  quiet : List Nat := []
  most : Nat := 50
  deriving DecidableEq, Repr

/-- A symbol that -D defines: its name, an equals sign and an expression. -/
def symbolOf (s : String) : Option (String × Def) :=
  match lexLine s.toList with
  | some (.id n :: .sym "=" :: ts) => (parseExp ts).map fun e => (n, .equ e)
  | _ => none

/-- The number nn of -Wno-Wnn, 1 to 8. -/
def quietOf (s : String) : Option Nat :=
  if "-Wno-W".isPrefixOf s then (plainNat (s.toList.drop 6)).bind fun n => if 1 ≤ n ∧ n ≤ 8 then some n else none else none

/-- An option that stands alone. -/
def argOne (a : String) (o : Options) : Option Options :=
  if a = "-S" then some { o with strict := true }
  else if a = "-Werror" then some { o with werror := true }
  else if a = "--rev=p6" then some { o with p8 := false }
  else if a = "--rev=p8" then some { o with p8 := true }
  else (quietOf a).map fun n => { o with quiet := n :: o.quiet }

/-- An option with the operand that follows it. -/
def argTwo (a v : String) (o : Options) : Option Options :=
  if a = "-o" then some { o with out := some v }
  else if a = "-l" then some { o with list := some v }
  else if a = "-I" then some { o with dirs := o.dirs ++ [v] }
  else if a = "-D" then (symbolOf v).map fun d => { o with defs := o.defs ++ [d] }
  else if a = "--max-errors" then (plainNat v.toList).bind fun n => if 1 ≤ n ∧ n ≤ 1000 then some { o with most := n } else none
  else none

/-- A command line read (R348), `has` once the source has come; none for a usage error: an unknown option, an operand that is missing
or wrong, no source or several. -/
def readArgs : List String → Bool → Options → Option Options
  | [], has, o => if has then some o else none
  | a :: as, has, o =>
    match argOne a o with
    | some o => readArgs as has o
    | none =>
      if a.toList.head? ≠ some '-' then (if has then none else readArgs as true { o with src := a })
      else
        match as with
        | [] => none
        | v :: rest => (argTwo a v o).bind fun o => readArgs rest has o

/-- What the codes of the errors mean (R358). -/
def meanings : List String :=
  ["Syntax error", "Unknown mnemonic, suffix or suffix combination", "Operand of the wrong kind, count or range form",
   "Wide operand misaligned for its W", "Register outside the window in force", "Register above the role's nameable range",
   "Immediate or offset out of range", "FP32 immediate not encodable", "Byte offset not a multiple of the access size",
   "Branch, call, meeting or target offset out of range", "Undefined symbol, or a symbol defined twice",
   "Table branch and .targets disagree", "Run formation refused, under -S or across a temporary",
   "Misplaced or duplicated prefix, or a guard the major refuses", "P8-only instruction in a p6 kernel",
   "Header field beyond its limit, a directive illegal for the revision, or a kernel whose revision differs from the first kernel's",
   "Window at a label differs from the window of a reference", "Directive misplaced",
   "Macro or conditional unterminated, nested too deeply or redefined in expansion", "Include file not found, or nested too deeply",
   "Write to a read-only field, use of field 127, or a nonzero reserved operand", "Illegal await range"]

/-- What the codes of the warnings mean (R357). -/
def cautions : List String := ["Temporary", "Proxy use", "Awaited register", "Dead hints", "Dead words", "Empty run", "Never or always", "Quota"]

/-- A number in two digits. -/
def two (n : Nat) : String := (if n < 10 then "0" else "") ++ toString n

/-- The text of a diagnostic (R348). -/
def Diag.text (d : Diag) : String :=
  d.line.file ++ ":" ++ toString d.line.no ++ ": " ++ (if d.warn then "W" else "E") ++ two d.code ++ ": " ++
    (if d.warn then cautions else meanings).getD (d.code - 1) ""

/-- A diagnostic put among others in source order. -/
def insertDiag (d : Diag) : List Diag → List Diag
  | [] => [d]
  | x :: xs => if d.line.key ≤ x.line.key then d :: x :: xs else x :: insertDiag d xs

/-- Diagnostics up to the nth that counts as an error (R348). -/
def upTo (werror : Bool) : Nat → List Diag → List Diag
  | 0, _ => []
  | _, [] => []
  | n + 1, d :: ds => d :: upTo werror (if !d.warn || werror then n else n + 1) ds

/-- A number in eight digits of base 16. -/
def hex8 (n : Nat) : String :=
  String.ofList ((List.range 8).map fun k => Nat.digitChar (n / 16 ^ (7 - k) % 16))

/-- The lines of the listing (R348, R354): code offset, word, a mark for an inserted word, the source line. -/
def listingOf : Nat → List (Cell × Nat) → List String
  | _, [] => []
  | pos, (c, n) :: cs =>
    (hex8 (4 * pos) ++ " " ++ hex8 n ++ (if c.plus then " + " else "   ") ++ String.ofList c.site.line.text) :: listingOf (pos + 1) cs

/-- The data section with the errors in it (R349, R350). -/
def dataOf (env : Env) (len : Nat) (ds : List Datum) : List Byte × List Diag :=
  let r := ds.foldl (fun (acc : List Byte × List Diag) d =>
    let bs := acc.1 ++ leBytes (d.off - acc.1.length) 0
    match evalNum env d.exp with
    | .ok v =>
      if -2 ^ (8 * d.bytes - 1) ≤ v ∧ v < 2 ^ (8 * d.bytes) then (bs ++ leBytes d.bytes (v % 2 ^ 64).toNat, acc.2)
      else (bs ++ leBytes d.bytes 0, err d.line 7 :: acc.2)
    | .error c => (bs ++ leBytes d.bytes 0, err d.line c :: acc.2)) ([], [])
  (r.1 ++ leBytes (len - r.1.length) 0, r.2)

/-- The headers of a source's kernels with the errors in them (R245, R351). -/
def headersOf (src : Source) (y : Lay) (cells : List Cell) : List (List Byte) × List Diag :=
  let all := src.kernels.mapIdx fun k d =>
    let allots := d.all.mapIdx fun r x => allotOf cells k r d x
    let found := d.all.mapIdx fun r x => (x, (y.entries.find? fun e => e.1 == (k, r)).map Prod.snd)
    let trap := match d.trap with
      | none => some 0
      | some (n, _) => (match y.labels.get n with | some (.code o) => some o | _ => none)
    let h := headerBytes d allots (found.map fun x => 4 * x.2.getD 0) (trap.getD 0)
    let own := (found.filter fun x => x.2.isNone).map (fun x => err x.1.line 16) ++
      (match d.trap, trap with | some (_, l), none => [err l 11] | _, _ => [])
    (h, if own.isEmpty && !headerOk h then [err d.line 16] else own)
  (all.map Prod.fst, (all.map Prod.snd).flatten)

/-- The bytes of a string. -/
def stringBytes (s : String) : List Byte := s.toList.map fun c => BitVec.ofNat 8 c.toNat

/-- The note that names the tool (R363). -/
def producer : ObjNote := ⟨sirzin, 1, stringBytes "horek"⟩

/-- The bytes of a note (R363). -/
def noteBytes (n : ObjNote) : List Byte :=
  let pad := fun (b : List Byte) => b ++ leBytes ((4 - b.length % 4) % 4) 0
  leBytes 4 n.name.length ++ leBytes 4 n.desc.length ++ leBytes 4 n.type ++ pad n.name ++ pad n.desc

/-- A section of an object (R360). -/
def sectionOf (name : String) (bytes : List Byte) : ObjSection :=
  let r := (sectionRule name).getD (0, 0, 0)
  ⟨name, r.1, r.2.1, r.2.2, bytes, bytes.length⟩

/-- The object of a source (R359 to R363). -/
def objectOf (src : Source) (p8 : Bool) (text data : List Byte) (headers : List (List Byte)) (relocs : List ObjReloc) : CodeObject :=
  let irev := match src.kernels.head? with | some k => if k.p6 then 0 else 1 | none => if p8 then 1 else 0
  let mmrev := ((src.kernels.map KernelDesc.rev).min?).getD irev
  let notes := producer :: src.notes
  let sections := [sectionOf ".text" text] ++ (if headers.isEmpty then [] else [sectionOf ".sirzin.kern" headers.flatten]) ++
    (if data.isEmpty then [] else [sectionOf ".data" data]) ++ [sectionOf ".note.sirzin" (notes.map noteBytes).flatten]
  { file := Config.elf (irev + 16 * mmrev) (sections.map fun x => (x.name, x.bytes)), eiClass := 2, eiData := 1, eiOsabi := 0, eType := 1,
    eMachine := 0xC5D8, eEntry := 0, eFlags := irev + 16 * mmrev, sections := sections,
    symbols := (List.range headers.length).map fun k => ⟨1, ".sirzin.kern", 128 * k⟩, relocs := relocs }

/-- What an invocation leaves (R348): its status, the lines on the standard error stream, the object and the listing with their names. -/
structure Result where
  status : Nat
  errors : List String := []
  object : Option (String × CodeObject) := none
  listing : Option (String × List String) := none
  deriving DecidableEq, Repr

/-- The name of the object file where none is given (R348). -/
def outName (s : String) : String :=
  let t := s.toList
  if [ 's', '.' ].isPrefixOf t.reverse then String.ofList (t.take (t.length - 2)) ++ ".o" else s ++ ".o"

/-- What a source comes to: its words with where they come from, its object, its diagnostics. -/
structure Assembled where
  cells : List Cell
  words : List Nat
  object : CodeObject
  diags : List Diag

/-- A source read and laid out, with the symbols that a reading before this one has found. -/
structure Reading where
  src : Source
  sites : List Site
  lay : Lay

/-- The symbols that a reading finds. -/
def Reading.symbols (r : Reading) : Env := r.src.env ++ r.lay.labels

/-- One reading of a source. -/
def readOnce (o : Options) (files : List (String × String)) (text : String) (found : Env) : Reading :=
  let src := readItems (readSource files o.dirs o.defs found (o.src, text)) (!o.p8)
  let sites := sitesOf src 0 none 0 src.items
  ⟨src, sites, settleXi src o.strict (refsOf src sites) sites (sites.length + 1) (sites.map fun _ => false)⟩

/-- A source read until every symbol stands for what the reading before has found: a directive or a condition may name a symbol that
only the whole text defines (R349, R350). A source that does not come to rest is E11. -/
def readAll (o : Options) (files : List (String × String)) (text : String) : Nat → Env → Reading
  | 0, found =>
    let r := readOnce o files text found
    if r.symbols = found then r else { r with src := r.src.say (err ⟨o.src, 1, [], 0⟩ 11) }
  | n + 1, found =>
    let r := readOnce o files text found
    if r.symbols = found ∨ (found = [] ∧ !(r.src.diags.any fun d => d.code == 11)) then r else readAll o files text n r.symbols

/-- A source assembled. -/
def assembleText (o : Options) (files : List (String × String)) (text : String) : Assembled :=
  let r := readAll o files text 16 []
  let (src, sites, y) := (r.src, r.sites, r.lay)
  let cells := y.cells.reverse
  let env := src.env ++ y.labels
  let enc := encodeAll env (limitsOf src cells) 0 cells
  let dat := dataOf env src.dataLen src.datums
  let hs := headersOf src y cells
  let found := src.diags ++ y.diags ++ windowErrors src sites 0 sites ++ enc.2 ++ dat.2 ++ hs.2 ++ checkAll src env cells
  let kept := (found.filter fun d => !(d.warn && o.quiet.contains d.code)).foldr insertDiag []
  { cells := cells, words := enc.1, diags := upTo o.werror o.most kept,
    object := objectOf src o.p8 (enc.1.map (leBytes 4)).flatten dat.1 hs.1 (relocsOf env 0 cells) }

/-- An invocation of horek among some files (R348). -/
def horek (args : List String) (files : List (String × String)) : Result :=
  match readArgs args false { src := "" } with
  | none => { status := 2 }
  | some o =>
    match files.find? fun f => f.1 == o.src with
    | none => { status := 2 }
    | some f =>
      let a := assembleText o files f.2
      let failed := a.diags.any fun d => !d.warn || o.werror
      { status := if failed then 1 else 0, errors := a.diags.map Diag.text,
        object := if failed then none else some (o.out.getD (outName o.src), a.object),
        listing := o.list.map fun n => (n, listingOf 0 (a.cells.zip a.words)) }

end Sys2Proof.Machine.Horek
end

