-- ==== Sys2Proof/Laws/Horek.lean ====
section
/-! SUPPORT. What the horek assembler writes (R348, R360, R363). -/

namespace Sys2Proof.Machine.Horek

/-- R348: an object is written only with status 0. -/
theorem horek_object (args : List String) (files : List (String × String)) (h : (horek args files).object.isSome) :
    (horek args files).status = 0 := by
  unfold horek at *
  split at h
  · simp at h
  · split at h
    · simp at h
    · simp only at *
      split
      · simp_all
      · rfl

/-- R360: every section of an object that horek writes is one that the loader takes. -/
theorem objectOf_sections (src : Source) (p8 : Bool) (text data : List Byte) (headers : List (List Byte)) (relocs : List ObjReloc) :
    (objectOf src p8 text data headers relocs).sections.all sectionOk = true := by
  have h : ∀ n b, n ∈ [".text", ".sirzin.kern", ".data", ".note.sirzin"] → sectionOk (sectionOf n b) = true := by
    intro n b hn
    simp only [List.mem_cons, List.not_mem_nil, or_false] at hn
    rcases hn with rfl | rfl | rfl | rfl <;> simp [sectionOk, sectionOf, sectionRule]
  simp only [objectOf, List.all_append, Bool.and_eq_true]
  refine ⟨⟨⟨?_, ?_⟩, ?_⟩, ?_⟩
  · simp [h]
  · split <;> simp [h]
  · split <;> simp [h]
  · simp [h]

/-- R363: the loader takes the note that names the tool. -/
theorem producer_ok : noteOk producer = true := by simp [noteOk, producer]

end Sys2Proof.Machine.Horek
end

