-- ==== Sys2Proof/Laws/PerInstr.lean ====
section
/-! SUPPORT. One statement about the encoding of every instruction, constructor by constructor. -/

namespace Sys2Proof.Laws.WordFits

/-- An instruction's encoding is one 32-bit word (R24); an event has none. -/
def Statement (i : Instr) : Prop := encode i < 2 ^ 32

theorem iadd (x0 : BitVec 2) (x1 : BitVec 7) (x2 : BitVec 7) (x3 : BitVec 7) : Statement (.iadd x0 x1 x2 x3) := by
  show 0x00000000 + x0.toNat * 0x1000000 + x1.toNat * 0x4000 + x2.toNat * 0x80 + x3.toNat < 2 ^ 32
  have h0 := x0.isLt; have h1 := x1.isLt; have h2 := x2.isLt; have h3 := x3.isLt; omega
theorem isub (x0 : BitVec 2) (x1 : BitVec 7) (x2 : BitVec 7) (x3 : BitVec 7) : Statement (.isub x0 x1 x2 x3) := by
  show 0x00200000 + x0.toNat * 0x1000000 + x1.toNat * 0x4000 + x2.toNat * 0x80 + x3.toNat < 2 ^ 32
  have h0 := x0.isLt; have h1 := x1.isLt; have h2 := x2.isLt; have h3 := x3.isLt; omega
theorem imul (x0 : BitVec 7) (x1 : BitVec 7) (x2 : BitVec 7) : Statement (.imul x0 x1 x2) := by
  show 0x00400000 + x0.toNat * 0x4000 + x1.toNat * 0x80 + x2.toNat < 2 ^ 32
  have h0 := x0.isLt; have h1 := x1.isLt; have h2 := x2.isLt; omega
theorem imulhS32 (x0 : BitVec 7) (x1 : BitVec 7) (x2 : BitVec 7) : Statement (.imulhS32 x0 x1 x2) := by
  show 0x00600000 + x0.toNat * 0x4000 + x1.toNat * 0x80 + x2.toNat < 2 ^ 32
  have h0 := x0.isLt; have h1 := x1.isLt; have h2 := x2.isLt; omega
theorem iminS32 (x0 : BitVec 7) (x1 : BitVec 7) (x2 : BitVec 7) : Statement (.iminS32 x0 x1 x2) := by
  show 0x00800000 + x0.toNat * 0x4000 + x1.toNat * 0x80 + x2.toNat < 2 ^ 32
  have h0 := x0.isLt; have h1 := x1.isLt; have h2 := x2.isLt; omega
theorem imaxS32 (x0 : BitVec 7) (x1 : BitVec 7) (x2 : BitVec 7) : Statement (.imaxS32 x0 x1 x2) := by
  show 0x00A00000 + x0.toNat * 0x4000 + x1.toNat * 0x80 + x2.toNat < 2 ^ 32
  have h0 := x0.isLt; have h1 := x1.isLt; have h2 := x2.isLt; omega
theorem imad (x0 : BitVec 7) (x1 : BitVec 7) (x2 : BitVec 7) : Statement (.imad x0 x1 x2) := by
  show 0x00C00000 + x0.toNat * 0x4000 + x1.toNat * 0x80 + x2.toNat < 2 ^ 32
  have h0 := x0.isLt; have h1 := x1.isLt; have h2 := x2.isLt; omega
theorem idp4S8 (x0 : BitVec 7) (x1 : BitVec 7) (x2 : BitVec 7) : Statement (.idp4S8 x0 x1 x2) := by
  show 0x00E00000 + x0.toNat * 0x4000 + x1.toNat * 0x80 + x2.toNat < 2 ^ 32
  have h0 := x0.isLt; have h1 := x1.isLt; have h2 := x2.isLt; omega
theorem iaddImm (x0 : BitVec 2) (x1 : BitVec 7) (x2 : BitVec 7) (x3 : BitVec 7) : Statement (.iaddImm x0 x1 x2 x3) := by
  show 0x04000000 + x0.toNat * 0x1000000 + x1.toNat * 0x4000 + x2.toNat * 0x80 + x3.toNat < 2 ^ 32
  have h0 := x0.isLt; have h1 := x1.isLt; have h2 := x2.isLt; have h3 := x3.isLt; omega
theorem isubImm (x0 : BitVec 2) (x1 : BitVec 7) (x2 : BitVec 7) (x3 : BitVec 7) : Statement (.isubImm x0 x1 x2 x3) := by
  show 0x04200000 + x0.toNat * 0x1000000 + x1.toNat * 0x4000 + x2.toNat * 0x80 + x3.toNat < 2 ^ 32
  have h0 := x0.isLt; have h1 := x1.isLt; have h2 := x2.isLt; have h3 := x3.isLt; omega
theorem imulImm (x0 : BitVec 7) (x1 : BitVec 7) (x2 : BitVec 7) : Statement (.imulImm x0 x1 x2) := by
  show 0x04400000 + x0.toNat * 0x4000 + x1.toNat * 0x80 + x2.toNat < 2 ^ 32
  have h0 := x0.isLt; have h1 := x1.isLt; have h2 := x2.isLt; omega
theorem imulhS32Imm (x0 : BitVec 7) (x1 : BitVec 7) (x2 : BitVec 7) : Statement (.imulhS32Imm x0 x1 x2) := by
  show 0x04600000 + x0.toNat * 0x4000 + x1.toNat * 0x80 + x2.toNat < 2 ^ 32
  have h0 := x0.isLt; have h1 := x1.isLt; have h2 := x2.isLt; omega
theorem iminS32Imm (x0 : BitVec 7) (x1 : BitVec 7) (x2 : BitVec 7) : Statement (.iminS32Imm x0 x1 x2) := by
  show 0x04800000 + x0.toNat * 0x4000 + x1.toNat * 0x80 + x2.toNat < 2 ^ 32
  have h0 := x0.isLt; have h1 := x1.isLt; have h2 := x2.isLt; omega
theorem imaxS32Imm (x0 : BitVec 7) (x1 : BitVec 7) (x2 : BitVec 7) : Statement (.imaxS32Imm x0 x1 x2) := by
  show 0x04A00000 + x0.toNat * 0x4000 + x1.toNat * 0x80 + x2.toNat < 2 ^ 32
  have h0 := x0.isLt; have h1 := x1.isLt; have h2 := x2.isLt; omega
theorem imadImm (x0 : BitVec 7) (x1 : BitVec 7) (x2 : BitVec 7) : Statement (.imadImm x0 x1 x2) := by
  show 0x04C00000 + x0.toNat * 0x4000 + x1.toNat * 0x80 + x2.toNat < 2 ^ 32
  have h0 := x0.isLt; have h1 := x1.isLt; have h2 := x2.isLt; omega
theorem iabs (x0 : BitVec 7) (x1 : BitVec 7) : Statement (.iabs x0 x1) := by
  show 0x08000000 + x0.toNat * 0x4000 + x1.toNat * 0x80 < 2 ^ 32
  have h0 := x0.isLt; have h1 := x1.isLt; omega
theorem imulhUi32 (x0 : BitVec 7) (x1 : BitVec 7) (x2 : BitVec 7) : Statement (.imulhUi32 x0 x1 x2) := by
  show 0x08200000 + x0.toNat * 0x4000 + x1.toNat * 0x80 + x2.toNat < 2 ^ 32
  have h0 := x0.isLt; have h1 := x1.isLt; have h2 := x2.isLt; omega
theorem iminUi32 (x0 : BitVec 7) (x1 : BitVec 7) (x2 : BitVec 7) : Statement (.iminUi32 x0 x1 x2) := by
  show 0x08400000 + x0.toNat * 0x4000 + x1.toNat * 0x80 + x2.toNat < 2 ^ 32
  have h0 := x0.isLt; have h1 := x1.isLt; have h2 := x2.isLt; omega
theorem imaxUi32 (x0 : BitVec 7) (x1 : BitVec 7) (x2 : BitVec 7) : Statement (.imaxUi32 x0 x1 x2) := by
  show 0x08600000 + x0.toNat * 0x4000 + x1.toNat * 0x80 + x2.toNat < 2 ^ 32
  have h0 := x0.isLt; have h1 := x1.isLt; have h2 := x2.isLt; omega
theorem idp4Ui8 (x0 : BitVec 7) (x1 : BitVec 7) (x2 : BitVec 7) : Statement (.idp4Ui8 x0 x1 x2) := by
  show 0x08800000 + x0.toNat * 0x4000 + x1.toNat * 0x80 + x2.toNat < 2 ^ 32
  have h0 := x0.isLt; have h1 := x1.isLt; have h2 := x2.isLt; omega
theorem lea (x0 : BitVec 3) (x1 : BitVec 7) (x2 : BitVec 7) (x3 : BitVec 7) : Statement (.lea x0 x1 x2 x3) := by
  show 0x0D000000 + x0.toNat * 0x200000 + x1.toNat * 0x4000 + x2.toNat * 0x80 + x3.toNat < 2 ^ 32
  have h0 := x0.isLt; have h1 := x1.isLt; have h2 := x2.isLt; have h3 := x3.isLt; omega
theorem and (x0 : BitVec 7) (x1 : BitVec 7) (x2 : BitVec 7) : Statement (.and x0 x1 x2) := by
  show 0x10000000 + x0.toNat * 0x4000 + x1.toNat * 0x80 + x2.toNat < 2 ^ 32
  have h0 := x0.isLt; have h1 := x1.isLt; have h2 := x2.isLt; omega
theorem or (x0 : BitVec 7) (x1 : BitVec 7) (x2 : BitVec 7) : Statement (.or x0 x1 x2) := by
  show 0x10200000 + x0.toNat * 0x4000 + x1.toNat * 0x80 + x2.toNat < 2 ^ 32
  have h0 := x0.isLt; have h1 := x1.isLt; have h2 := x2.isLt; omega
theorem xor (x0 : BitVec 7) (x1 : BitVec 7) (x2 : BitVec 7) : Statement (.xor x0 x1 x2) := by
  show 0x10400000 + x0.toNat * 0x4000 + x1.toNat * 0x80 + x2.toNat < 2 ^ 32
  have h0 := x0.isLt; have h1 := x1.isLt; have h2 := x2.isLt; omega
theorem andn (x0 : BitVec 7) (x1 : BitVec 7) (x2 : BitVec 7) : Statement (.andn x0 x1 x2) := by
  show 0x10600000 + x0.toNat * 0x4000 + x1.toNat * 0x80 + x2.toNat < 2 ^ 32
  have h0 := x0.isLt; have h1 := x1.isLt; have h2 := x2.isLt; omega
theorem shl (x0 : BitVec 7) (x1 : BitVec 7) (x2 : BitVec 7) : Statement (.shl x0 x1 x2) := by
  show 0x10800000 + x0.toNat * 0x4000 + x1.toNat * 0x80 + x2.toNat < 2 ^ 32
  have h0 := x0.isLt; have h1 := x1.isLt; have h2 := x2.isLt; omega
theorem shr (x0 : BitVec 7) (x1 : BitVec 7) (x2 : BitVec 7) : Statement (.shr x0 x1 x2) := by
  show 0x10A00000 + x0.toNat * 0x4000 + x1.toNat * 0x80 + x2.toNat < 2 ^ 32
  have h0 := x0.isLt; have h1 := x1.isLt; have h2 := x2.isLt; omega
theorem sar (x0 : BitVec 7) (x1 : BitVec 7) (x2 : BitVec 7) : Statement (.sar x0 x1 x2) := by
  show 0x10C00000 + x0.toNat * 0x4000 + x1.toNat * 0x80 + x2.toNat < 2 ^ 32
  have h0 := x0.isLt; have h1 := x1.isLt; have h2 := x2.isLt; omega
theorem shf (x0 : BitVec 7) (x1 : BitVec 7) (x2 : BitVec 7) : Statement (.shf x0 x1 x2) := by
  show 0x10E00000 + x0.toNat * 0x4000 + x1.toNat * 0x80 + x2.toNat < 2 ^ 32
  have h0 := x0.isLt; have h1 := x1.isLt; have h2 := x2.isLt; omega
theorem andImm (x0 : BitVec 7) (x1 : BitVec 7) (x2 : BitVec 7) : Statement (.andImm x0 x1 x2) := by
  show 0x14000000 + x0.toNat * 0x4000 + x1.toNat * 0x80 + x2.toNat < 2 ^ 32
  have h0 := x0.isLt; have h1 := x1.isLt; have h2 := x2.isLt; omega
theorem orImm (x0 : BitVec 7) (x1 : BitVec 7) (x2 : BitVec 7) : Statement (.orImm x0 x1 x2) := by
  show 0x14200000 + x0.toNat * 0x4000 + x1.toNat * 0x80 + x2.toNat < 2 ^ 32
  have h0 := x0.isLt; have h1 := x1.isLt; have h2 := x2.isLt; omega
theorem xorImm (x0 : BitVec 7) (x1 : BitVec 7) (x2 : BitVec 7) : Statement (.xorImm x0 x1 x2) := by
  show 0x14400000 + x0.toNat * 0x4000 + x1.toNat * 0x80 + x2.toNat < 2 ^ 32
  have h0 := x0.isLt; have h1 := x1.isLt; have h2 := x2.isLt; omega
theorem andnImm (x0 : BitVec 7) (x1 : BitVec 7) (x2 : BitVec 7) : Statement (.andnImm x0 x1 x2) := by
  show 0x14600000 + x0.toNat * 0x4000 + x1.toNat * 0x80 + x2.toNat < 2 ^ 32
  have h0 := x0.isLt; have h1 := x1.isLt; have h2 := x2.isLt; omega
theorem shlImm (x0 : BitVec 7) (x1 : BitVec 7) (x2 : BitVec 7) : Statement (.shlImm x0 x1 x2) := by
  show 0x14800000 + x0.toNat * 0x4000 + x1.toNat * 0x80 + x2.toNat < 2 ^ 32
  have h0 := x0.isLt; have h1 := x1.isLt; have h2 := x2.isLt; omega
theorem shrImm (x0 : BitVec 7) (x1 : BitVec 7) (x2 : BitVec 7) : Statement (.shrImm x0 x1 x2) := by
  show 0x14A00000 + x0.toNat * 0x4000 + x1.toNat * 0x80 + x2.toNat < 2 ^ 32
  have h0 := x0.isLt; have h1 := x1.isLt; have h2 := x2.isLt; omega
theorem sarImm (x0 : BitVec 7) (x1 : BitVec 7) (x2 : BitVec 7) : Statement (.sarImm x0 x1 x2) := by
  show 0x14C00000 + x0.toNat * 0x4000 + x1.toNat * 0x80 + x2.toNat < 2 ^ 32
  have h0 := x0.isLt; have h1 := x1.isLt; have h2 := x2.isLt; omega
theorem shfImm (x0 : BitVec 7) (x1 : BitVec 7) (x2 : BitVec 7) : Statement (.shfImm x0 x1 x2) := by
  show 0x14E00000 + x0.toNat * 0x4000 + x1.toNat * 0x80 + x2.toNat < 2 ^ 32
  have h0 := x0.isLt; have h1 := x1.isLt; have h2 := x2.isLt; omega
theorem popc (x0 : BitVec 7) (x1 : BitVec 7) : Statement (.popc x0 x1) := by
  show 0x18000000 + x0.toNat * 0x4000 + x1.toNat * 0x80 < 2 ^ 32
  have h0 := x0.isLt; have h1 := x1.isLt; omega
theorem clz (x0 : BitVec 7) (x1 : BitVec 7) : Statement (.clz x0 x1) := by
  show 0x18200000 + x0.toNat * 0x4000 + x1.toNat * 0x80 < 2 ^ 32
  have h0 := x0.isLt; have h1 := x1.isLt; omega
theorem brev (x0 : BitVec 7) (x1 : BitVec 7) : Statement (.brev x0 x1) := by
  show 0x18400000 + x0.toNat * 0x4000 + x1.toNat * 0x80 < 2 ^ 32
  have h0 := x0.isLt; have h1 := x1.isLt; omega
theorem bfxS32 (x0 : BitVec 7) (x1 : BitVec 7) (x2 : BitVec 7) : Statement (.bfxS32 x0 x1 x2) := by
  show 0x18600000 + x0.toNat * 0x4000 + x1.toNat * 0x80 + x2.toNat < 2 ^ 32
  have h0 := x0.isLt; have h1 := x1.isLt; have h2 := x2.isLt; omega
theorem bfxUi32 (x0 : BitVec 7) (x1 : BitVec 7) (x2 : BitVec 7) : Statement (.bfxUi32 x0 x1 x2) := by
  show 0x18800000 + x0.toNat * 0x4000 + x1.toNat * 0x80 + x2.toNat < 2 ^ 32
  have h0 := x0.isLt; have h1 := x1.isLt; have h2 := x2.isLt; omega
theorem bfi (x0 : BitVec 7) (x1 : BitVec 7) (x2 : BitVec 7) : Statement (.bfi x0 x1 x2) := by
  show 0x18A00000 + x0.toNat * 0x4000 + x1.toNat * 0x80 + x2.toNat < 2 ^ 32
  have h0 := x0.isLt; have h1 := x1.isLt; have h2 := x2.isLt; omega
theorem prmt (x0 : BitVec 7) (x1 : BitVec 7) (x2 : BitVec 7) : Statement (.prmt x0 x1 x2) := by
  show 0x18C00000 + x0.toNat * 0x4000 + x1.toNat * 0x80 + x2.toNat < 2 ^ 32
  have h0 := x0.isLt; have h1 := x1.isLt; have h2 := x2.isLt; omega
theorem bfxS32Imm (x0 : BitVec 7) (x1 : BitVec 7) (x2 : BitVec 7) : Statement (.bfxS32Imm x0 x1 x2) := by
  show 0x1C600000 + x0.toNat * 0x4000 + x1.toNat * 0x80 + x2.toNat < 2 ^ 32
  have h0 := x0.isLt; have h1 := x1.isLt; have h2 := x2.isLt; omega
theorem bfxUi32Imm (x0 : BitVec 7) (x1 : BitVec 7) (x2 : BitVec 7) : Statement (.bfxUi32Imm x0 x1 x2) := by
  show 0x1C800000 + x0.toNat * 0x4000 + x1.toNat * 0x80 + x2.toNat < 2 ^ 32
  have h0 := x0.isLt; have h1 := x1.isLt; have h2 := x2.isLt; omega
theorem bfiImm (x0 : BitVec 7) (x1 : BitVec 7) (x2 : BitVec 7) : Statement (.bfiImm x0 x1 x2) := by
  show 0x1CA00000 + x0.toNat * 0x4000 + x1.toNat * 0x80 + x2.toNat < 2 ^ 32
  have h0 := x0.isLt; have h1 := x1.isLt; have h2 := x2.isLt; omega
theorem prmtImm (x0 : BitVec 7) (x1 : BitVec 7) (x2 : BitVec 7) : Statement (.prmtImm x0 x1 x2) := by
  show 0x1CC00000 + x0.toNat * 0x4000 + x1.toNat * 0x80 + x2.toNat < 2 ^ 32
  have h0 := x0.isLt; have h1 := x1.isLt; have h2 := x2.isLt; omega
theorem icmpS32 (x0 : BitVec 3) (x1 : BitVec 3) (x2 : BitVec 7) (x3 : BitVec 7) : Statement (.icmpS32 x0 x1 x2 x3) := by
  show 0x20000000 + x0.toNat * 0x200000 + x1.toNat * 0x4000 + x2.toNat * 0x80 + x3.toNat < 2 ^ 32
  have h0 := x0.isLt; have h1 := x1.isLt; have h2 := x2.isLt; have h3 := x3.isLt; omega
theorem icmpS32Imm (x0 : BitVec 3) (x1 : BitVec 3) (x2 : BitVec 7) (x3 : BitVec 7) : Statement (.icmpS32Imm x0 x1 x2 x3) := by
  show 0x24000000 + x0.toNat * 0x200000 + x1.toNat * 0x4000 + x2.toNat * 0x80 + x3.toNat < 2 ^ 32
  have h0 := x0.isLt; have h1 := x1.isLt; have h2 := x2.isLt; have h3 := x3.isLt; omega
theorem icmpUi32 (x0 : BitVec 3) (x1 : BitVec 3) (x2 : BitVec 7) (x3 : BitVec 7) : Statement (.icmpUi32 x0 x1 x2 x3) := by
  show 0x28000000 + x0.toNat * 0x200000 + x1.toNat * 0x4000 + x2.toNat * 0x80 + x3.toNat < 2 ^ 32
  have h0 := x0.isLt; have h1 := x1.isLt; have h2 := x2.isLt; have h3 := x3.isLt; omega
theorem icmpUi32Imm (x0 : BitVec 3) (x1 : BitVec 3) (x2 : BitVec 7) (x3 : BitVec 7) : Statement (.icmpUi32Imm x0 x1 x2 x3) := by
  show 0x2C000000 + x0.toNat * 0x200000 + x1.toNat * 0x4000 + x2.toNat * 0x80 + x3.toNat < 2 ^ 32
  have h0 := x0.isLt; have h1 := x1.isLt; have h2 := x2.isLt; have h3 := x3.isLt; omega
theorem plop (x0 : BitVec 3) (x1 : BitVec 3) (x2 : BitVec 4) (x3 : BitVec 3) (x4 : BitVec 4) (x5 : BitVec 3) : Statement (.plop x0 x1 x2 x3 x4 x5) := by
  show 0x30000000 + x0.toNat * 0x200000 + x1.toNat * 0x4000 + x2.toNat * 0x400 + x3.toNat * 0x80 + x4.toNat * 0x8 + x5.toNat < 2 ^ 32
  have h0 := x0.isLt; have h1 := x1.isLt; have h2 := x2.isLt; have h3 := x3.isLt; have h4 := x4.isLt; have h5 := x5.isLt; omega
theorem pmovToPred (x0 : BitVec 3) (x1 : BitVec 7) : Statement (.pmovToPred x0 x1) := by
  show 0x31000000 + x0.toNat * 0x4000 + x1.toNat * 0x80 < 2 ^ 32
  have h0 := x0.isLt; have h1 := x1.isLt; omega
theorem pmovToReg (x0 : BitVec 7) (x1 : BitVec 3) : Statement (.pmovToReg x0 x1) := by
  show 0x32000000 + x0.toNat * 0x4000 + x1.toNat * 0x80 < 2 ^ 32
  have h0 := x0.isLt; have h1 := x1.isLt; omega
theorem sel (x0 : BitVec 3) (x1 : BitVec 7) (x2 : BitVec 7) (x3 : BitVec 7) : Statement (.sel x0 x1 x2 x3) := by
  show 0x34000000 + x0.toNat * 0x200000 + x1.toNat * 0x4000 + x2.toNat * 0x80 + x3.toNat < 2 ^ 32
  have h0 := x0.isLt; have h1 := x1.isLt; have h2 := x2.isLt; have h3 := x3.isLt; omega
theorem mov (x0 : BitVec 2) (x1 : BitVec 7) (x2 : BitVec 7) : Statement (.mov x0 x1 x2) := by
  show 0x38000000 + x0.toNat * 0x1000000 + x1.toNat * 0x4000 + x2.toNat * 0x80 < 2 ^ 32
  have h0 := x0.isLt; have h1 := x1.isLt; have h2 := x2.isLt; omega
theorem movi (x0 : BitVec 7) (x1 : BitVec 14) : Statement (.movi x0 x1) := by
  show 0x3C000000 + x0.toNat * 0x4000 + x1.toNat < 2 ^ 32
  have h0 := x0.isLt; have h1 := x1.isLt; omega
theorem moviX2 (x0 : BitVec 7) (x1 : BitVec 14) : Statement (.moviX2 x0 x1) := by
  show 0x3C200000 + x0.toNat * 0x4000 + x1.toNat < 2 ^ 32
  have h0 := x0.isLt; have h1 := x1.isLt; omega
theorem fadd (x0 : BitVec 2) (x1 : BitVec 7) (x2 : BitVec 7) (x3 : BitVec 7) : Statement (.fadd x0 x1 x2 x3) := by
  show 0x40000000 + x0.toNat * 0x1000000 + x1.toNat * 0x4000 + x2.toNat * 0x80 + x3.toNat < 2 ^ 32
  have h0 := x0.isLt; have h1 := x1.isLt; have h2 := x2.isLt; have h3 := x3.isLt; omega
theorem fsub (x0 : BitVec 2) (x1 : BitVec 7) (x2 : BitVec 7) (x3 : BitVec 7) : Statement (.fsub x0 x1 x2 x3) := by
  show 0x40200000 + x0.toNat * 0x1000000 + x1.toNat * 0x4000 + x2.toNat * 0x80 + x3.toNat < 2 ^ 32
  have h0 := x0.isLt; have h1 := x1.isLt; have h2 := x2.isLt; have h3 := x3.isLt; omega
theorem fmul (x0 : BitVec 2) (x1 : BitVec 7) (x2 : BitVec 7) (x3 : BitVec 7) : Statement (.fmul x0 x1 x2 x3) := by
  show 0x40400000 + x0.toNat * 0x1000000 + x1.toNat * 0x4000 + x2.toNat * 0x80 + x3.toNat < 2 ^ 32
  have h0 := x0.isLt; have h1 := x1.isLt; have h2 := x2.isLt; have h3 := x3.isLt; omega
theorem ffma (x0 : BitVec 2) (x1 : BitVec 7) (x2 : BitVec 7) (x3 : BitVec 7) : Statement (.ffma x0 x1 x2 x3) := by
  show 0x40600000 + x0.toNat * 0x1000000 + x1.toNat * 0x4000 + x2.toNat * 0x80 + x3.toNat < 2 ^ 32
  have h0 := x0.isLt; have h1 := x1.isLt; have h2 := x2.isLt; have h3 := x3.isLt; omega
theorem fmin (x0 : BitVec 7) (x1 : BitVec 7) (x2 : BitVec 7) : Statement (.fmin x0 x1 x2) := by
  show 0x40800000 + x0.toNat * 0x4000 + x1.toNat * 0x80 + x2.toNat < 2 ^ 32
  have h0 := x0.isLt; have h1 := x1.isLt; have h2 := x2.isLt; omega
theorem fmax (x0 : BitVec 7) (x1 : BitVec 7) (x2 : BitVec 7) : Statement (.fmax x0 x1 x2) := by
  show 0x40A00000 + x0.toNat * 0x4000 + x1.toNat * 0x80 + x2.toNat < 2 ^ 32
  have h0 := x0.isLt; have h1 := x1.isLt; have h2 := x2.isLt; omega
theorem fclass (x0 : BitVec 7) (x1 : BitVec 7) : Statement (.fclass x0 x1) := by
  show 0x40C00000 + x0.toNat * 0x4000 + x1.toNat * 0x80 < 2 ^ 32
  have h0 := x0.isLt; have h1 := x1.isLt; omega
theorem faddImm (x0 : BitVec 2) (x1 : BitVec 7) (x2 : BitVec 7) (x3 : BitVec 7) : Statement (.faddImm x0 x1 x2 x3) := by
  show 0x44000000 + x0.toNat * 0x1000000 + x1.toNat * 0x4000 + x2.toNat * 0x80 + x3.toNat < 2 ^ 32
  have h0 := x0.isLt; have h1 := x1.isLt; have h2 := x2.isLt; have h3 := x3.isLt; omega
theorem fsubImm (x0 : BitVec 2) (x1 : BitVec 7) (x2 : BitVec 7) (x3 : BitVec 7) : Statement (.fsubImm x0 x1 x2 x3) := by
  show 0x44200000 + x0.toNat * 0x1000000 + x1.toNat * 0x4000 + x2.toNat * 0x80 + x3.toNat < 2 ^ 32
  have h0 := x0.isLt; have h1 := x1.isLt; have h2 := x2.isLt; have h3 := x3.isLt; omega
theorem fmulImm (x0 : BitVec 2) (x1 : BitVec 7) (x2 : BitVec 7) (x3 : BitVec 7) : Statement (.fmulImm x0 x1 x2 x3) := by
  show 0x44400000 + x0.toNat * 0x1000000 + x1.toNat * 0x4000 + x2.toNat * 0x80 + x3.toNat < 2 ^ 32
  have h0 := x0.isLt; have h1 := x1.isLt; have h2 := x2.isLt; have h3 := x3.isLt; omega
theorem ffmaImm (x0 : BitVec 2) (x1 : BitVec 7) (x2 : BitVec 7) (x3 : BitVec 7) : Statement (.ffmaImm x0 x1 x2 x3) := by
  show 0x44600000 + x0.toNat * 0x1000000 + x1.toNat * 0x4000 + x2.toNat * 0x80 + x3.toNat < 2 ^ 32
  have h0 := x0.isLt; have h1 := x1.isLt; have h2 := x2.isLt; have h3 := x3.isLt; omega
theorem fminImm (x0 : BitVec 7) (x1 : BitVec 7) (x2 : BitVec 7) : Statement (.fminImm x0 x1 x2) := by
  show 0x44800000 + x0.toNat * 0x4000 + x1.toNat * 0x80 + x2.toNat < 2 ^ 32
  have h0 := x0.isLt; have h1 := x1.isLt; have h2 := x2.isLt; omega
theorem fmaxImm (x0 : BitVec 7) (x1 : BitVec 7) (x2 : BitVec 7) : Statement (.fmaxImm x0 x1 x2) := by
  show 0x44A00000 + x0.toNat * 0x4000 + x1.toNat * 0x80 + x2.toNat < 2 ^ 32
  have h0 := x0.isLt; have h1 := x1.isLt; have h2 := x2.isLt; omega
theorem fcmp (x0 : BitVec 3) (x1 : BitVec 3) (x2 : BitVec 7) (x3 : BitVec 7) : Statement (.fcmp x0 x1 x2 x3) := by
  show 0x48000000 + x0.toNat * 0x200000 + x1.toNat * 0x4000 + x2.toNat * 0x80 + x3.toNat < 2 ^ 32
  have h0 := x0.isLt; have h1 := x1.isLt; have h2 := x2.isLt; have h3 := x3.isLt; omega
theorem fcmpImm (x0 : BitVec 3) (x1 : BitVec 3) (x2 : BitVec 7) (x3 : BitVec 7) : Statement (.fcmpImm x0 x1 x2 x3) := by
  show 0x4C000000 + x0.toNat * 0x200000 + x1.toNat * 0x4000 + x2.toNat * 0x80 + x3.toNat < 2 ^ 32
  have h0 := x0.isLt; have h1 := x1.isLt; have h2 := x2.isLt; have h3 := x3.isLt; omega
theorem hadd2 (x0 : BitVec 2) (x1 : BitVec 1) (x2 : BitVec 7) (x3 : BitVec 7) (x4 : BitVec 7) : Statement (.hadd2 x0 x1 x2 x3 x4) := by
  show 0x50000000 + x0.toNat * 0x1000000 + x1.toNat * 0x800000 + x2.toNat * 0x4000 + x3.toNat * 0x80 + x4.toNat < 2 ^ 32
  have h0 := x0.isLt; have h1 := x1.isLt; have h2 := x2.isLt; have h3 := x3.isLt; have h4 := x4.isLt; omega
theorem hmul2 (x0 : BitVec 2) (x1 : BitVec 1) (x2 : BitVec 7) (x3 : BitVec 7) (x4 : BitVec 7) : Statement (.hmul2 x0 x1 x2 x3 x4) := by
  show 0x50200000 + x0.toNat * 0x1000000 + x1.toNat * 0x800000 + x2.toNat * 0x4000 + x3.toNat * 0x80 + x4.toNat < 2 ^ 32
  have h0 := x0.isLt; have h1 := x1.isLt; have h2 := x2.isLt; have h3 := x3.isLt; have h4 := x4.isLt; omega
theorem hfma2 (x0 : BitVec 2) (x1 : BitVec 1) (x2 : BitVec 7) (x3 : BitVec 7) (x4 : BitVec 7) : Statement (.hfma2 x0 x1 x2 x3 x4) := by
  show 0x50400000 + x0.toNat * 0x1000000 + x1.toNat * 0x800000 + x2.toNat * 0x4000 + x3.toNat * 0x80 + x4.toNat < 2 ^ 32
  have h0 := x0.isLt; have h1 := x1.isLt; have h2 := x2.isLt; have h3 := x3.isLt; have h4 := x4.isLt; omega
theorem hmax2 (x0 : BitVec 1) (x1 : BitVec 7) (x2 : BitVec 7) (x3 : BitVec 7) : Statement (.hmax2 x0 x1 x2 x3) := by
  show 0x50600000 + x0.toNat * 0x800000 + x1.toNat * 0x4000 + x2.toNat * 0x80 + x3.toNat < 2 ^ 32
  have h0 := x0.isLt; have h1 := x1.isLt; have h2 := x2.isLt; have h3 := x3.isLt; omega
theorem rcp (x0 : BitVec 2) (x1 : BitVec 7) (x2 : BitVec 7) : Statement (.rcp x0 x1 x2) := by
  show 0x60000000 + x0.toNat * 0x1000000 + x1.toNat * 0x4000 + x2.toNat * 0x80 < 2 ^ 32
  have h0 := x0.isLt; have h1 := x1.isLt; have h2 := x2.isLt; omega
theorem rsq (x0 : BitVec 7) (x1 : BitVec 7) : Statement (.rsq x0 x1) := by
  show 0x60200000 + x0.toNat * 0x4000 + x1.toNat * 0x80 < 2 ^ 32
  have h0 := x0.isLt; have h1 := x1.isLt; omega
theorem sqrt (x0 : BitVec 2) (x1 : BitVec 7) (x2 : BitVec 7) : Statement (.sqrt x0 x1 x2) := by
  show 0x60400000 + x0.toNat * 0x1000000 + x1.toNat * 0x4000 + x2.toNat * 0x80 < 2 ^ 32
  have h0 := x0.isLt; have h1 := x1.isLt; have h2 := x2.isLt; omega
theorem ex2 (x0 : BitVec 7) (x1 : BitVec 7) : Statement (.ex2 x0 x1) := by
  show 0x60600000 + x0.toNat * 0x4000 + x1.toNat * 0x80 < 2 ^ 32
  have h0 := x0.isLt; have h1 := x1.isLt; omega
theorem lg2 (x0 : BitVec 7) (x1 : BitVec 7) : Statement (.lg2 x0 x1) := by
  show 0x60800000 + x0.toNat * 0x4000 + x1.toNat * 0x80 < 2 ^ 32
  have h0 := x0.isLt; have h1 := x1.isLt; omega
theorem sin (x0 : BitVec 7) (x1 : BitVec 7) : Statement (.sin x0 x1) := by
  show 0x60A00000 + x0.toNat * 0x4000 + x1.toNat * 0x80 < 2 ^ 32
  have h0 := x0.isLt; have h1 := x1.isLt; omega
theorem cos (x0 : BitVec 7) (x1 : BitVec 7) : Statement (.cos x0 x1) := by
  show 0x60C00000 + x0.toNat * 0x4000 + x1.toNat * 0x80 < 2 ^ 32
  have h0 := x0.isLt; have h1 := x1.isLt; omega
theorem tanh (x0 : BitVec 7) (x1 : BitVec 7) : Statement (.tanh x0 x1) := by
  show 0x60E00000 + x0.toNat * 0x4000 + x1.toNat * 0x80 < 2 ^ 32
  have h0 := x0.isLt; have h1 := x1.isLt; omega
theorem cvt (x0 : BitVec 2) (x1 : BitVec 3) (x2 : BitVec 7) (x3 : BitVec 7) (x4 : BitVec 4) (x5 : BitVec 1) (x6 : BitVec 1) : Statement (.cvt x0 x1 x2 x3 x4 x5 x6) := by
  show 0x64000000 + x0.toNat * 0x1000000 + x1.toNat * 0x200000 + x2.toNat * 0x4000 + x3.toNat * 0x80 + x4.toNat * 0x8 + x5.toNat * 0x4 + x6.toNat * 0x2 < 2 ^ 32
  have h0 := x0.isLt; have h1 := x1.isLt; have h2 := x2.isLt; have h3 := x3.isLt; have h4 := x4.isLt; have h5 := x5.isLt; have h6 := x6.isLt; omega
theorem cvtsr (x0 : BitVec 1) (x1 : BitVec 2) (x2 : BitVec 7) (x3 : BitVec 7) (x4 : BitVec 7) : Statement (.cvtsr x0 x1 x2 x3 x4) := by
  show 0x68000000 + x0.toNat * 0x1000000 + x1.toNat * 0x200000 + x2.toNat * 0x4000 + x3.toNat * 0x80 + x4.toNat < 2 ^ 32
  have h0 := x0.isLt; have h1 := x1.isLt; have h2 := x2.isLt; have h3 := x3.isLt; have h4 := x4.isLt; omega
theorem rng (x0 : BitVec 7) (x1 : BitVec 7) (x2 : BitVec 7) : Statement (.rng x0 x1 x2) := by
  show 0x6C000000 + x0.toNat * 0x4000 + x1.toNat * 0x80 + x2.toNat < 2 ^ 32
  have h0 := x0.isLt; have h1 := x1.isLt; have h2 := x2.isLt; omega
theorem shfl (x0 : BitVec 7) (x1 : BitVec 7) (x2 : BitVec 7) : Statement (.shfl x0 x1 x2) := by
  show 0x70000000 + x0.toNat * 0x4000 + x1.toNat * 0x80 + x2.toNat < 2 ^ 32
  have h0 := x0.isLt; have h1 := x1.isLt; have h2 := x2.isLt; omega
theorem shflx (x0 : BitVec 7) (x1 : BitVec 7) (x2 : BitVec 7) : Statement (.shflx x0 x1 x2) := by
  show 0x70200000 + x0.toNat * 0x4000 + x1.toNat * 0x80 + x2.toNat < 2 ^ 32
  have h0 := x0.isLt; have h1 := x1.isLt; have h2 := x2.isLt; omega
theorem shflup (x0 : BitVec 7) (x1 : BitVec 7) (x2 : BitVec 7) : Statement (.shflup x0 x1 x2) := by
  show 0x70400000 + x0.toNat * 0x4000 + x1.toNat * 0x80 + x2.toNat < 2 ^ 32
  have h0 := x0.isLt; have h1 := x1.isLt; have h2 := x2.isLt; omega
theorem shfldn (x0 : BitVec 7) (x1 : BitVec 7) (x2 : BitVec 7) : Statement (.shfldn x0 x1 x2) := by
  show 0x70600000 + x0.toNat * 0x4000 + x1.toNat * 0x80 + x2.toNat < 2 ^ 32
  have h0 := x0.isLt; have h1 := x1.isLt; have h2 := x2.isLt; omega
theorem qswz (x0 : BitVec 7) (x1 : BitVec 7) (x2 : BitVec 7) : Statement (.qswz x0 x1 x2) := by
  show 0x70800000 + x0.toNat * 0x4000 + x1.toNat * 0x80 + x2.toNat < 2 ^ 32
  have h0 := x0.isLt; have h1 := x1.isLt; have h2 := x2.isLt; omega
theorem qbc (x0 : BitVec 7) (x1 : BitVec 7) (x2 : BitVec 7) : Statement (.qbc x0 x1 x2) := by
  show 0x70A00000 + x0.toNat * 0x4000 + x1.toNat * 0x80 + x2.toNat < 2 ^ 32
  have h0 := x0.isLt; have h1 := x1.isLt; have h2 := x2.isLt; omega
theorem lbc (x0 : BitVec 7) (x1 : BitVec 7) (x2 : BitVec 7) : Statement (.lbc x0 x1 x2) := by
  show 0x70C00000 + x0.toNat * 0x4000 + x1.toNat * 0x80 + x2.toNat < 2 ^ 32
  have h0 := x0.isLt; have h1 := x1.isLt; have h2 := x2.isLt; omega
theorem shflImm (x0 : BitVec 7) (x1 : BitVec 7) (x2 : BitVec 7) : Statement (.shflImm x0 x1 x2) := by
  show 0x74000000 + x0.toNat * 0x4000 + x1.toNat * 0x80 + x2.toNat < 2 ^ 32
  have h0 := x0.isLt; have h1 := x1.isLt; have h2 := x2.isLt; omega
theorem shflxImm (x0 : BitVec 7) (x1 : BitVec 7) (x2 : BitVec 7) : Statement (.shflxImm x0 x1 x2) := by
  show 0x74200000 + x0.toNat * 0x4000 + x1.toNat * 0x80 + x2.toNat < 2 ^ 32
  have h0 := x0.isLt; have h1 := x1.isLt; have h2 := x2.isLt; omega
theorem shflupImm (x0 : BitVec 7) (x1 : BitVec 7) (x2 : BitVec 7) : Statement (.shflupImm x0 x1 x2) := by
  show 0x74400000 + x0.toNat * 0x4000 + x1.toNat * 0x80 + x2.toNat < 2 ^ 32
  have h0 := x0.isLt; have h1 := x1.isLt; have h2 := x2.isLt; omega
theorem shfldnImm (x0 : BitVec 7) (x1 : BitVec 7) (x2 : BitVec 7) : Statement (.shfldnImm x0 x1 x2) := by
  show 0x74600000 + x0.toNat * 0x4000 + x1.toNat * 0x80 + x2.toNat < 2 ^ 32
  have h0 := x0.isLt; have h1 := x1.isLt; have h2 := x2.isLt; omega
theorem qswzImm (x0 : BitVec 7) (x1 : BitVec 7) (x2 : BitVec 7) : Statement (.qswzImm x0 x1 x2) := by
  show 0x74800000 + x0.toNat * 0x4000 + x1.toNat * 0x80 + x2.toNat < 2 ^ 32
  have h0 := x0.isLt; have h1 := x1.isLt; have h2 := x2.isLt; omega
theorem qbcImm (x0 : BitVec 7) (x1 : BitVec 7) (x2 : BitVec 7) : Statement (.qbcImm x0 x1 x2) := by
  show 0x74A00000 + x0.toNat * 0x4000 + x1.toNat * 0x80 + x2.toNat < 2 ^ 32
  have h0 := x0.isLt; have h1 := x1.isLt; have h2 := x2.isLt; omega
theorem lbcImm (x0 : BitVec 7) (x1 : BitVec 7) (x2 : BitVec 7) : Statement (.lbcImm x0 x1 x2) := by
  show 0x74C00000 + x0.toNat * 0x4000 + x1.toNat * 0x80 + x2.toNat < 2 ^ 32
  have h0 := x0.isLt; have h1 := x1.isLt; have h2 := x2.isLt; omega
theorem voteAll (x0 : BitVec 7) (x1 : BitVec 3) : Statement (.voteAll x0 x1) := by
  show 0x78000000 + x0.toNat * 0x4000 + x1.toNat * 0x80 < 2 ^ 32
  have h0 := x0.isLt; have h1 := x1.isLt; omega
theorem voteAny (x0 : BitVec 7) (x1 : BitVec 3) : Statement (.voteAny x0 x1) := by
  show 0x78200000 + x0.toNat * 0x4000 + x1.toNat * 0x80 < 2 ^ 32
  have h0 := x0.isLt; have h1 := x1.isLt; omega
theorem voteBallot (x0 : BitVec 7) (x1 : BitVec 3) : Statement (.voteBallot x0 x1) := by
  show 0x79400000 + x0.toNat * 0x4000 + x1.toNat * 0x80 < 2 ^ 32
  have h0 := x0.isLt; have h1 := x1.isLt; omega
theorem matchLanes (x0 : BitVec 7) (x1 : BitVec 7) : Statement (.matchLanes x0 x1) := by
  show 0x79600000 + x0.toNat * 0x4000 + x1.toNat * 0x80 < 2 ^ 32
  have h0 := x0.isLt; have h1 := x1.isLt; omega
theorem trn8B8 (x0 : BitVec 7) (x1 : BitVec 7) : Statement (.trn8B8 x0 x1) := by
  show 0x79800000 + x0.toNat * 0x4000 + x1.toNat * 0x80 < 2 ^ 32
  have h0 := x0.isLt; have h1 := x1.isLt; omega
theorem trn8B16 (x0 : BitVec 7) (x1 : BitVec 7) : Statement (.trn8B16 x0 x1) := by
  show 0x7AA00000 + x0.toNat * 0x4000 + x1.toNat * 0x80 < 2 ^ 32
  have h0 := x0.isLt; have h1 := x1.isLt; omega
theorem trn8B32 (x0 : BitVec 7) (x1 : BitVec 7) : Statement (.trn8B32 x0 x1) := by
  show 0x7BC00000 + x0.toNat * 0x4000 + x1.toNat * 0x80 < 2 ^ 32
  have h0 := x0.isLt; have h1 := x1.isLt; omega
theorem lredAddI32 (x0 : BitVec 7) (x1 : BitVec 7) : Statement (.lredAddI32 x0 x1) := by
  show 0x7C000000 + x0.toNat * 0x4000 + x1.toNat * 0x80 < 2 ^ 32
  have h0 := x0.isLt; have h1 := x1.isLt; omega
theorem lredAddF32 (x0 : BitVec 2) (x1 : BitVec 7) (x2 : BitVec 7) : Statement (.lredAddF32 x0 x1 x2) := by
  show 0x7C200000 + x0.toNat * 0x1000000 + x1.toNat * 0x4000 + x2.toNat * 0x80 < 2 ^ 32
  have h0 := x0.isLt; have h1 := x1.isLt; have h2 := x2.isLt; omega
theorem lredMinF32 (x0 : BitVec 7) (x1 : BitVec 7) : Statement (.lredMinF32 x0 x1) := by
  show 0x7C400000 + x0.toNat * 0x4000 + x1.toNat * 0x80 < 2 ^ 32
  have h0 := x0.isLt; have h1 := x1.isLt; omega
theorem lredMaxF32 (x0 : BitVec 7) (x1 : BitVec 7) : Statement (.lredMaxF32 x0 x1) := by
  show 0x7C600000 + x0.toNat * 0x4000 + x1.toNat * 0x80 < 2 ^ 32
  have h0 := x0.isLt; have h1 := x1.isLt; omega
theorem lscanAddI32 (x0 : BitVec 7) (x1 : BitVec 7) : Statement (.lscanAddI32 x0 x1) := by
  show 0x7C800000 + x0.toNat * 0x4000 + x1.toNat * 0x80 < 2 ^ 32
  have h0 := x0.isLt; have h1 := x1.isLt; omega
theorem lscanAddF32 (x0 : BitVec 2) (x1 : BitVec 7) (x2 : BitVec 7) : Statement (.lscanAddF32 x0 x1 x2) := by
  show 0x7CA00000 + x0.toNat * 0x1000000 + x1.toNat * 0x4000 + x2.toNat * 0x80 < 2 ^ 32
  have h0 := x0.isLt; have h1 := x1.isLt; have h2 := x2.isLt; omega
theorem lredMinI32 (x0 : BitVec 7) (x1 : BitVec 7) : Statement (.lredMinI32 x0 x1) := by
  show 0x7CC00000 + x0.toNat * 0x4000 + x1.toNat * 0x80 < 2 ^ 32
  have h0 := x0.isLt; have h1 := x1.isLt; omega
theorem lredMaxI32 (x0 : BitVec 7) (x1 : BitVec 7) : Statement (.lredMaxI32 x0 x1) := by
  show 0x7CE00000 + x0.toNat * 0x4000 + x1.toNat * 0x80 < 2 ^ 32
  have h0 := x0.isLt; have h1 := x1.isLt; omega
theorem ldp (x0 : BitVec 3) (x1 : BitVec 7) (x2 : BitVec 7) (x3 : BitVec 7) : Statement (.ldp x0 x1 x2 x3) := by
  show 0x80000000 + x0.toNat * 0x200000 + x1.toNat * 0x4000 + x2.toNat * 0x80 + x3.toNat < 2 ^ 32
  have h0 := x0.isLt; have h1 := x1.isLt; have h2 := x2.isLt; have h3 := x3.isLt; omega
theorem stp (x0 : BitVec 7) (x1 : BitVec 7) (x2 : BitVec 7) : Statement (.stp x0 x1 x2) := by
  show 0x84000000 + x0.toNat * 0x4000 + x1.toNat * 0x80 + x2.toNat < 2 ^ 32
  have h0 := x0.isLt; have h1 := x1.isLt; have h2 := x2.isLt; omega
theorem mat (x0 : BitVec 7) (x1 : BitVec 7) : Statement (.mat x0 x1) := by
  show 0x88000000 + x0.toNat * 0x4000 + x1.toNat * 0x80 < 2 ^ 32
  have h0 := x0.isLt; have h1 := x1.isLt; omega
theorem pdrop (x0 : BitVec 7) : Statement (.pdrop x0) := by
  show 0x88200000 + x0.toNat * 0x80 < 2 ^ 32
  have h0 := x0.isLt; omega
theorem pqry (x0 : BitVec 7) (x1 : BitVec 7) : Statement (.pqry x0 x1) := by
  show 0x88400000 + x0.toNat * 0x4000 + x1.toNat * 0x80 < 2 ^ 32
  have h0 := x0.isLt; have h1 := x1.isLt; omega
theorem pqryPred (x0 : BitVec 3) (x1 : BitVec 7) : Statement (.pqryPred x0 x1) := by
  show 0x88600000 + x0.toNat * 0x4000 + x1.toNat * 0x80 < 2 ^ 32
  have h0 := x0.isLt; have h1 := x1.isLt; omega
theorem pmigr (x0 : BitVec 7) (x1 : BitVec 7) (x2 : BitVec 7) : Statement (.pmigr x0 x1 x2) := by
  show 0x88800000 + x0.toNat * 0x4000 + x1.toNat * 0x80 + x2.toNat < 2 ^ 32
  have h0 := x0.isLt; have h1 := x1.isLt; have h2 := x2.isLt; omega
theorem ld (x0 : BitVec 2) (x1 : BitVec 3) (x2 : BitVec 7) (x3 : BitVec 7) (x4 : BitVec 7) : Statement (.ld x0 x1 x2 x3 x4) := by
  show 0x90000000 + x0.toNat * 0x1000000 + x1.toNat * 0x200000 + x2.toNat * 0x4000 + x3.toNat * 0x80 + x4.toNat < 2 ^ 32
  have h0 := x0.isLt; have h1 := x1.isLt; have h2 := x2.isLt; have h3 := x3.isLt; have h4 := x4.isLt; omega
theorem st (x0 : BitVec 2) (x1 : BitVec 3) (x2 : BitVec 7) (x3 : BitVec 7) (x4 : BitVec 7) : Statement (.st x0 x1 x2 x3 x4) := by
  show 0x94000000 + x0.toNat * 0x1000000 + x1.toNat * 0x200000 + x2.toNat * 0x4000 + x3.toNat * 0x80 + x4.toNat < 2 ^ 32
  have h0 := x0.isLt; have h1 := x1.isLt; have h2 := x2.isLt; have h3 := x3.isLt; have h4 := x4.isLt; omega
theorem ldq (x0 : BitVec 2) (x1 : BitVec 3) (x2 : BitVec 7) (x3 : BitVec 7) (x4 : BitVec 7) : Statement (.ldq x0 x1 x2 x3 x4) := by
  show 0x98000000 + x0.toNat * 0x1000000 + x1.toNat * 0x200000 + x2.toNat * 0x4000 + x3.toNat * 0x80 + x4.toNat < 2 ^ 32
  have h0 := x0.isLt; have h1 := x1.isLt; have h2 := x2.isLt; have h3 := x3.isLt; have h4 := x4.isLt; omega
theorem ldsB32 (x0 : BitVec 2) (x1 : BitVec 7) (x2 : BitVec 7) (x3 : BitVec 7) : Statement (.ldsB32 x0 x1 x2 x3) := by
  show 0x9C000000 + x0.toNat * 0x1000000 + x1.toNat * 0x4000 + x2.toNat * 0x80 + x3.toNat < 2 ^ 32
  have h0 := x0.isLt; have h1 := x1.isLt; have h2 := x2.isLt; have h3 := x3.isLt; omega
theorem stsB32 (x0 : BitVec 2) (x1 : BitVec 7) (x2 : BitVec 7) (x3 : BitVec 7) : Statement (.stsB32 x0 x1 x2 x3) := by
  show 0x9C200000 + x0.toNat * 0x1000000 + x1.toNat * 0x4000 + x2.toNat * 0x80 + x3.toNat < 2 ^ 32
  have h0 := x0.isLt; have h1 := x1.isLt; have h2 := x2.isLt; have h3 := x3.isLt; omega
theorem ldsUi16 (x0 : BitVec 7) (x1 : BitVec 7) (x2 : BitVec 7) : Statement (.ldsUi16 x0 x1 x2) := by
  show 0x9C400000 + x0.toNat * 0x4000 + x1.toNat * 0x80 + x2.toNat < 2 ^ 32
  have h0 := x0.isLt; have h1 := x1.isLt; have h2 := x2.isLt; omega
theorem ldsS16 (x0 : BitVec 7) (x1 : BitVec 7) (x2 : BitVec 7) : Statement (.ldsS16 x0 x1 x2) := by
  show 0x9C600000 + x0.toNat * 0x4000 + x1.toNat * 0x80 + x2.toNat < 2 ^ 32
  have h0 := x0.isLt; have h1 := x1.isLt; have h2 := x2.isLt; omega
theorem stsB16 (x0 : BitVec 7) (x1 : BitVec 7) (x2 : BitVec 7) : Statement (.stsB16 x0 x1 x2) := by
  show 0x9C800000 + x0.toNat * 0x4000 + x1.toNat * 0x80 + x2.toNat < 2 ^ 32
  have h0 := x0.isLt; have h1 := x1.isLt; have h2 := x2.isLt; omega
theorem ldsUi8 (x0 : BitVec 7) (x1 : BitVec 7) (x2 : BitVec 7) : Statement (.ldsUi8 x0 x1 x2) := by
  show 0x9CA00000 + x0.toNat * 0x4000 + x1.toNat * 0x80 + x2.toNat < 2 ^ 32
  have h0 := x0.isLt; have h1 := x1.isLt; have h2 := x2.isLt; omega
theorem ldsS8 (x0 : BitVec 7) (x1 : BitVec 7) (x2 : BitVec 7) : Statement (.ldsS8 x0 x1 x2) := by
  show 0x9CC00000 + x0.toNat * 0x4000 + x1.toNat * 0x80 + x2.toNat < 2 ^ 32
  have h0 := x0.isLt; have h1 := x1.isLt; have h2 := x2.isLt; omega
theorem stsB8 (x0 : BitVec 7) (x1 : BitVec 7) (x2 : BitVec 7) : Statement (.stsB8 x0 x1 x2) := by
  show 0x9CE00000 + x0.toNat * 0x4000 + x1.toNat * 0x80 + x2.toNat < 2 ^ 32
  have h0 := x0.isLt; have h1 := x1.isLt; have h2 := x2.isLt; omega
theorem lda (x0 : BitVec 2) (x1 : BitVec 3) (x2 : BitVec 7) (x3 : BitVec 7) (x4 : BitVec 7) : Statement (.lda x0 x1 x2 x3 x4) := by
  show 0xA0000000 + x0.toNat * 0x1000000 + x1.toNat * 0x200000 + x2.toNat * 0x4000 + x3.toNat * 0x80 + x4.toNat < 2 ^ 32
  have h0 := x0.isLt; have h1 := x1.isLt; have h2 := x2.isLt; have h3 := x3.isLt; have h4 := x4.isLt; omega
theorem stl (x0 : BitVec 2) (x1 : BitVec 3) (x2 : BitVec 7) (x3 : BitVec 7) (x4 : BitVec 7) : Statement (.stl x0 x1 x2 x3 x4) := by
  show 0xA4000000 + x0.toNat * 0x1000000 + x1.toNat * 0x200000 + x2.toNat * 0x4000 + x3.toNat * 0x80 + x4.toNat < 2 ^ 32
  have h0 := x0.isLt; have h1 := x1.isLt; have h2 := x2.isLt; have h3 := x3.isLt; have h4 := x4.isLt; omega
theorem atom (x0 : BitVec 2) (x1 : BitVec 3) (x2 : BitVec 7) (x3 : BitVec 7) (x4 : BitVec 3) (x5 : BitVec 2) : Statement (.atom x0 x1 x2 x3 x4 x5) := by
  show 0xA8000000 + x0.toNat * 0x1000000 + x1.toNat * 0x200000 + x2.toNat * 0x4000 + x3.toNat * 0x80 + x4.toNat * 0x10 + x5.toNat * 0x4 < 2 ^ 32
  have h0 := x0.isLt; have h1 := x1.isLt; have h2 := x2.isLt; have h3 := x3.isLt; have h4 := x4.isLt; have h5 := x5.isLt; omega
theorem atomn (x0 : BitVec 2) (x1 : BitVec 3) (x2 : BitVec 7) (x3 : BitVec 7) (x4 : BitVec 3) (x5 : BitVec 2) : Statement (.atomn x0 x1 x2 x3 x4 x5) := by
  show 0xA8000001 + x0.toNat * 0x1000000 + x1.toNat * 0x200000 + x2.toNat * 0x4000 + x3.toNat * 0x80 + x4.toNat * 0x10 + x5.toNat * 0x4 < 2 ^ 32
  have h0 := x0.isLt; have h1 := x1.isLt; have h2 := x2.isLt; have h3 := x3.isLt; have h4 := x4.isLt; have h5 := x5.isLt; omega
theorem atoms (x0 : BitVec 2) (x1 : BitVec 3) (x2 : BitVec 7) (x3 : BitVec 7) (x4 : BitVec 3) (x5 : BitVec 2) : Statement (.atoms x0 x1 x2 x3 x4 x5) := by
  show 0xA8000002 + x0.toNat * 0x1000000 + x1.toNat * 0x200000 + x2.toNat * 0x4000 + x3.toNat * 0x80 + x4.toNat * 0x10 + x5.toNat * 0x4 < 2 ^ 32
  have h0 := x0.isLt; have h1 := x1.isLt; have h2 := x2.isLt; have h3 := x3.isLt; have h4 := x4.isLt; have h5 := x5.isLt; omega
theorem fence (x0 : BitVec 2) (x1 : BitVec 3) : Statement (.fence x0 x1) := by
  show 0xAC000000 + x0.toNat * 0x400 + x1.toNat * 0x80 < 2 ^ 32
  have h0 := x0.isLt; have h1 := x1.isLt; omega
theorem wcdrain : Statement (.wcdrain) := Nat.le_of_ble_eq_true rfl
theorem pref (x0 : BitVec 7) (x1 : BitVec 1) : Statement (.pref x0 x1) := by
  show 0xAD400000 + x0.toNat * 0x80 + x1.toNat < 2 ^ 32
  have h0 := x0.isLt; have h1 := x1.isLt; omega
theorem cvta (x0 : BitVec 7) (x1 : BitVec 7) (x2 : BitVec 7) : Statement (.cvta x0 x1 x2) := by
  show 0xAD600000 + x0.toNat * 0x4000 + x1.toNat * 0x80 + x2.toNat < 2 ^ 32
  have h0 := x0.isLt; have h1 := x1.isLt; have h2 := x2.isLt; omega
theorem cpkick (x0 : BitVec 7) (x1 : BitVec 7) : Statement (.cpkick x0 x1) := by
  show 0xB0000000 + x0.toNat * 0x80 + x1.toNat < 2 ^ 32
  have h0 := x0.isLt; have h1 := x1.isLt; omega
theorem boinit (x0 : BitVec 7) (x1 : BitVec 7) : Statement (.boinit x0 x1) := by
  show 0xB0200000 + x0.toNat * 0x80 + x1.toNat < 2 ^ 32
  have h0 := x0.isLt; have h1 := x1.isLt; omega
theorem boarr (x0 : BitVec 7) (x1 : BitVec 7) : Statement (.boarr x0 x1) := by
  show 0xB0400000 + x0.toNat * 0x80 + x1.toNat < 2 ^ 32
  have h0 := x0.isLt; have h1 := x1.isLt; omega
theorem bowait (x0 : BitVec 7) (x1 : BitVec 7) : Statement (.bowait x0 x1) := by
  show 0xB0600000 + x0.toNat * 0x4000 + x1.toNat * 0x80 < 2 ^ 32
  have h0 := x0.isLt; have h1 := x1.isLt; omega
theorem stn (x0 : BitVec 2) (x1 : BitVec 7) (x2 : BitVec 7) (x3 : BitVec 3) : Statement (.stn x0 x1 x2 x3) := by
  show 0xB4000000 + x0.toNat * 0x1000000 + x1.toNat * 0x4000 + x2.toNat * 0x80 + x3.toNat < 2 ^ 32
  have h0 := x0.isLt; have h1 := x1.isLt; have h2 := x2.isLt; have h3 := x3.isLt; omega
theorem nfence : Statement (.nfence) := Nat.le_of_ble_eq_true rfl
theorem relq (x0 : BitVec 7) (x1 : BitVec 7) : Statement (.relq x0 x1) := by
  show 0xB5400000 + x0.toNat * 0x80 + x1.toNat < 2 ^ 32
  have h0 := x0.isLt; have h1 := x1.isLt; omega
theorem pgreq (x0 : BitVec 7) (x1 : BitVec 7) (x2 : BitVec 7) : Statement (.pgreq x0 x1 x2) := by
  show 0xB9000000 + x0.toNat * 0x4000 + x1.toNat * 0x80 + x2.toNat < 2 ^ 32
  have h0 := x0.isLt; have h1 := x1.isLt; have h2 := x2.isLt; omega
theorem rzero (x0 : BitVec 7) (x1 : BitVec 7) (x2 : BitVec 7) : Statement (.rzero x0 x1 x2) := by
  show 0xB9200000 + x0.toNat * 0x4000 + x1.toNat * 0x80 + x2.toNat < 2 ^ 32
  have h0 := x0.isLt; have h1 := x1.isLt; have h2 := x2.isLt; omega
theorem rcopy (x0 : BitVec 7) (x1 : BitVec 7) (x2 : BitVec 7) : Statement (.rcopy x0 x1 x2) := by
  show 0xBA400000 + x0.toNat * 0x4000 + x1.toNat * 0x80 + x2.toNat < 2 ^ 32
  have h0 := x0.isLt; have h1 := x1.isLt; have h2 := x2.isLt; omega
theorem wload (x0 : BitVec 7) (x1 : BitVec 7) : Statement (.wload x0 x1) := by
  show 0xC1000000 + x0.toNat * 0x4000 + x1.toNat * 0x80 < 2 ^ 32
  have h0 := x0.isLt; have h1 := x1.isLt; omega
theorem wloadT (x0 : BitVec 7) (x1 : BitVec 7) : Statement (.wloadT x0 x1) := by
  show 0xC1200000 + x0.toNat * 0x4000 + x1.toNat * 0x80 < 2 ^ 32
  have h0 := x0.isLt; have h1 := x1.isLt; omega
theorem wswap : Statement (.wswap) := Nat.le_of_ble_eq_true rfl
theorem accz (x0 : BitVec 7) : Statement (.accz x0) := by
  show 0xC0600000 + x0.toNat * 0x80 < 2 ^ 32
  have h0 := x0.isLt; omega
theorem accld (x0 : BitVec 2) (x1 : BitVec 7) (x2 : BitVec 7) : Statement (.accld x0 x1 x2) := by
  show 0xC0800000 + x0.toNat * 0x1000000 + x1.toNat * 0x4000 + x2.toNat * 0x80 < 2 ^ 32
  have h0 := x0.isLt; have h1 := x1.isLt; have h2 := x2.isLt; omega
theorem accldScr (x0 : BitVec 7) (x1 : BitVec 7) : Statement (.accldScr x0 x1) := by
  show 0xC09E0000 + x0.toNat * 0x80 + x1.toNat < 2 ^ 32
  have h0 := x0.isLt; have h1 := x1.isLt; omega
theorem accst (x0 : BitVec 2) (x1 : BitVec 7) (x2 : BitVec 7) : Statement (.accst x0 x1 x2) := by
  show 0xC0A00000 + x0.toNat * 0x1000000 + x1.toNat * 0x4000 + x2.toNat * 0x80 < 2 ^ 32
  have h0 := x0.isLt; have h1 := x1.isLt; have h2 := x2.isLt; omega
theorem accstScr (x0 : BitVec 7) (x1 : BitVec 7) : Statement (.accstScr x0 x1) := by
  show 0xC0BE0000 + x0.toNat * 0x80 + x1.toNat < 2 ^ 32
  have h0 := x0.isLt; have h1 := x1.isLt; omega
theorem gang (x0 : BitVec 7) : Statement (.gang x0) := by
  show 0xC0C00000 + x0.toNat * 0x80 < 2 ^ 32
  have h0 := x0.isLt; omega
theorem opfence : Statement (.opfence) := Nat.le_of_ble_eq_true rfl
theorem mmaC8 (x0 : BitVec 7) (x1 : BitVec 7) : Statement (.mmaC8 x0 x1) := by
  show 0xC6000000 + x0.toNat * 0x4000 + x1.toNat * 0x80 < 2 ^ 32
  have h0 := x0.isLt; have h1 := x1.isLt; omega
theorem mmaBf16 (x0 : BitVec 7) (x1 : BitVec 7) : Statement (.mmaBf16 x0 x1) := by
  show 0xC6200000 + x0.toNat * 0x4000 + x1.toNat * 0x80 < 2 ^ 32
  have h0 := x0.isLt; have h1 := x1.isLt; omega
theorem mmao (x0 : BitVec 7) (x1 : BitVec 7) (x2 : BitVec 7) : Statement (.mmao x0 x1 x2) := by
  show 0xC6400000 + x0.toNat * 0x4000 + x1.toNat * 0x80 + x2.toNat < 2 ^ 32
  have h0 := x0.isLt; have h1 := x1.isLt; have h2 := x2.isLt; omega
theorem mwait (x0 : BitVec 7) : Statement (.mwait x0) := by
  show 0xC4600000 + x0.toNat * 0x80 < 2 ^ 32
  have h0 := x0.isLt; omega
theorem bra (x0 : BitVec 3) (x1 : BitVec 1) (x2 : BitVec 22) : Statement (.bra x0 x1 x2) := by
  show 0xD0000000 + x0.toNat * 0x800000 + x1.toNat * 0x400000 + x2.toNat < 2 ^ 32
  have h0 := x0.isLt; have h1 := x1.isLt; have h2 := x2.isLt; omega
theorem call (x0 : BitVec 3) (x1 : BitVec 1) (x2 : BitVec 22) : Statement (.call x0 x1 x2) := by
  show 0xD4000000 + x0.toNat * 0x800000 + x1.toNat * 0x400000 + x2.toNat < 2 ^ 32
  have h0 := x0.isLt; have h1 := x1.isLt; have h2 := x2.isLt; omega
theorem brt (x0 : BitVec 7) (x1 : BitVec 7) : Statement (.brt x0 x1) := by
  show 0xD8000000 + x0.toNat * 0x80 + x1.toNat < 2 ^ 32
  have h0 := x0.isLt; have h1 := x1.isLt; omega
theorem callt (x0 : BitVec 7) (x1 : BitVec 7) : Statement (.callt x0 x1) := by
  show 0xD8200000 + x0.toNat * 0x80 + x1.toNat < 2 ^ 32
  have h0 := x0.isLt; have h1 := x1.isLt; omega
theorem ret : Statement (.ret) := Nat.le_of_ble_eq_true rfl
theorem meet (x0 : BitVec 14) : Statement (.meet x0) := by
  show 0xE0000000 + x0.toNat < 2 ^ 32
  have h0 := x0.isLt; omega
theorem meetw (x0 : BitVec 7) (x1 : BitVec 14) : Statement (.meetw x0 x1) := by
  show 0xE0200000 + x0.toNat * 0x4000 + x1.toNat < 2 ^ 32
  have h0 := x0.isLt; have h1 := x1.isLt; omega
theorem mpush : Statement (.mpush) := Nat.le_of_ble_eq_true rfl
theorem mpop : Statement (.mpop) := Nat.le_of_ble_eq_true rfl
theorem exit : Statement (.exit) := Nat.le_of_ble_eq_true rfl
theorem nap (x0 : BitVec 14) : Statement (.nap x0) := by
  show 0xE0A00000 + x0.toNat < 2 ^ 32
  have h0 := x0.isLt; omega
theorem yield : Statement (.yield) := Nat.le_of_ble_eq_true rfl
theorem bar (x0 : BitVec 7) (x1 : BitVec 4) : Statement (.bar x0 x1) := by
  show 0xE4000000 + x0.toNat * 0x4000 + x1.toNat < 2 ^ 32
  have h0 := x0.isLt; have h1 := x1.isLt; omega
theorem bara (x0 : BitVec 7) (x1 : BitVec 4) : Statement (.bara x0 x1) := by
  show 0xE4200000 + x0.toNat * 0x4000 + x1.toNat < 2 ^ 32
  have h0 := x0.isLt; have h1 := x1.isLt; omega
theorem barw (x0 : BitVec 4) : Statement (.barw x0) := by
  show 0xE4400000 + x0.toNat < 2 ^ 32
  have h0 := x0.isLt; omega
theorem cbar (x0 : BitVec 7) (x1 : BitVec 3) : Statement (.cbar x0 x1) := by
  show 0xE4600000 + x0.toNat * 0x4000 + x1.toNat < 2 ^ 32
  have h0 := x0.isLt; have h1 := x1.isLt; omega
theorem width (x0 : BitVec 2) : Statement (.width x0) := by
  show 0xE8000000 + x0.toNat < 2 ^ 32
  have h0 := x0.isLt; omega
theorem wlock : Statement (.wlock) := Nat.le_of_ble_eq_true rfl
theorem wfree : Statement (.wfree) := Nat.le_of_ble_eq_true rfl
theorem rclaim (x0 : BitVec 8) : Statement (.rclaim x0) := by
  show 0xE8600000 + x0.toNat < 2 ^ 32
  have h0 := x0.isLt; omega
theorem rgive (x0 : BitVec 8) : Statement (.rgive x0) := by
  show 0xE8800000 + x0.toNat < 2 ^ 32
  have h0 := x0.isLt; omega
theorem win (x0 : BitVec 3) : Statement (.win x0) := by
  show 0xE8A00000 + x0.toNat < 2 ^ 32
  have h0 := x0.isLt; omega
theorem srd (x0 : BitVec 7) (x1 : BitVec 12) : Statement (.srd x0 x1) := by
  show 0xF0000000 + x0.toNat * 0x4000 + x1.toNat < 2 ^ 32
  have h0 := x0.isLt; have h1 := x1.isLt; omega
theorem swr (x0 : BitVec 7) (x1 : BitVec 12) : Statement (.swr x0 x1) := by
  show 0xF0200000 + x0.toNat * 0x4000 + x1.toNat < 2 ^ 32
  have h0 := x0.isLt; have h1 := x1.isLt; omega
theorem launch (x0 : BitVec 7) (x1 : BitVec 3) : Statement (.launch x0 x1) := by
  show 0xF0400000 + x0.toNat * 0x4000 + x1.toNat < 2 ^ 32
  have h0 := x0.isLt; have h1 := x1.isLt; omega
theorem trap (x0 : BitVec 14) : Statement (.trap x0) := by
  show 0xF0600000 + x0.toNat < 2 ^ 32
  have h0 := x0.isLt; omega
theorem tret : Statement (.tret) := Nat.le_of_ble_eq_true rfl
theorem bkpt (x0 : BitVec 14) : Statement (.bkpt x0) := by
  show 0xF0A00000 + x0.toNat < 2 ^ 32
  have h0 := x0.isLt; omega
theorem cntclm (x0 : BitVec 7) (x1 : BitVec 1) (x2 : BitVec 3) (x3 : BitVec 3) : Statement (.cntclm x0 x1 x2 x3) := by
  show 0xF4000000 + x0.toNat * 0x4000 + x1.toNat * 0x40 + x2.toNat * 0x8 + x3.toNat < 2 ^ 32
  have h0 := x0.isLt; have h1 := x1.isLt; have h2 := x2.isLt; have h3 := x3.isLt; omega
theorem cntrd (x0 : BitVec 7) (x1 : BitVec 1) (x2 : BitVec 1) (x3 : BitVec 3) (x4 : BitVec 3) : Statement (.cntrd x0 x1 x2 x3 x4) := by
  show 0xF4200000 + x0.toNat * 0x4000 + x1.toNat * 0x80 + x2.toNat * 0x40 + x3.toNat * 0x8 + x4.toNat < 2 ^ 32
  have h0 := x0.isLt; have h1 := x1.isLt; have h2 := x2.isLt; have h3 := x3.isLt; have h4 := x4.isLt; omega
theorem cntrel (x0 : BitVec 1) (x1 : BitVec 3) : Statement (.cntrel x0 x1) := by
  show 0xF4400000 + x0.toNat * 0x40 + x1.toNat * 0x8 < 2 ^ 32
  have h0 := x0.isLt; have h1 := x1.isLt; omega
theorem trmark (x0 : BitVec 7) (x1 : BitVec 8) : Statement (.trmark x0 x1) := by
  show 0xF4600000 + x0.toNat * 0x4000 + x1.toNat < 2 ^ 32
  have h0 := x0.isLt; have h1 := x1.isLt; omega
theorem endRun (x0 : BitVec 3) (x1 : BitVec 1) (x2 : BitVec 7) (x3 : BitVec 3) : Statement (.endRun x0 x1 x2 x3) := by
  show 0xFC000000 + x0.toNat * 0x100000 + x1.toNat * 0x80000 + x2.toNat * 0x1000 + x3.toNat * 0x200 < 2 ^ 32
  have h0 := x0.isLt; have h1 := x1.isLt; have h2 := x2.isLt; have h3 := x3.isLt; omega
theorem xi (x0 : BitVec 23) : Statement (.xi x0) := by
  show 0xFC800000 + x0.toNat < 2 ^ 32
  have h0 := x0.isLt; omega
theorem guard (x0 : BitVec 3) (x1 : BitVec 1) : Statement (.guard x0 x1) := by
  show 0xFD000000 + x0.toNat * 0x100000 + x1.toNat * 0x80000 < 2 ^ 32
  have h0 := x0.isLt; have h1 := x1.isLt; omega
theorem runSelect (x0 : Nat) (x1 : Nat) : Statement (.runSelect x0 x1) := Nat.le_of_ble_eq_true rfl
theorem skipCountBoost (x0 : GroupRef) : Statement (.skipCountBoost x0) := Nat.le_of_ble_eq_true rfl
theorem gapExpire (x0 : GroupRef) : Statement (.gapExpire x0) := Nat.le_of_ble_eq_true rfl
theorem scoreboardWriteComplete (x0 : GroupRef) (x1 : Nat) : Statement (.scoreboardWriteComplete x0 x1) := Nat.le_of_ble_eq_true rfl
theorem napExpire (x0 : GroupRef) : Statement (.napExpire x0) := Nat.le_of_ble_eq_true rfl
theorem meetTimeout (x0 : GroupRef) (x1 : Word) : Statement (.meetTimeout x0 x1) := Nat.le_of_ble_eq_true rfl
theorem homeOperation (x0 : Nat) : Statement (.homeOperation x0) := Nat.le_of_ble_eq_true rfl
theorem homeAnswerArrival (x0 : Nat) : Statement (.homeAnswerArrival x0) := Nat.le_of_ble_eq_true rfl
theorem creditAckArrival (x0 : Nat) : Statement (.creditAckArrival x0) := Nat.le_of_ble_eq_true rfl
theorem matrixOpStart (x0 : Nat) (x1 : Nat) (x2 : Nat) : Statement (.matrixOpStart x0 x1 x2) := Nat.le_of_ble_eq_true rfl
theorem wswapTakeEffect (x0 : Nat) (x1 : Nat) (x2 : Nat) : Statement (.wswapTakeEffect x0 x1 x2) := Nat.le_of_ble_eq_true rfl
theorem matrixOpComplete (x0 : Nat) (x1 : Nat) (x2 : Nat) (x3 : Nat) : Statement (.matrixOpComplete x0 x1 x2 x3) := Nat.le_of_ble_eq_true rfl
theorem copyRequestStart (x0 : Nat) : Statement (.copyRequestStart x0) := Nat.le_of_ble_eq_true rfl
theorem copyLineLand (x0 : Nat) (x1 : Nat) (x2 : Nat) : Statement (.copyLineLand x0 x1 x2) := Nat.le_of_ble_eq_true rfl
theorem copyOutwardWrite (x0 : Nat) (x1 : Nat) : Statement (.copyOutwardWrite x0 x1) := Nat.le_of_ble_eq_true rfl
theorem wcBufferTimeout (x0 : Nat) (x1 : Nat) : Statement (.wcBufferTimeout x0 x1) := Nat.le_of_ble_eq_true rfl
theorem stnNameReturn (x0 : Nat) (x1 : Nat) : Statement (.stnNameReturn x0 x1) := Nat.le_of_ble_eq_true rfl
theorem relqInvalidate (x0 : Nat) : Statement (.relqInvalidate x0) := Nat.le_of_ble_eq_true rfl
theorem rowOpStep (x0 : Nat) : Statement (.rowOpStep x0) := Nat.le_of_ble_eq_true rfl
theorem rowOpComplete (x0 : Nat) : Statement (.rowOpComplete x0) := Nat.le_of_ble_eq_true rfl
theorem dramRefresh (x0 : Nat) (x1 : Nat) : Statement (.dramRefresh x0 x1) := Nat.le_of_ble_eq_true rfl
theorem scrubRead (x0 : Nat) (x1 : ScrubOutcome) : Statement (.scrubRead x0 x1) := Nat.le_of_ble_eq_true rfl
theorem launchWindowDmwr (x0 : Nat) (x1 : Nat) (x2 : List Byte) : Statement (.launchWindowDmwr x0 x1 x2) := Nat.le_of_ble_eq_true rfl
theorem launchWindowPostedWrite (x0 : Nat) : Statement (.launchWindowPostedWrite x0) := Nat.le_of_ble_eq_true rfl
theorem fabricLaunch (x0 : Nat) (x1 : Nat) (x2 : Nat) (x3 : List Byte) : Statement (.fabricLaunch x0 x1 x2 x3) := Nat.le_of_ble_eq_true rfl
theorem tokenRefill (x0 : Nat) (x1 : Nat) : Statement (.tokenRefill x0 x1) := Nat.le_of_ble_eq_true rfl
theorem fabricMemoryPacket (x0 : FabricPacket) : Statement (.fabricMemoryPacket x0) := Nat.le_of_ble_eq_true rfl
theorem waitWordPoll (x0 : Nat) : Statement (.waitWordPoll x0) := Nat.le_of_ble_eq_true rfl
theorem launchHeaderRead (x0 : Nat) : Statement (.launchHeaderRead x0) := Nat.le_of_ble_eq_true rfl
theorem launchPriorityBoost (x0 : Nat) : Statement (.launchPriorityBoost x0) := Nat.le_of_ble_eq_true rfl
theorem launchStarvationHold (x0 : Nat) : Statement (.launchStarvationHold x0) := Nat.le_of_ble_eq_true rfl
theorem blockPlace (x0 : Nat) : Statement (.blockPlace x0) := Nat.le_of_ble_eq_true rfl
theorem launchComplete (x0 : Nat) : Statement (.launchComplete x0) := Nat.le_of_ble_eq_true rfl
theorem meshForeignPacket (x0 : Nat) (x1 : Nat) : Statement (.meshForeignPacket x0 x1) := Nat.le_of_ble_eq_true rfl
theorem linkReadCompletion (x0 : Nat) (x1 : LinkAnswer) : Statement (.linkReadCompletion x0 x1) := Nat.le_of_ble_eq_true rfl
theorem linkReadTimeout (x0 : Nat) : Statement (.linkReadTimeout x0) := Nat.le_of_ble_eq_true rfl
theorem partidWrite (x0 : Nat) (x1 : Word) : Statement (.partidWrite x0 x1) := Nat.le_of_ble_eq_true rfl
theorem ctxdescWrite (x0 : Nat) (x1 : Nat) (x2 : Addr) : Statement (.ctxdescWrite x0 x1 x2) := Nat.le_of_ble_eq_true rfl
theorem resctlWrite (x0 : Nat) (x1 : Nat) (x2 : Word) : Statement (.resctlWrite x0 x1 x2) := Nat.le_of_ble_eq_true rfl
theorem invPages (x0 : Nat) (x1 : Addr) : Statement (.invPages x0 x1) := Nat.le_of_ble_eq_true rfl
theorem invContext (x0 : Nat) (x1 : Addr) : Statement (.invContext x0 x1) := Nat.le_of_ble_eq_true rfl
theorem invPartition (x0 : Nat) (x1 : Addr) : Statement (.invPartition x0 x1) := Nat.le_of_ble_eq_true rfl
theorem invCommandExecute (x0 : Nat) : Statement (.invCommandExecute x0) := Nat.le_of_ble_eq_true rfl
theorem invCommandComplete (x0 : Nat) : Statement (.invCommandComplete x0) := Nat.le_of_ble_eq_true rfl
theorem fqResolve (x0 : Nat) (x1 : Addr) : Statement (.fqResolve x0 x1) := Nat.le_of_ble_eq_true rfl
theorem fqRefuse (x0 : Nat) (x1 : Addr) : Statement (.fqRefuse x0 x1) := Nat.le_of_ble_eq_true rfl
theorem fqResumePxexh (x0 : Nat) (x1 : Addr) : Statement (.fqResumePxexh x0 x1) := Nat.le_of_ble_eq_true rfl
theorem fqheadWrite (x0 : Nat) (x1 : Word) : Statement (.fqheadWrite x0 x1) := Nat.le_of_ble_eq_true rfl
theorem fqctlWrite (x0 : Nat) (x1 : Word) : Statement (.fqctlWrite x0 x1) := Nat.le_of_ble_eq_true rfl
theorem victimWrite (x0 : Nat) (x1 : Nat) : Statement (.victimWrite x0 x1) := Nat.le_of_ble_eq_true rfl
theorem vfFrameCountWrite (x0 : Nat) (x1 : Bool) (x2 : Word) : Statement (.vfFrameCountWrite x0 x1 x2) := Nat.le_of_ble_eq_true rfl
theorem frameAgingTick : Statement (.frameAgingTick) := Nat.le_of_ble_eq_true rfl
theorem mapReadSector (x0 : Nat) (x1 : Addr) : Statement (.mapReadSector x0 x1) := Nat.le_of_ble_eq_true rfl
theorem mapDonateUnit (x0 : Nat) (x1 : Addr) : Statement (.mapDonateUnit x0 x1) := Nat.le_of_ble_eq_true rfl
theorem mapReclaimUnit (x0 : Nat) (x1 : Addr) : Statement (.mapReclaimUnit x0 x1) := Nat.le_of_ble_eq_true rfl
theorem mapWriteFrame (x0 : Nat) (x1 : Addr) : Statement (.mapWriteFrame x0 x1) := Nat.le_of_ble_eq_true rfl
theorem mapCommandDone (x0 : Nat) : Statement (.mapCommandDone x0) := Nat.le_of_ble_eq_true rfl
theorem flushFrame (x0 : Nat) (x1 : Addr) : Statement (.flushFrame x0 x1) := Nat.le_of_ble_eq_true rfl
theorem flushFrameDone (x0 : Nat) : Statement (.flushFrameDone x0) := Nat.le_of_ble_eq_true rfl
theorem pfClaimUnit (x0 : UnitRef) (x1 : Addr) : Statement (.pfClaimUnit x0 x1) := Nat.le_of_ble_eq_true rfl
theorem pfReleaseUnit (x0 : UnitRef) : Statement (.pfReleaseUnit x0) := Nat.le_of_ble_eq_true rfl
theorem pfAckTrace (x0 : UnitRef) (x1 : Addr) : Statement (.pfAckTrace x0 x1) := Nat.le_of_ble_eq_true rfl
theorem tenantEntryWrite (x0 : Nat) (x1 : Nat) (x2 : Nat) (x3 : List Byte) : Statement (.tenantEntryWrite x0 x1 x2 x3) := Nat.le_of_ble_eq_true rfl
theorem registerWrite (x0 : Option Nat) (x1 : Nat) (x2 : Addr) : Statement (.registerWrite x0 x1 x2) := Nat.le_of_ble_eq_true rfl
theorem snapshotWindow (x0 : UnitRef) : Statement (.snapshotWindow x0) := Nat.le_of_ble_eq_true rfl
theorem tracePcSample (x0 : Nat) : Statement (.tracePcSample x0) := Nat.le_of_ble_eq_true rfl
theorem reuseTagExpire (x0 : Nat) (x1 : Nat) : Statement (.reuseTagExpire x0 x1) := Nat.le_of_ble_eq_true rfl
theorem heatChargeWindow (x0 : Nat) : Statement (.heatChargeWindow x0) := Nat.le_of_ble_eq_true rfl
theorem coneSample (x0 : Nat) (x1 : Nat) (x2 : Bool) (x3 : BitVec 16) : Statement (.coneSample x0 x1 x2 x3) := Nat.le_of_ble_eq_true rfl
theorem damperEvaluate (x0 : Nat) : Statement (.damperEvaluate x0) := Nat.le_of_ble_eq_true rfl
theorem thermalPowerOff : Statement (.thermalPowerOff) := Nat.le_of_ble_eq_true rfl
theorem powerFloorUpdate (x0 : Nat) : Statement (.powerFloorUpdate x0) := Nat.le_of_ble_eq_true rfl
theorem vfCapUpdate (x0 : Nat) (x1 : Nat) : Statement (.vfCapUpdate x0 x1) := Nat.le_of_ble_eq_true rfl
theorem voltageUpdate (x0 : Nat) : Statement (.voltageUpdate x0) := Nat.le_of_ble_eq_true rfl
theorem unitGate (x0 : PowerUnit) : Statement (.unitGate x0) := Nat.le_of_ble_eq_true rfl
theorem unitWake (x0 : PowerUnit) : Statement (.unitWake x0) := Nat.le_of_ble_eq_true rfl
theorem powerOnReset (x0 : FirmwareImage) : Statement (.powerOnReset x0) := Nat.le_of_ble_eq_true rfl
theorem packageReset : Statement (.packageReset) := Nat.le_of_ble_eq_true rfl
theorem vfFlr (x0 : Nat) : Statement (.vfFlr x0) := Nat.le_of_ble_eq_true rfl
theorem recoveryImageWrite (x0 : FirmwareImage) : Statement (.recoveryImageWrite x0) := Nat.le_of_ble_eq_true rfl
theorem lifetimeRecordWrite : Statement (.lifetimeRecordWrite) := Nat.le_of_ble_eq_true rfl
theorem orderlyShutdown : Statement (.orderlyShutdown) := Nat.le_of_ble_eq_true rfl
theorem attestRequest (x0 : Option Nat) : Statement (.attestRequest x0) := Nat.le_of_ble_eq_true rfl
theorem attestReportReady (x0 : Option Nat) : Statement (.attestReportReady x0) := Nat.le_of_ble_eq_true rfl
theorem bindTenantKey (x0 : Nat) (x1 : Nat) (x2 : List Byte) : Statement (.bindTenantKey x0 x1 x2) := Nat.le_of_ble_eq_true rfl
theorem contextCreate (x0 : Nat) (x1 : Nat) (x2 : Addr) (x3 : List Byte) : Statement (.contextCreate x0 x1 x2 x3) := Nat.le_of_ble_eq_true rfl
theorem preempt (x0 : Nat) : Statement (.preempt x0) := Nat.le_of_ble_eq_true rfl
theorem contextSave (x0 : Nat) : Statement (.contextSave x0) := Nat.le_of_ble_eq_true rfl
theorem restore (x0 : Nat) (x1 : Nat) : Statement (.restore x0 x1) := Nat.le_of_ble_eq_true rfl
theorem restoreComplete (x0 : Nat) : Statement (.restoreComplete x0) := Nat.le_of_ble_eq_true rfl
theorem flattenContext (x0 : Nat) : Statement (.flattenContext x0) := Nat.le_of_ble_eq_true rfl
theorem liveMigrate (x0 : Nat) (x1 : List Byte) (x2 : Nat) : Statement (.liveMigrate x0 x1 x2) := Nat.le_of_ble_eq_true rfl
theorem drainMigrate (x0 : Nat) : Statement (.drainMigrate x0) := Nat.le_of_ble_eq_true rfl
theorem debugAttach (x0 : Nat) (x1 : Bool) : Statement (.debugAttach x0 x1) := Nat.le_of_ble_eq_true rfl
theorem debugStop (x0 : Nat) : Statement (.debugStop x0) := Nat.le_of_ble_eq_true rfl
theorem debugResume (x0 : Nat) (x1 : Option GroupRef) : Statement (.debugResume x0 x1) := Nat.le_of_ble_eq_true rfl
theorem debugStepSet (x0 : GroupRef) (x1 : Bool) : Statement (.debugStepSet x0 x1) := Nat.le_of_ble_eq_true rfl
theorem debugDump (x0 : GroupRef) (x1 : DumpOp) : Statement (.debugDump x0 x1) := Nat.le_of_ble_eq_true rfl
theorem setColumnSize (x0 : Nat) (x1 : Nat) : Statement (.setColumnSize x0 x1) := Nat.le_of_ble_eq_true rfl
theorem setLowWater (x0 : Nat) (x1 : Nat) : Statement (.setLowWater x0 x1) := Nat.le_of_ble_eq_true rfl
theorem setAgingPeriod (x0 : Nat) : Statement (.setAgingPeriod x0) := Nat.le_of_ble_eq_true rfl
theorem loadCodeObject (x0 : Nat) (x1 : CodeObject) : Statement (.loadCodeObject x0 x1) := Nat.le_of_ble_eq_true rfl
theorem unloadCodeObject (x0 : Nat) (x1 : Nat) : Statement (.unloadCodeObject x0 x1) := Nat.le_of_ble_eq_true rfl
theorem illegalEncoding (x0 : Word) : Statement (.illegalEncoding x0) := Nat.le_of_ble_eq_true rfl
theorem writePerformed (x0 : Nat) : Statement (.writePerformed x0) := Nat.le_of_ble_eq_true rfl
theorem powerFailure : Statement (.powerFailure) := Nat.le_of_ble_eq_true rfl
theorem voltageDroop (x0 : Nat) : Statement (.voltageDroop x0) := Nat.le_of_ble_eq_true rfl
theorem contextDestroy (x0 : Nat) : Statement (.contextDestroy x0) := Nat.le_of_ble_eq_true rfl

end Sys2Proof.Laws.WordFits
end

