-- ==== Sys2Proof/Laws/State.lean ====
section
/-! SUPPORT. What each update of the state leaves in each field, and that memory after reset is canonical. -/

namespace Sys2Proof.Machine

theorem reset_mem_wf : State.reset.mem.wf = true := rfl
theorem reset_host_wf : State.reset.host.wf = true := rfl
@[simp] theorem reset_cores : State.reset.cores.length = 80 := by simp [State.reset]
@[simp] theorem reset_tiles : State.reset.tiles.length = 20 := by simp [State.reset]
@[simp] theorem reset_parts : State.reset.parts.length = 20 := by simp [State.reset]
@[simp] theorem reset_vfs : State.reset.vfs.length = 64 := by simp [State.reset]

@[simp] theorem modCore_power (s : State) (c : Nat) (f : Core → Core) : (s.modCore c f).power = s.power := rfl
@[simp] theorem modCore_agenda (s : State) (c : Nat) (f : Core → Core) : (s.modCore c f).agenda = s.agenda := rfl
@[simp] theorem modCore_port (s : State) (c : Nat) (f : Core → Core) : (s.modCore c f).port = s.port := rfl
@[simp] theorem modCore_free (s : State) (c : Nat) (f : Core → Core) : (s.modCore c f).free = s.free := rfl
@[simp] theorem modCore_nextId (s : State) (c : Nat) (f : Core → Core) : (s.modCore c f).nextId = s.nextId := rfl
@[simp] theorem modCore_cores (s : State) (c : Nat) (f : Core → Core) : (s.modCore c f).cores = (modAt s.cores c f) := rfl
@[simp] theorem modCore_tiles (s : State) (c : Nat) (f : Core → Core) : (s.modCore c f).tiles = s.tiles := rfl
@[simp] theorem modCore_parts (s : State) (c : Nat) (f : Core → Core) : (s.modCore c f).parts = s.parts := rfl
@[simp] theorem modCore_vfs (s : State) (c : Nat) (f : Core → Core) : (s.modCore c f).vfs = s.vfs := rfl
@[simp] theorem modCore_tenants (s : State) (c : Nat) (f : Core → Core) : (s.modCore c f).tenants = s.tenants := rfl
@[simp] theorem modCore_contexts (s : State) (c : Nat) (f : Core → Core) : (s.modCore c f).contexts = s.contexts := rfl
@[simp] theorem modCore_images (s : State) (c : Nat) (f : Core → Core) : (s.modCore c f).images = s.images := rfl
@[simp] theorem modCore_launches (s : State) (c : Nat) (f : Core → Core) : (s.modCore c f).launches = s.launches := rfl
@[simp] theorem modCore_blocks (s : State) (c : Nat) (f : Core → Core) : (s.modCore c f).blocks = s.blocks := rfl
@[simp] theorem modCore_clusters (s : State) (c : Nat) (f : Core → Core) : (s.modCore c f).clusters = s.clusters := rfl
@[simp] theorem modCore_groups (s : State) (c : Nat) (f : Core → Core) : (s.modCore c f).groups = s.groups := rfl
@[simp] theorem modCore_mats (s : State) (c : Nat) (f : Core → Core) : (s.modCore c f).mats = s.mats := rfl
@[simp] theorem modCore_slots (s : State) (c : Nat) (f : Core → Core) : (s.modCore c f).slots = s.slots := rfl
@[simp] theorem modCore_homeq (s : State) (c : Nat) (f : Core → Core) : (s.modCore c f).homeq = s.homeq := rfl
@[simp] theorem modCore_turns (s : State) (c : Nat) (f : Core → Core) : (s.modCore c f).turns = s.turns := rfl
@[simp] theorem modCore_units (s : State) (c : Nat) (f : Core → Core) : (s.modCore c f).units = s.units := rfl
@[simp] theorem modCore_mem (s : State) (c : Nat) (f : Core → Core) : (s.modCore c f).mem = s.mem := rfl
@[simp] theorem modCore_poison (s : State) (c : Nat) (f : Core → Core) : (s.modCore c f).poison = s.poison := rfl
@[simp] theorem modCore_host (s : State) (c : Nat) (f : Core → Core) : (s.modCore c f).host = s.host := rfl
@[simp] theorem modCore_inflight (s : State) (c : Nat) (f : Core → Core) : (s.modCore c f).inflight = s.inflight := rfl
@[simp] theorem modCore_reads (s : State) (c : Nat) (f : Core → Core) : (s.modCore c f).reads = s.reads := rfl
@[simp] theorem modCore_rowops (s : State) (c : Nat) (f : Core → Core) : (s.modCore c f).rowops = s.rowops := rfl
@[simp] theorem modCore_relqs (s : State) (c : Nat) (f : Core → Core) : (s.modCore c f).relqs = s.relqs := rfl
@[simp] theorem modCore_recs (s : State) (c : Nat) (f : Core → Core) : (s.modCore c f).recs = s.recs := rfl
@[simp] theorem modCore_faultLog (s : State) (c : Nat) (f : Core → Core) : (s.modCore c f).faultLog = s.faultLog := rfl
@[simp] theorem modCore_pfCauses (s : State) (c : Nat) (f : Core → Core) : (s.modCore c f).pfCauses = s.pfCauses := rfl
@[simp] theorem modCore_isolation (s : State) (c : Nat) (f : Core → Core) : (s.modCore c f).isolation = s.isolation := rfl
@[simp] theorem modCore_floor (s : State) (c : Nat) (f : Core → Core) : (s.modCore c f).floor = s.floor := rfl
@[simp] theorem modCore_pfReport (s : State) (c : Nat) (f : Core → Core) : (s.modCore c f).pfReport = s.pfReport := rfl
@[simp] theorem modCore_fuseRoll (s : State) (c : Nat) (f : Core → Core) : (s.modCore c f).fuseRoll = s.fuseRoll := rfl
@[simp] theorem modCore_fw (s : State) (c : Nat) (f : Core → Core) : (s.modCore c f).fw = s.fw := rfl
@[simp] theorem modCore_image (s : State) (c : Nat) (f : Core → Core) : (s.modCore c f).image = s.image := rfl
@[simp] theorem modCore_flash (s : State) (c : Nat) (f : Core → Core) : (s.modCore c f).flash = s.flash := rfl
@[simp] theorem modCore_life (s : State) (c : Nat) (f : Core → Core) : (s.modCore c f).life = s.life := rfl
@[simp] theorem modCore_heat (s : State) (c : Nat) (f : Core → Core) : (s.modCore c f).heat = s.heat := rfl
@[simp] theorem modCore_period (s : State) (c : Nat) (f : Core → Core) : (s.modCore c f).period = s.period := rfl
@[simp] theorem modCore_ticks (s : State) (c : Nat) (f : Core → Core) : (s.modCore c f).ticks = s.ticks := rfl
@[simp] theorem modCore_hot (s : State) (c : Nat) (f : Core → Core) : (s.modCore c f).hot = s.hot := rfl
@[simp] theorem modCore_ports (s : State) (c : Nat) (f : Core → Core) : (s.modCore c f).ports = s.ports := rfl
@[simp] theorem modCore_passed (s : State) (c : Nat) (f : Core → Core) : (s.modCore c f).passed = s.passed := rfl
@[simp] theorem modCore_scrubs (s : State) (c : Nat) (f : Core → Core) : (s.modCore c f).scrubs = s.scrubs := rfl
@[simp] theorem modCore_scrubAt (s : State) (c : Nat) (f : Core → Core) : (s.modCore c f).scrubAt = s.scrubAt := rfl
@[simp] theorem modCore_devKey (s : State) (c : Nat) (f : Core → Core) : (s.modCore c f).devKey = s.devKey := rfl
@[simp] theorem modCore_cert (s : State) (c : Nat) (f : Core → Core) : (s.modCore c f).cert = s.cert := rfl
@[simp] theorem modCore_uncounted (s : State) (c : Nat) (f : Core → Core) : (s.modCore c f).uncounted = s.uncounted := rfl

@[simp] theorem modTile_power (s : State) (t : Nat) (f : Tile → Tile) : (s.modTile t f).power = s.power := rfl
@[simp] theorem modTile_agenda (s : State) (t : Nat) (f : Tile → Tile) : (s.modTile t f).agenda = s.agenda := rfl
@[simp] theorem modTile_port (s : State) (t : Nat) (f : Tile → Tile) : (s.modTile t f).port = s.port := rfl
@[simp] theorem modTile_free (s : State) (t : Nat) (f : Tile → Tile) : (s.modTile t f).free = s.free := rfl
@[simp] theorem modTile_nextId (s : State) (t : Nat) (f : Tile → Tile) : (s.modTile t f).nextId = s.nextId := rfl
@[simp] theorem modTile_cores (s : State) (t : Nat) (f : Tile → Tile) : (s.modTile t f).cores = s.cores := rfl
@[simp] theorem modTile_tiles (s : State) (t : Nat) (f : Tile → Tile) : (s.modTile t f).tiles = (modAt s.tiles t f) := rfl
@[simp] theorem modTile_parts (s : State) (t : Nat) (f : Tile → Tile) : (s.modTile t f).parts = s.parts := rfl
@[simp] theorem modTile_vfs (s : State) (t : Nat) (f : Tile → Tile) : (s.modTile t f).vfs = s.vfs := rfl
@[simp] theorem modTile_tenants (s : State) (t : Nat) (f : Tile → Tile) : (s.modTile t f).tenants = s.tenants := rfl
@[simp] theorem modTile_contexts (s : State) (t : Nat) (f : Tile → Tile) : (s.modTile t f).contexts = s.contexts := rfl
@[simp] theorem modTile_images (s : State) (t : Nat) (f : Tile → Tile) : (s.modTile t f).images = s.images := rfl
@[simp] theorem modTile_launches (s : State) (t : Nat) (f : Tile → Tile) : (s.modTile t f).launches = s.launches := rfl
@[simp] theorem modTile_blocks (s : State) (t : Nat) (f : Tile → Tile) : (s.modTile t f).blocks = s.blocks := rfl
@[simp] theorem modTile_clusters (s : State) (t : Nat) (f : Tile → Tile) : (s.modTile t f).clusters = s.clusters := rfl
@[simp] theorem modTile_groups (s : State) (t : Nat) (f : Tile → Tile) : (s.modTile t f).groups = s.groups := rfl
@[simp] theorem modTile_mats (s : State) (t : Nat) (f : Tile → Tile) : (s.modTile t f).mats = s.mats := rfl
@[simp] theorem modTile_slots (s : State) (t : Nat) (f : Tile → Tile) : (s.modTile t f).slots = s.slots := rfl
@[simp] theorem modTile_homeq (s : State) (t : Nat) (f : Tile → Tile) : (s.modTile t f).homeq = s.homeq := rfl
@[simp] theorem modTile_turns (s : State) (t : Nat) (f : Tile → Tile) : (s.modTile t f).turns = s.turns := rfl
@[simp] theorem modTile_units (s : State) (t : Nat) (f : Tile → Tile) : (s.modTile t f).units = s.units := rfl
@[simp] theorem modTile_mem (s : State) (t : Nat) (f : Tile → Tile) : (s.modTile t f).mem = s.mem := rfl
@[simp] theorem modTile_poison (s : State) (t : Nat) (f : Tile → Tile) : (s.modTile t f).poison = s.poison := rfl
@[simp] theorem modTile_host (s : State) (t : Nat) (f : Tile → Tile) : (s.modTile t f).host = s.host := rfl
@[simp] theorem modTile_inflight (s : State) (t : Nat) (f : Tile → Tile) : (s.modTile t f).inflight = s.inflight := rfl
@[simp] theorem modTile_reads (s : State) (t : Nat) (f : Tile → Tile) : (s.modTile t f).reads = s.reads := rfl
@[simp] theorem modTile_rowops (s : State) (t : Nat) (f : Tile → Tile) : (s.modTile t f).rowops = s.rowops := rfl
@[simp] theorem modTile_relqs (s : State) (t : Nat) (f : Tile → Tile) : (s.modTile t f).relqs = s.relqs := rfl
@[simp] theorem modTile_recs (s : State) (t : Nat) (f : Tile → Tile) : (s.modTile t f).recs = s.recs := rfl
@[simp] theorem modTile_faultLog (s : State) (t : Nat) (f : Tile → Tile) : (s.modTile t f).faultLog = s.faultLog := rfl
@[simp] theorem modTile_pfCauses (s : State) (t : Nat) (f : Tile → Tile) : (s.modTile t f).pfCauses = s.pfCauses := rfl
@[simp] theorem modTile_isolation (s : State) (t : Nat) (f : Tile → Tile) : (s.modTile t f).isolation = s.isolation := rfl
@[simp] theorem modTile_floor (s : State) (t : Nat) (f : Tile → Tile) : (s.modTile t f).floor = s.floor := rfl
@[simp] theorem modTile_pfReport (s : State) (t : Nat) (f : Tile → Tile) : (s.modTile t f).pfReport = s.pfReport := rfl
@[simp] theorem modTile_fuseRoll (s : State) (t : Nat) (f : Tile → Tile) : (s.modTile t f).fuseRoll = s.fuseRoll := rfl
@[simp] theorem modTile_fw (s : State) (t : Nat) (f : Tile → Tile) : (s.modTile t f).fw = s.fw := rfl
@[simp] theorem modTile_image (s : State) (t : Nat) (f : Tile → Tile) : (s.modTile t f).image = s.image := rfl
@[simp] theorem modTile_flash (s : State) (t : Nat) (f : Tile → Tile) : (s.modTile t f).flash = s.flash := rfl
@[simp] theorem modTile_life (s : State) (t : Nat) (f : Tile → Tile) : (s.modTile t f).life = s.life := rfl
@[simp] theorem modTile_heat (s : State) (t : Nat) (f : Tile → Tile) : (s.modTile t f).heat = s.heat := rfl
@[simp] theorem modTile_period (s : State) (t : Nat) (f : Tile → Tile) : (s.modTile t f).period = s.period := rfl
@[simp] theorem modTile_ticks (s : State) (t : Nat) (f : Tile → Tile) : (s.modTile t f).ticks = s.ticks := rfl
@[simp] theorem modTile_hot (s : State) (t : Nat) (f : Tile → Tile) : (s.modTile t f).hot = s.hot := rfl
@[simp] theorem modTile_ports (s : State) (t : Nat) (f : Tile → Tile) : (s.modTile t f).ports = s.ports := rfl
@[simp] theorem modTile_passed (s : State) (t : Nat) (f : Tile → Tile) : (s.modTile t f).passed = s.passed := rfl
@[simp] theorem modTile_scrubs (s : State) (t : Nat) (f : Tile → Tile) : (s.modTile t f).scrubs = s.scrubs := rfl
@[simp] theorem modTile_scrubAt (s : State) (t : Nat) (f : Tile → Tile) : (s.modTile t f).scrubAt = s.scrubAt := rfl
@[simp] theorem modTile_devKey (s : State) (t : Nat) (f : Tile → Tile) : (s.modTile t f).devKey = s.devKey := rfl
@[simp] theorem modTile_cert (s : State) (t : Nat) (f : Tile → Tile) : (s.modTile t f).cert = s.cert := rfl
@[simp] theorem modTile_uncounted (s : State) (t : Nat) (f : Tile → Tile) : (s.modTile t f).uncounted = s.uncounted := rfl

@[simp] theorem modVf_power (s : State) (v : Nat) (f : Vf → Vf) : (s.modVf v f).power = s.power := rfl
@[simp] theorem modVf_agenda (s : State) (v : Nat) (f : Vf → Vf) : (s.modVf v f).agenda = s.agenda := rfl
@[simp] theorem modVf_port (s : State) (v : Nat) (f : Vf → Vf) : (s.modVf v f).port = s.port := rfl
@[simp] theorem modVf_free (s : State) (v : Nat) (f : Vf → Vf) : (s.modVf v f).free = s.free := rfl
@[simp] theorem modVf_nextId (s : State) (v : Nat) (f : Vf → Vf) : (s.modVf v f).nextId = s.nextId := rfl
@[simp] theorem modVf_cores (s : State) (v : Nat) (f : Vf → Vf) : (s.modVf v f).cores = s.cores := rfl
@[simp] theorem modVf_tiles (s : State) (v : Nat) (f : Vf → Vf) : (s.modVf v f).tiles = s.tiles := rfl
@[simp] theorem modVf_parts (s : State) (v : Nat) (f : Vf → Vf) : (s.modVf v f).parts = s.parts := rfl
@[simp] theorem modVf_vfs (s : State) (v : Nat) (f : Vf → Vf) : (s.modVf v f).vfs = (modAt s.vfs v f) := rfl
@[simp] theorem modVf_tenants (s : State) (v : Nat) (f : Vf → Vf) : (s.modVf v f).tenants = s.tenants := rfl
@[simp] theorem modVf_contexts (s : State) (v : Nat) (f : Vf → Vf) : (s.modVf v f).contexts = s.contexts := rfl
@[simp] theorem modVf_images (s : State) (v : Nat) (f : Vf → Vf) : (s.modVf v f).images = s.images := rfl
@[simp] theorem modVf_launches (s : State) (v : Nat) (f : Vf → Vf) : (s.modVf v f).launches = s.launches := rfl
@[simp] theorem modVf_blocks (s : State) (v : Nat) (f : Vf → Vf) : (s.modVf v f).blocks = s.blocks := rfl
@[simp] theorem modVf_clusters (s : State) (v : Nat) (f : Vf → Vf) : (s.modVf v f).clusters = s.clusters := rfl
@[simp] theorem modVf_groups (s : State) (v : Nat) (f : Vf → Vf) : (s.modVf v f).groups = s.groups := rfl
@[simp] theorem modVf_mats (s : State) (v : Nat) (f : Vf → Vf) : (s.modVf v f).mats = s.mats := rfl
@[simp] theorem modVf_slots (s : State) (v : Nat) (f : Vf → Vf) : (s.modVf v f).slots = s.slots := rfl
@[simp] theorem modVf_homeq (s : State) (v : Nat) (f : Vf → Vf) : (s.modVf v f).homeq = s.homeq := rfl
@[simp] theorem modVf_turns (s : State) (v : Nat) (f : Vf → Vf) : (s.modVf v f).turns = s.turns := rfl
@[simp] theorem modVf_units (s : State) (v : Nat) (f : Vf → Vf) : (s.modVf v f).units = s.units := rfl
@[simp] theorem modVf_mem (s : State) (v : Nat) (f : Vf → Vf) : (s.modVf v f).mem = s.mem := rfl
@[simp] theorem modVf_poison (s : State) (v : Nat) (f : Vf → Vf) : (s.modVf v f).poison = s.poison := rfl
@[simp] theorem modVf_host (s : State) (v : Nat) (f : Vf → Vf) : (s.modVf v f).host = s.host := rfl
@[simp] theorem modVf_inflight (s : State) (v : Nat) (f : Vf → Vf) : (s.modVf v f).inflight = s.inflight := rfl
@[simp] theorem modVf_reads (s : State) (v : Nat) (f : Vf → Vf) : (s.modVf v f).reads = s.reads := rfl
@[simp] theorem modVf_rowops (s : State) (v : Nat) (f : Vf → Vf) : (s.modVf v f).rowops = s.rowops := rfl
@[simp] theorem modVf_relqs (s : State) (v : Nat) (f : Vf → Vf) : (s.modVf v f).relqs = s.relqs := rfl
@[simp] theorem modVf_recs (s : State) (v : Nat) (f : Vf → Vf) : (s.modVf v f).recs = s.recs := rfl
@[simp] theorem modVf_faultLog (s : State) (v : Nat) (f : Vf → Vf) : (s.modVf v f).faultLog = s.faultLog := rfl
@[simp] theorem modVf_pfCauses (s : State) (v : Nat) (f : Vf → Vf) : (s.modVf v f).pfCauses = s.pfCauses := rfl
@[simp] theorem modVf_isolation (s : State) (v : Nat) (f : Vf → Vf) : (s.modVf v f).isolation = s.isolation := rfl
@[simp] theorem modVf_floor (s : State) (v : Nat) (f : Vf → Vf) : (s.modVf v f).floor = s.floor := rfl
@[simp] theorem modVf_pfReport (s : State) (v : Nat) (f : Vf → Vf) : (s.modVf v f).pfReport = s.pfReport := rfl
@[simp] theorem modVf_fuseRoll (s : State) (v : Nat) (f : Vf → Vf) : (s.modVf v f).fuseRoll = s.fuseRoll := rfl
@[simp] theorem modVf_fw (s : State) (v : Nat) (f : Vf → Vf) : (s.modVf v f).fw = s.fw := rfl
@[simp] theorem modVf_image (s : State) (v : Nat) (f : Vf → Vf) : (s.modVf v f).image = s.image := rfl
@[simp] theorem modVf_flash (s : State) (v : Nat) (f : Vf → Vf) : (s.modVf v f).flash = s.flash := rfl
@[simp] theorem modVf_life (s : State) (v : Nat) (f : Vf → Vf) : (s.modVf v f).life = s.life := rfl
@[simp] theorem modVf_heat (s : State) (v : Nat) (f : Vf → Vf) : (s.modVf v f).heat = s.heat := rfl
@[simp] theorem modVf_period (s : State) (v : Nat) (f : Vf → Vf) : (s.modVf v f).period = s.period := rfl
@[simp] theorem modVf_ticks (s : State) (v : Nat) (f : Vf → Vf) : (s.modVf v f).ticks = s.ticks := rfl
@[simp] theorem modVf_hot (s : State) (v : Nat) (f : Vf → Vf) : (s.modVf v f).hot = s.hot := rfl
@[simp] theorem modVf_ports (s : State) (v : Nat) (f : Vf → Vf) : (s.modVf v f).ports = s.ports := rfl
@[simp] theorem modVf_passed (s : State) (v : Nat) (f : Vf → Vf) : (s.modVf v f).passed = s.passed := rfl
@[simp] theorem modVf_scrubs (s : State) (v : Nat) (f : Vf → Vf) : (s.modVf v f).scrubs = s.scrubs := rfl
@[simp] theorem modVf_scrubAt (s : State) (v : Nat) (f : Vf → Vf) : (s.modVf v f).scrubAt = s.scrubAt := rfl
@[simp] theorem modVf_devKey (s : State) (v : Nat) (f : Vf → Vf) : (s.modVf v f).devKey = s.devKey := rfl
@[simp] theorem modVf_cert (s : State) (v : Nat) (f : Vf → Vf) : (s.modVf v f).cert = s.cert := rfl
@[simp] theorem modVf_uncounted (s : State) (v : Nat) (f : Vf → Vf) : (s.modVf v f).uncounted = s.uncounted := rfl

@[simp] theorem modIso_power (s : State) (p : Nat) (f : IsoPart → IsoPart) : (s.modIso p f).power = s.power := rfl
@[simp] theorem modIso_agenda (s : State) (p : Nat) (f : IsoPart → IsoPart) : (s.modIso p f).agenda = s.agenda := rfl
@[simp] theorem modIso_port (s : State) (p : Nat) (f : IsoPart → IsoPart) : (s.modIso p f).port = s.port := rfl
@[simp] theorem modIso_free (s : State) (p : Nat) (f : IsoPart → IsoPart) : (s.modIso p f).free = s.free := rfl
@[simp] theorem modIso_nextId (s : State) (p : Nat) (f : IsoPart → IsoPart) : (s.modIso p f).nextId = s.nextId := rfl
@[simp] theorem modIso_cores (s : State) (p : Nat) (f : IsoPart → IsoPart) : (s.modIso p f).cores = s.cores := rfl
@[simp] theorem modIso_tiles (s : State) (p : Nat) (f : IsoPart → IsoPart) : (s.modIso p f).tiles = s.tiles := rfl
@[simp] theorem modIso_parts (s : State) (p : Nat) (f : IsoPart → IsoPart) : (s.modIso p f).parts = (modAt s.parts p f) := rfl
@[simp] theorem modIso_vfs (s : State) (p : Nat) (f : IsoPart → IsoPart) : (s.modIso p f).vfs = s.vfs := rfl
@[simp] theorem modIso_tenants (s : State) (p : Nat) (f : IsoPart → IsoPart) : (s.modIso p f).tenants = s.tenants := rfl
@[simp] theorem modIso_contexts (s : State) (p : Nat) (f : IsoPart → IsoPart) : (s.modIso p f).contexts = s.contexts := rfl
@[simp] theorem modIso_images (s : State) (p : Nat) (f : IsoPart → IsoPart) : (s.modIso p f).images = s.images := rfl
@[simp] theorem modIso_launches (s : State) (p : Nat) (f : IsoPart → IsoPart) : (s.modIso p f).launches = s.launches := rfl
@[simp] theorem modIso_blocks (s : State) (p : Nat) (f : IsoPart → IsoPart) : (s.modIso p f).blocks = s.blocks := rfl
@[simp] theorem modIso_clusters (s : State) (p : Nat) (f : IsoPart → IsoPart) : (s.modIso p f).clusters = s.clusters := rfl
@[simp] theorem modIso_groups (s : State) (p : Nat) (f : IsoPart → IsoPart) : (s.modIso p f).groups = s.groups := rfl
@[simp] theorem modIso_mats (s : State) (p : Nat) (f : IsoPart → IsoPart) : (s.modIso p f).mats = s.mats := rfl
@[simp] theorem modIso_slots (s : State) (p : Nat) (f : IsoPart → IsoPart) : (s.modIso p f).slots = s.slots := rfl
@[simp] theorem modIso_homeq (s : State) (p : Nat) (f : IsoPart → IsoPart) : (s.modIso p f).homeq = s.homeq := rfl
@[simp] theorem modIso_turns (s : State) (p : Nat) (f : IsoPart → IsoPart) : (s.modIso p f).turns = s.turns := rfl
@[simp] theorem modIso_units (s : State) (p : Nat) (f : IsoPart → IsoPart) : (s.modIso p f).units = s.units := rfl
@[simp] theorem modIso_mem (s : State) (p : Nat) (f : IsoPart → IsoPart) : (s.modIso p f).mem = s.mem := rfl
@[simp] theorem modIso_poison (s : State) (p : Nat) (f : IsoPart → IsoPart) : (s.modIso p f).poison = s.poison := rfl
@[simp] theorem modIso_host (s : State) (p : Nat) (f : IsoPart → IsoPart) : (s.modIso p f).host = s.host := rfl
@[simp] theorem modIso_inflight (s : State) (p : Nat) (f : IsoPart → IsoPart) : (s.modIso p f).inflight = s.inflight := rfl
@[simp] theorem modIso_reads (s : State) (p : Nat) (f : IsoPart → IsoPart) : (s.modIso p f).reads = s.reads := rfl
@[simp] theorem modIso_rowops (s : State) (p : Nat) (f : IsoPart → IsoPart) : (s.modIso p f).rowops = s.rowops := rfl
@[simp] theorem modIso_relqs (s : State) (p : Nat) (f : IsoPart → IsoPart) : (s.modIso p f).relqs = s.relqs := rfl
@[simp] theorem modIso_recs (s : State) (p : Nat) (f : IsoPart → IsoPart) : (s.modIso p f).recs = s.recs := rfl
@[simp] theorem modIso_faultLog (s : State) (p : Nat) (f : IsoPart → IsoPart) : (s.modIso p f).faultLog = s.faultLog := rfl
@[simp] theorem modIso_pfCauses (s : State) (p : Nat) (f : IsoPart → IsoPart) : (s.modIso p f).pfCauses = s.pfCauses := rfl
@[simp] theorem modIso_isolation (s : State) (p : Nat) (f : IsoPart → IsoPart) : (s.modIso p f).isolation = s.isolation := rfl
@[simp] theorem modIso_floor (s : State) (p : Nat) (f : IsoPart → IsoPart) : (s.modIso p f).floor = s.floor := rfl
@[simp] theorem modIso_pfReport (s : State) (p : Nat) (f : IsoPart → IsoPart) : (s.modIso p f).pfReport = s.pfReport := rfl
@[simp] theorem modIso_fuseRoll (s : State) (p : Nat) (f : IsoPart → IsoPart) : (s.modIso p f).fuseRoll = s.fuseRoll := rfl
@[simp] theorem modIso_fw (s : State) (p : Nat) (f : IsoPart → IsoPart) : (s.modIso p f).fw = s.fw := rfl
@[simp] theorem modIso_image (s : State) (p : Nat) (f : IsoPart → IsoPart) : (s.modIso p f).image = s.image := rfl
@[simp] theorem modIso_flash (s : State) (p : Nat) (f : IsoPart → IsoPart) : (s.modIso p f).flash = s.flash := rfl
@[simp] theorem modIso_life (s : State) (p : Nat) (f : IsoPart → IsoPart) : (s.modIso p f).life = s.life := rfl
@[simp] theorem modIso_heat (s : State) (p : Nat) (f : IsoPart → IsoPart) : (s.modIso p f).heat = s.heat := rfl
@[simp] theorem modIso_period (s : State) (p : Nat) (f : IsoPart → IsoPart) : (s.modIso p f).period = s.period := rfl
@[simp] theorem modIso_ticks (s : State) (p : Nat) (f : IsoPart → IsoPart) : (s.modIso p f).ticks = s.ticks := rfl
@[simp] theorem modIso_hot (s : State) (p : Nat) (f : IsoPart → IsoPart) : (s.modIso p f).hot = s.hot := rfl
@[simp] theorem modIso_ports (s : State) (p : Nat) (f : IsoPart → IsoPart) : (s.modIso p f).ports = s.ports := rfl
@[simp] theorem modIso_passed (s : State) (p : Nat) (f : IsoPart → IsoPart) : (s.modIso p f).passed = s.passed := rfl
@[simp] theorem modIso_scrubs (s : State) (p : Nat) (f : IsoPart → IsoPart) : (s.modIso p f).scrubs = s.scrubs := rfl
@[simp] theorem modIso_scrubAt (s : State) (p : Nat) (f : IsoPart → IsoPart) : (s.modIso p f).scrubAt = s.scrubAt := rfl
@[simp] theorem modIso_devKey (s : State) (p : Nat) (f : IsoPart → IsoPart) : (s.modIso p f).devKey = s.devKey := rfl
@[simp] theorem modIso_cert (s : State) (p : Nat) (f : IsoPart → IsoPart) : (s.modIso p f).cert = s.cert := rfl
@[simp] theorem modIso_uncounted (s : State) (p : Nat) (f : IsoPart → IsoPart) : (s.modIso p f).uncounted = s.uncounted := rfl

@[simp] theorem modCtx_power (s : State) (c : Nat) (f : Context → Context) : (s.modCtx c f).power = s.power := rfl
@[simp] theorem modCtx_agenda (s : State) (c : Nat) (f : Context → Context) : (s.modCtx c f).agenda = s.agenda := rfl
@[simp] theorem modCtx_port (s : State) (c : Nat) (f : Context → Context) : (s.modCtx c f).port = s.port := rfl
@[simp] theorem modCtx_free (s : State) (c : Nat) (f : Context → Context) : (s.modCtx c f).free = s.free := rfl
@[simp] theorem modCtx_nextId (s : State) (c : Nat) (f : Context → Context) : (s.modCtx c f).nextId = s.nextId := rfl
@[simp] theorem modCtx_cores (s : State) (c : Nat) (f : Context → Context) : (s.modCtx c f).cores = s.cores := rfl
@[simp] theorem modCtx_tiles (s : State) (c : Nat) (f : Context → Context) : (s.modCtx c f).tiles = s.tiles := rfl
@[simp] theorem modCtx_parts (s : State) (c : Nat) (f : Context → Context) : (s.modCtx c f).parts = s.parts := rfl
@[simp] theorem modCtx_vfs (s : State) (c : Nat) (f : Context → Context) : (s.modCtx c f).vfs = s.vfs := rfl
@[simp] theorem modCtx_tenants (s : State) (c : Nat) (f : Context → Context) : (s.modCtx c f).tenants = s.tenants := rfl
@[simp] theorem modCtx_contexts (s : State) (c : Nat) (f : Context → Context) : (s.modCtx c f).contexts = (s.contexts.map fun x => if x.id = c then f x else x) := rfl
@[simp] theorem modCtx_images (s : State) (c : Nat) (f : Context → Context) : (s.modCtx c f).images = s.images := rfl
@[simp] theorem modCtx_launches (s : State) (c : Nat) (f : Context → Context) : (s.modCtx c f).launches = s.launches := rfl
@[simp] theorem modCtx_blocks (s : State) (c : Nat) (f : Context → Context) : (s.modCtx c f).blocks = s.blocks := rfl
@[simp] theorem modCtx_clusters (s : State) (c : Nat) (f : Context → Context) : (s.modCtx c f).clusters = s.clusters := rfl
@[simp] theorem modCtx_groups (s : State) (c : Nat) (f : Context → Context) : (s.modCtx c f).groups = s.groups := rfl
@[simp] theorem modCtx_mats (s : State) (c : Nat) (f : Context → Context) : (s.modCtx c f).mats = s.mats := rfl
@[simp] theorem modCtx_slots (s : State) (c : Nat) (f : Context → Context) : (s.modCtx c f).slots = s.slots := rfl
@[simp] theorem modCtx_homeq (s : State) (c : Nat) (f : Context → Context) : (s.modCtx c f).homeq = s.homeq := rfl
@[simp] theorem modCtx_turns (s : State) (c : Nat) (f : Context → Context) : (s.modCtx c f).turns = s.turns := rfl
@[simp] theorem modCtx_units (s : State) (c : Nat) (f : Context → Context) : (s.modCtx c f).units = s.units := rfl
@[simp] theorem modCtx_mem (s : State) (c : Nat) (f : Context → Context) : (s.modCtx c f).mem = s.mem := rfl
@[simp] theorem modCtx_poison (s : State) (c : Nat) (f : Context → Context) : (s.modCtx c f).poison = s.poison := rfl
@[simp] theorem modCtx_host (s : State) (c : Nat) (f : Context → Context) : (s.modCtx c f).host = s.host := rfl
@[simp] theorem modCtx_inflight (s : State) (c : Nat) (f : Context → Context) : (s.modCtx c f).inflight = s.inflight := rfl
@[simp] theorem modCtx_reads (s : State) (c : Nat) (f : Context → Context) : (s.modCtx c f).reads = s.reads := rfl
@[simp] theorem modCtx_rowops (s : State) (c : Nat) (f : Context → Context) : (s.modCtx c f).rowops = s.rowops := rfl
@[simp] theorem modCtx_relqs (s : State) (c : Nat) (f : Context → Context) : (s.modCtx c f).relqs = s.relqs := rfl
@[simp] theorem modCtx_recs (s : State) (c : Nat) (f : Context → Context) : (s.modCtx c f).recs = s.recs := rfl
@[simp] theorem modCtx_faultLog (s : State) (c : Nat) (f : Context → Context) : (s.modCtx c f).faultLog = s.faultLog := rfl
@[simp] theorem modCtx_pfCauses (s : State) (c : Nat) (f : Context → Context) : (s.modCtx c f).pfCauses = s.pfCauses := rfl
@[simp] theorem modCtx_isolation (s : State) (c : Nat) (f : Context → Context) : (s.modCtx c f).isolation = s.isolation := rfl
@[simp] theorem modCtx_floor (s : State) (c : Nat) (f : Context → Context) : (s.modCtx c f).floor = s.floor := rfl
@[simp] theorem modCtx_pfReport (s : State) (c : Nat) (f : Context → Context) : (s.modCtx c f).pfReport = s.pfReport := rfl
@[simp] theorem modCtx_fuseRoll (s : State) (c : Nat) (f : Context → Context) : (s.modCtx c f).fuseRoll = s.fuseRoll := rfl
@[simp] theorem modCtx_fw (s : State) (c : Nat) (f : Context → Context) : (s.modCtx c f).fw = s.fw := rfl
@[simp] theorem modCtx_image (s : State) (c : Nat) (f : Context → Context) : (s.modCtx c f).image = s.image := rfl
@[simp] theorem modCtx_flash (s : State) (c : Nat) (f : Context → Context) : (s.modCtx c f).flash = s.flash := rfl
@[simp] theorem modCtx_life (s : State) (c : Nat) (f : Context → Context) : (s.modCtx c f).life = s.life := rfl
@[simp] theorem modCtx_heat (s : State) (c : Nat) (f : Context → Context) : (s.modCtx c f).heat = s.heat := rfl
@[simp] theorem modCtx_period (s : State) (c : Nat) (f : Context → Context) : (s.modCtx c f).period = s.period := rfl
@[simp] theorem modCtx_ticks (s : State) (c : Nat) (f : Context → Context) : (s.modCtx c f).ticks = s.ticks := rfl
@[simp] theorem modCtx_hot (s : State) (c : Nat) (f : Context → Context) : (s.modCtx c f).hot = s.hot := rfl
@[simp] theorem modCtx_ports (s : State) (c : Nat) (f : Context → Context) : (s.modCtx c f).ports = s.ports := rfl
@[simp] theorem modCtx_passed (s : State) (c : Nat) (f : Context → Context) : (s.modCtx c f).passed = s.passed := rfl
@[simp] theorem modCtx_scrubs (s : State) (c : Nat) (f : Context → Context) : (s.modCtx c f).scrubs = s.scrubs := rfl
@[simp] theorem modCtx_scrubAt (s : State) (c : Nat) (f : Context → Context) : (s.modCtx c f).scrubAt = s.scrubAt := rfl
@[simp] theorem modCtx_devKey (s : State) (c : Nat) (f : Context → Context) : (s.modCtx c f).devKey = s.devKey := rfl
@[simp] theorem modCtx_cert (s : State) (c : Nat) (f : Context → Context) : (s.modCtx c f).cert = s.cert := rfl
@[simp] theorem modCtx_uncounted (s : State) (c : Nat) (f : Context → Context) : (s.modCtx c f).uncounted = s.uncounted := rfl

@[simp] theorem modBlock_power (s : State) (b : Nat) (f : Block → Block) : (s.modBlock b f).power = s.power := rfl
@[simp] theorem modBlock_agenda (s : State) (b : Nat) (f : Block → Block) : (s.modBlock b f).agenda = s.agenda := rfl
@[simp] theorem modBlock_port (s : State) (b : Nat) (f : Block → Block) : (s.modBlock b f).port = s.port := rfl
@[simp] theorem modBlock_free (s : State) (b : Nat) (f : Block → Block) : (s.modBlock b f).free = s.free := rfl
@[simp] theorem modBlock_nextId (s : State) (b : Nat) (f : Block → Block) : (s.modBlock b f).nextId = s.nextId := rfl
@[simp] theorem modBlock_cores (s : State) (b : Nat) (f : Block → Block) : (s.modBlock b f).cores = s.cores := rfl
@[simp] theorem modBlock_tiles (s : State) (b : Nat) (f : Block → Block) : (s.modBlock b f).tiles = s.tiles := rfl
@[simp] theorem modBlock_parts (s : State) (b : Nat) (f : Block → Block) : (s.modBlock b f).parts = s.parts := rfl
@[simp] theorem modBlock_vfs (s : State) (b : Nat) (f : Block → Block) : (s.modBlock b f).vfs = s.vfs := rfl
@[simp] theorem modBlock_tenants (s : State) (b : Nat) (f : Block → Block) : (s.modBlock b f).tenants = s.tenants := rfl
@[simp] theorem modBlock_contexts (s : State) (b : Nat) (f : Block → Block) : (s.modBlock b f).contexts = s.contexts := rfl
@[simp] theorem modBlock_images (s : State) (b : Nat) (f : Block → Block) : (s.modBlock b f).images = s.images := rfl
@[simp] theorem modBlock_launches (s : State) (b : Nat) (f : Block → Block) : (s.modBlock b f).launches = s.launches := rfl
@[simp] theorem modBlock_blocks (s : State) (b : Nat) (f : Block → Block) : (s.modBlock b f).blocks = (s.blocks.map fun x => if x.id = b then f x else x) := rfl
@[simp] theorem modBlock_clusters (s : State) (b : Nat) (f : Block → Block) : (s.modBlock b f).clusters = s.clusters := rfl
@[simp] theorem modBlock_groups (s : State) (b : Nat) (f : Block → Block) : (s.modBlock b f).groups = s.groups := rfl
@[simp] theorem modBlock_mats (s : State) (b : Nat) (f : Block → Block) : (s.modBlock b f).mats = s.mats := rfl
@[simp] theorem modBlock_slots (s : State) (b : Nat) (f : Block → Block) : (s.modBlock b f).slots = s.slots := rfl
@[simp] theorem modBlock_homeq (s : State) (b : Nat) (f : Block → Block) : (s.modBlock b f).homeq = s.homeq := rfl
@[simp] theorem modBlock_turns (s : State) (b : Nat) (f : Block → Block) : (s.modBlock b f).turns = s.turns := rfl
@[simp] theorem modBlock_units (s : State) (b : Nat) (f : Block → Block) : (s.modBlock b f).units = s.units := rfl
@[simp] theorem modBlock_mem (s : State) (b : Nat) (f : Block → Block) : (s.modBlock b f).mem = s.mem := rfl
@[simp] theorem modBlock_poison (s : State) (b : Nat) (f : Block → Block) : (s.modBlock b f).poison = s.poison := rfl
@[simp] theorem modBlock_host (s : State) (b : Nat) (f : Block → Block) : (s.modBlock b f).host = s.host := rfl
@[simp] theorem modBlock_inflight (s : State) (b : Nat) (f : Block → Block) : (s.modBlock b f).inflight = s.inflight := rfl
@[simp] theorem modBlock_reads (s : State) (b : Nat) (f : Block → Block) : (s.modBlock b f).reads = s.reads := rfl
@[simp] theorem modBlock_rowops (s : State) (b : Nat) (f : Block → Block) : (s.modBlock b f).rowops = s.rowops := rfl
@[simp] theorem modBlock_relqs (s : State) (b : Nat) (f : Block → Block) : (s.modBlock b f).relqs = s.relqs := rfl
@[simp] theorem modBlock_recs (s : State) (b : Nat) (f : Block → Block) : (s.modBlock b f).recs = s.recs := rfl
@[simp] theorem modBlock_faultLog (s : State) (b : Nat) (f : Block → Block) : (s.modBlock b f).faultLog = s.faultLog := rfl
@[simp] theorem modBlock_pfCauses (s : State) (b : Nat) (f : Block → Block) : (s.modBlock b f).pfCauses = s.pfCauses := rfl
@[simp] theorem modBlock_isolation (s : State) (b : Nat) (f : Block → Block) : (s.modBlock b f).isolation = s.isolation := rfl
@[simp] theorem modBlock_floor (s : State) (b : Nat) (f : Block → Block) : (s.modBlock b f).floor = s.floor := rfl
@[simp] theorem modBlock_pfReport (s : State) (b : Nat) (f : Block → Block) : (s.modBlock b f).pfReport = s.pfReport := rfl
@[simp] theorem modBlock_fuseRoll (s : State) (b : Nat) (f : Block → Block) : (s.modBlock b f).fuseRoll = s.fuseRoll := rfl
@[simp] theorem modBlock_fw (s : State) (b : Nat) (f : Block → Block) : (s.modBlock b f).fw = s.fw := rfl
@[simp] theorem modBlock_image (s : State) (b : Nat) (f : Block → Block) : (s.modBlock b f).image = s.image := rfl
@[simp] theorem modBlock_flash (s : State) (b : Nat) (f : Block → Block) : (s.modBlock b f).flash = s.flash := rfl
@[simp] theorem modBlock_life (s : State) (b : Nat) (f : Block → Block) : (s.modBlock b f).life = s.life := rfl
@[simp] theorem modBlock_heat (s : State) (b : Nat) (f : Block → Block) : (s.modBlock b f).heat = s.heat := rfl
@[simp] theorem modBlock_period (s : State) (b : Nat) (f : Block → Block) : (s.modBlock b f).period = s.period := rfl
@[simp] theorem modBlock_ticks (s : State) (b : Nat) (f : Block → Block) : (s.modBlock b f).ticks = s.ticks := rfl
@[simp] theorem modBlock_hot (s : State) (b : Nat) (f : Block → Block) : (s.modBlock b f).hot = s.hot := rfl
@[simp] theorem modBlock_ports (s : State) (b : Nat) (f : Block → Block) : (s.modBlock b f).ports = s.ports := rfl
@[simp] theorem modBlock_passed (s : State) (b : Nat) (f : Block → Block) : (s.modBlock b f).passed = s.passed := rfl
@[simp] theorem modBlock_scrubs (s : State) (b : Nat) (f : Block → Block) : (s.modBlock b f).scrubs = s.scrubs := rfl
@[simp] theorem modBlock_scrubAt (s : State) (b : Nat) (f : Block → Block) : (s.modBlock b f).scrubAt = s.scrubAt := rfl
@[simp] theorem modBlock_devKey (s : State) (b : Nat) (f : Block → Block) : (s.modBlock b f).devKey = s.devKey := rfl
@[simp] theorem modBlock_cert (s : State) (b : Nat) (f : Block → Block) : (s.modBlock b f).cert = s.cert := rfl
@[simp] theorem modBlock_uncounted (s : State) (b : Nat) (f : Block → Block) : (s.modBlock b f).uncounted = s.uncounted := rfl

@[simp] theorem modGroup_power (s : State) (c p k : Nat) (f : Group → Group) : (s.modGroup c p k f).power = s.power := rfl
@[simp] theorem modGroup_agenda (s : State) (c p k : Nat) (f : Group → Group) : (s.modGroup c p k f).agenda = s.agenda := rfl
@[simp] theorem modGroup_port (s : State) (c p k : Nat) (f : Group → Group) : (s.modGroup c p k f).port = s.port := rfl
@[simp] theorem modGroup_free (s : State) (c p k : Nat) (f : Group → Group) : (s.modGroup c p k f).free = s.free := rfl
@[simp] theorem modGroup_nextId (s : State) (c p k : Nat) (f : Group → Group) : (s.modGroup c p k f).nextId = s.nextId := rfl
@[simp] theorem modGroup_cores (s : State) (c p k : Nat) (f : Group → Group) : (s.modGroup c p k f).cores = s.cores := rfl
@[simp] theorem modGroup_tiles (s : State) (c p k : Nat) (f : Group → Group) : (s.modGroup c p k f).tiles = s.tiles := rfl
@[simp] theorem modGroup_parts (s : State) (c p k : Nat) (f : Group → Group) : (s.modGroup c p k f).parts = s.parts := rfl
@[simp] theorem modGroup_vfs (s : State) (c p k : Nat) (f : Group → Group) : (s.modGroup c p k f).vfs = s.vfs := rfl
@[simp] theorem modGroup_tenants (s : State) (c p k : Nat) (f : Group → Group) : (s.modGroup c p k f).tenants = s.tenants := rfl
@[simp] theorem modGroup_contexts (s : State) (c p k : Nat) (f : Group → Group) : (s.modGroup c p k f).contexts = s.contexts := rfl
@[simp] theorem modGroup_images (s : State) (c p k : Nat) (f : Group → Group) : (s.modGroup c p k f).images = s.images := rfl
@[simp] theorem modGroup_launches (s : State) (c p k : Nat) (f : Group → Group) : (s.modGroup c p k f).launches = s.launches := rfl
@[simp] theorem modGroup_blocks (s : State) (c p k : Nat) (f : Group → Group) : (s.modGroup c p k f).blocks = s.blocks := rfl
@[simp] theorem modGroup_clusters (s : State) (c p k : Nat) (f : Group → Group) : (s.modGroup c p k f).clusters = s.clusters := rfl
@[simp] theorem modGroup_groups (s : State) (c p k : Nat) (f : Group → Group) : (s.modGroup c p k f).groups = (s.groups.map fun g => if g.isAt c p k then f g else g) := rfl
@[simp] theorem modGroup_mats (s : State) (c p k : Nat) (f : Group → Group) : (s.modGroup c p k f).mats = s.mats := rfl
@[simp] theorem modGroup_slots (s : State) (c p k : Nat) (f : Group → Group) : (s.modGroup c p k f).slots = s.slots := rfl
@[simp] theorem modGroup_homeq (s : State) (c p k : Nat) (f : Group → Group) : (s.modGroup c p k f).homeq = s.homeq := rfl
@[simp] theorem modGroup_turns (s : State) (c p k : Nat) (f : Group → Group) : (s.modGroup c p k f).turns = s.turns := rfl
@[simp] theorem modGroup_units (s : State) (c p k : Nat) (f : Group → Group) : (s.modGroup c p k f).units = s.units := rfl
@[simp] theorem modGroup_mem (s : State) (c p k : Nat) (f : Group → Group) : (s.modGroup c p k f).mem = s.mem := rfl
@[simp] theorem modGroup_poison (s : State) (c p k : Nat) (f : Group → Group) : (s.modGroup c p k f).poison = s.poison := rfl
@[simp] theorem modGroup_host (s : State) (c p k : Nat) (f : Group → Group) : (s.modGroup c p k f).host = s.host := rfl
@[simp] theorem modGroup_inflight (s : State) (c p k : Nat) (f : Group → Group) : (s.modGroup c p k f).inflight = s.inflight := rfl
@[simp] theorem modGroup_reads (s : State) (c p k : Nat) (f : Group → Group) : (s.modGroup c p k f).reads = s.reads := rfl
@[simp] theorem modGroup_rowops (s : State) (c p k : Nat) (f : Group → Group) : (s.modGroup c p k f).rowops = s.rowops := rfl
@[simp] theorem modGroup_relqs (s : State) (c p k : Nat) (f : Group → Group) : (s.modGroup c p k f).relqs = s.relqs := rfl
@[simp] theorem modGroup_recs (s : State) (c p k : Nat) (f : Group → Group) : (s.modGroup c p k f).recs = s.recs := rfl
@[simp] theorem modGroup_faultLog (s : State) (c p k : Nat) (f : Group → Group) : (s.modGroup c p k f).faultLog = s.faultLog := rfl
@[simp] theorem modGroup_pfCauses (s : State) (c p k : Nat) (f : Group → Group) : (s.modGroup c p k f).pfCauses = s.pfCauses := rfl
@[simp] theorem modGroup_isolation (s : State) (c p k : Nat) (f : Group → Group) : (s.modGroup c p k f).isolation = s.isolation := rfl
@[simp] theorem modGroup_floor (s : State) (c p k : Nat) (f : Group → Group) : (s.modGroup c p k f).floor = s.floor := rfl
@[simp] theorem modGroup_pfReport (s : State) (c p k : Nat) (f : Group → Group) : (s.modGroup c p k f).pfReport = s.pfReport := rfl
@[simp] theorem modGroup_fuseRoll (s : State) (c p k : Nat) (f : Group → Group) : (s.modGroup c p k f).fuseRoll = s.fuseRoll := rfl
@[simp] theorem modGroup_fw (s : State) (c p k : Nat) (f : Group → Group) : (s.modGroup c p k f).fw = s.fw := rfl
@[simp] theorem modGroup_image (s : State) (c p k : Nat) (f : Group → Group) : (s.modGroup c p k f).image = s.image := rfl
@[simp] theorem modGroup_flash (s : State) (c p k : Nat) (f : Group → Group) : (s.modGroup c p k f).flash = s.flash := rfl
@[simp] theorem modGroup_life (s : State) (c p k : Nat) (f : Group → Group) : (s.modGroup c p k f).life = s.life := rfl
@[simp] theorem modGroup_heat (s : State) (c p k : Nat) (f : Group → Group) : (s.modGroup c p k f).heat = s.heat := rfl
@[simp] theorem modGroup_period (s : State) (c p k : Nat) (f : Group → Group) : (s.modGroup c p k f).period = s.period := rfl
@[simp] theorem modGroup_ticks (s : State) (c p k : Nat) (f : Group → Group) : (s.modGroup c p k f).ticks = s.ticks := rfl
@[simp] theorem modGroup_hot (s : State) (c p k : Nat) (f : Group → Group) : (s.modGroup c p k f).hot = s.hot := rfl
@[simp] theorem modGroup_ports (s : State) (c p k : Nat) (f : Group → Group) : (s.modGroup c p k f).ports = s.ports := rfl
@[simp] theorem modGroup_passed (s : State) (c p k : Nat) (f : Group → Group) : (s.modGroup c p k f).passed = s.passed := rfl
@[simp] theorem modGroup_scrubs (s : State) (c p k : Nat) (f : Group → Group) : (s.modGroup c p k f).scrubs = s.scrubs := rfl
@[simp] theorem modGroup_scrubAt (s : State) (c p k : Nat) (f : Group → Group) : (s.modGroup c p k f).scrubAt = s.scrubAt := rfl
@[simp] theorem modGroup_devKey (s : State) (c p k : Nat) (f : Group → Group) : (s.modGroup c p k f).devKey = s.devKey := rfl
@[simp] theorem modGroup_cert (s : State) (c p k : Nat) (f : Group → Group) : (s.modGroup c p k f).cert = s.cert := rfl
@[simp] theorem modGroup_uncounted (s : State) (c p k : Nat) (f : Group → Group) : (s.modGroup c p k f).uncounted = s.uncounted := rfl

@[simp] theorem modMat_power (s : State) (c p x : Nat) (f : Mat → Mat) : (s.modMat c p x f).power = s.power := rfl
@[simp] theorem modMat_agenda (s : State) (c p x : Nat) (f : Mat → Mat) : (s.modMat c p x f).agenda = s.agenda := rfl
@[simp] theorem modMat_port (s : State) (c p x : Nat) (f : Mat → Mat) : (s.modMat c p x f).port = s.port := rfl
@[simp] theorem modMat_free (s : State) (c p x : Nat) (f : Mat → Mat) : (s.modMat c p x f).free = s.free := rfl
@[simp] theorem modMat_nextId (s : State) (c p x : Nat) (f : Mat → Mat) : (s.modMat c p x f).nextId = s.nextId := rfl
@[simp] theorem modMat_cores (s : State) (c p x : Nat) (f : Mat → Mat) : (s.modMat c p x f).cores = s.cores := rfl
@[simp] theorem modMat_tiles (s : State) (c p x : Nat) (f : Mat → Mat) : (s.modMat c p x f).tiles = s.tiles := rfl
@[simp] theorem modMat_parts (s : State) (c p x : Nat) (f : Mat → Mat) : (s.modMat c p x f).parts = s.parts := rfl
@[simp] theorem modMat_vfs (s : State) (c p x : Nat) (f : Mat → Mat) : (s.modMat c p x f).vfs = s.vfs := rfl
@[simp] theorem modMat_tenants (s : State) (c p x : Nat) (f : Mat → Mat) : (s.modMat c p x f).tenants = s.tenants := rfl
@[simp] theorem modMat_contexts (s : State) (c p x : Nat) (f : Mat → Mat) : (s.modMat c p x f).contexts = s.contexts := rfl
@[simp] theorem modMat_images (s : State) (c p x : Nat) (f : Mat → Mat) : (s.modMat c p x f).images = s.images := rfl
@[simp] theorem modMat_launches (s : State) (c p x : Nat) (f : Mat → Mat) : (s.modMat c p x f).launches = s.launches := rfl
@[simp] theorem modMat_blocks (s : State) (c p x : Nat) (f : Mat → Mat) : (s.modMat c p x f).blocks = s.blocks := rfl
@[simp] theorem modMat_clusters (s : State) (c p x : Nat) (f : Mat → Mat) : (s.modMat c p x f).clusters = s.clusters := rfl
@[simp] theorem modMat_groups (s : State) (c p x : Nat) (f : Mat → Mat) : (s.modMat c p x f).groups = s.groups := rfl
@[simp] theorem modMat_mats (s : State) (c p x : Nat) (f : Mat → Mat) : (s.modMat c p x f).mats = (s.mats.map fun m => if m.core = c ∧ m.part = p ∧ m.ctx = x then f m else m) := rfl
@[simp] theorem modMat_slots (s : State) (c p x : Nat) (f : Mat → Mat) : (s.modMat c p x f).slots = s.slots := rfl
@[simp] theorem modMat_homeq (s : State) (c p x : Nat) (f : Mat → Mat) : (s.modMat c p x f).homeq = s.homeq := rfl
@[simp] theorem modMat_turns (s : State) (c p x : Nat) (f : Mat → Mat) : (s.modMat c p x f).turns = s.turns := rfl
@[simp] theorem modMat_units (s : State) (c p x : Nat) (f : Mat → Mat) : (s.modMat c p x f).units = s.units := rfl
@[simp] theorem modMat_mem (s : State) (c p x : Nat) (f : Mat → Mat) : (s.modMat c p x f).mem = s.mem := rfl
@[simp] theorem modMat_poison (s : State) (c p x : Nat) (f : Mat → Mat) : (s.modMat c p x f).poison = s.poison := rfl
@[simp] theorem modMat_host (s : State) (c p x : Nat) (f : Mat → Mat) : (s.modMat c p x f).host = s.host := rfl
@[simp] theorem modMat_inflight (s : State) (c p x : Nat) (f : Mat → Mat) : (s.modMat c p x f).inflight = s.inflight := rfl
@[simp] theorem modMat_reads (s : State) (c p x : Nat) (f : Mat → Mat) : (s.modMat c p x f).reads = s.reads := rfl
@[simp] theorem modMat_rowops (s : State) (c p x : Nat) (f : Mat → Mat) : (s.modMat c p x f).rowops = s.rowops := rfl
@[simp] theorem modMat_relqs (s : State) (c p x : Nat) (f : Mat → Mat) : (s.modMat c p x f).relqs = s.relqs := rfl
@[simp] theorem modMat_recs (s : State) (c p x : Nat) (f : Mat → Mat) : (s.modMat c p x f).recs = s.recs := rfl
@[simp] theorem modMat_faultLog (s : State) (c p x : Nat) (f : Mat → Mat) : (s.modMat c p x f).faultLog = s.faultLog := rfl
@[simp] theorem modMat_pfCauses (s : State) (c p x : Nat) (f : Mat → Mat) : (s.modMat c p x f).pfCauses = s.pfCauses := rfl
@[simp] theorem modMat_isolation (s : State) (c p x : Nat) (f : Mat → Mat) : (s.modMat c p x f).isolation = s.isolation := rfl
@[simp] theorem modMat_floor (s : State) (c p x : Nat) (f : Mat → Mat) : (s.modMat c p x f).floor = s.floor := rfl
@[simp] theorem modMat_pfReport (s : State) (c p x : Nat) (f : Mat → Mat) : (s.modMat c p x f).pfReport = s.pfReport := rfl
@[simp] theorem modMat_fuseRoll (s : State) (c p x : Nat) (f : Mat → Mat) : (s.modMat c p x f).fuseRoll = s.fuseRoll := rfl
@[simp] theorem modMat_fw (s : State) (c p x : Nat) (f : Mat → Mat) : (s.modMat c p x f).fw = s.fw := rfl
@[simp] theorem modMat_image (s : State) (c p x : Nat) (f : Mat → Mat) : (s.modMat c p x f).image = s.image := rfl
@[simp] theorem modMat_flash (s : State) (c p x : Nat) (f : Mat → Mat) : (s.modMat c p x f).flash = s.flash := rfl
@[simp] theorem modMat_life (s : State) (c p x : Nat) (f : Mat → Mat) : (s.modMat c p x f).life = s.life := rfl
@[simp] theorem modMat_heat (s : State) (c p x : Nat) (f : Mat → Mat) : (s.modMat c p x f).heat = s.heat := rfl
@[simp] theorem modMat_period (s : State) (c p x : Nat) (f : Mat → Mat) : (s.modMat c p x f).period = s.period := rfl
@[simp] theorem modMat_ticks (s : State) (c p x : Nat) (f : Mat → Mat) : (s.modMat c p x f).ticks = s.ticks := rfl
@[simp] theorem modMat_hot (s : State) (c p x : Nat) (f : Mat → Mat) : (s.modMat c p x f).hot = s.hot := rfl
@[simp] theorem modMat_ports (s : State) (c p x : Nat) (f : Mat → Mat) : (s.modMat c p x f).ports = s.ports := rfl
@[simp] theorem modMat_passed (s : State) (c p x : Nat) (f : Mat → Mat) : (s.modMat c p x f).passed = s.passed := rfl
@[simp] theorem modMat_scrubs (s : State) (c p x : Nat) (f : Mat → Mat) : (s.modMat c p x f).scrubs = s.scrubs := rfl
@[simp] theorem modMat_scrubAt (s : State) (c p x : Nat) (f : Mat → Mat) : (s.modMat c p x f).scrubAt = s.scrubAt := rfl
@[simp] theorem modMat_devKey (s : State) (c p x : Nat) (f : Mat → Mat) : (s.modMat c p x f).devKey = s.devKey := rfl
@[simp] theorem modMat_cert (s : State) (c p x : Nat) (f : Mat → Mat) : (s.modMat c p x f).cert = s.cert := rfl
@[simp] theorem modMat_uncounted (s : State) (c p x : Nat) (f : Mat → Mat) : (s.modMat c p x f).uncounted = s.uncounted := rfl

@[simp] theorem modLaunch_power (s : State) (n : Nat) (f : Launch → Launch) : (s.modLaunch n f).power = s.power := rfl
@[simp] theorem modLaunch_agenda (s : State) (n : Nat) (f : Launch → Launch) : (s.modLaunch n f).agenda = s.agenda := rfl
@[simp] theorem modLaunch_port (s : State) (n : Nat) (f : Launch → Launch) : (s.modLaunch n f).port = s.port := rfl
@[simp] theorem modLaunch_free (s : State) (n : Nat) (f : Launch → Launch) : (s.modLaunch n f).free = s.free := rfl
@[simp] theorem modLaunch_nextId (s : State) (n : Nat) (f : Launch → Launch) : (s.modLaunch n f).nextId = s.nextId := rfl
@[simp] theorem modLaunch_cores (s : State) (n : Nat) (f : Launch → Launch) : (s.modLaunch n f).cores = s.cores := rfl
@[simp] theorem modLaunch_tiles (s : State) (n : Nat) (f : Launch → Launch) : (s.modLaunch n f).tiles = s.tiles := rfl
@[simp] theorem modLaunch_parts (s : State) (n : Nat) (f : Launch → Launch) : (s.modLaunch n f).parts = s.parts := rfl
@[simp] theorem modLaunch_vfs (s : State) (n : Nat) (f : Launch → Launch) : (s.modLaunch n f).vfs = s.vfs := rfl
@[simp] theorem modLaunch_tenants (s : State) (n : Nat) (f : Launch → Launch) : (s.modLaunch n f).tenants = s.tenants := rfl
@[simp] theorem modLaunch_contexts (s : State) (n : Nat) (f : Launch → Launch) : (s.modLaunch n f).contexts = s.contexts := rfl
@[simp] theorem modLaunch_images (s : State) (n : Nat) (f : Launch → Launch) : (s.modLaunch n f).images = s.images := rfl
@[simp] theorem modLaunch_launches (s : State) (n : Nat) (f : Launch → Launch) : (s.modLaunch n f).launches = (s.launches.map fun l => if l.id = n then f l else l) := rfl
@[simp] theorem modLaunch_blocks (s : State) (n : Nat) (f : Launch → Launch) : (s.modLaunch n f).blocks = s.blocks := rfl
@[simp] theorem modLaunch_clusters (s : State) (n : Nat) (f : Launch → Launch) : (s.modLaunch n f).clusters = s.clusters := rfl
@[simp] theorem modLaunch_groups (s : State) (n : Nat) (f : Launch → Launch) : (s.modLaunch n f).groups = s.groups := rfl
@[simp] theorem modLaunch_mats (s : State) (n : Nat) (f : Launch → Launch) : (s.modLaunch n f).mats = s.mats := rfl
@[simp] theorem modLaunch_slots (s : State) (n : Nat) (f : Launch → Launch) : (s.modLaunch n f).slots = s.slots := rfl
@[simp] theorem modLaunch_homeq (s : State) (n : Nat) (f : Launch → Launch) : (s.modLaunch n f).homeq = s.homeq := rfl
@[simp] theorem modLaunch_turns (s : State) (n : Nat) (f : Launch → Launch) : (s.modLaunch n f).turns = s.turns := rfl
@[simp] theorem modLaunch_units (s : State) (n : Nat) (f : Launch → Launch) : (s.modLaunch n f).units = s.units := rfl
@[simp] theorem modLaunch_mem (s : State) (n : Nat) (f : Launch → Launch) : (s.modLaunch n f).mem = s.mem := rfl
@[simp] theorem modLaunch_poison (s : State) (n : Nat) (f : Launch → Launch) : (s.modLaunch n f).poison = s.poison := rfl
@[simp] theorem modLaunch_host (s : State) (n : Nat) (f : Launch → Launch) : (s.modLaunch n f).host = s.host := rfl
@[simp] theorem modLaunch_inflight (s : State) (n : Nat) (f : Launch → Launch) : (s.modLaunch n f).inflight = s.inflight := rfl
@[simp] theorem modLaunch_reads (s : State) (n : Nat) (f : Launch → Launch) : (s.modLaunch n f).reads = s.reads := rfl
@[simp] theorem modLaunch_rowops (s : State) (n : Nat) (f : Launch → Launch) : (s.modLaunch n f).rowops = s.rowops := rfl
@[simp] theorem modLaunch_relqs (s : State) (n : Nat) (f : Launch → Launch) : (s.modLaunch n f).relqs = s.relqs := rfl
@[simp] theorem modLaunch_recs (s : State) (n : Nat) (f : Launch → Launch) : (s.modLaunch n f).recs = s.recs := rfl
@[simp] theorem modLaunch_faultLog (s : State) (n : Nat) (f : Launch → Launch) : (s.modLaunch n f).faultLog = s.faultLog := rfl
@[simp] theorem modLaunch_pfCauses (s : State) (n : Nat) (f : Launch → Launch) : (s.modLaunch n f).pfCauses = s.pfCauses := rfl
@[simp] theorem modLaunch_isolation (s : State) (n : Nat) (f : Launch → Launch) : (s.modLaunch n f).isolation = s.isolation := rfl
@[simp] theorem modLaunch_floor (s : State) (n : Nat) (f : Launch → Launch) : (s.modLaunch n f).floor = s.floor := rfl
@[simp] theorem modLaunch_pfReport (s : State) (n : Nat) (f : Launch → Launch) : (s.modLaunch n f).pfReport = s.pfReport := rfl
@[simp] theorem modLaunch_fuseRoll (s : State) (n : Nat) (f : Launch → Launch) : (s.modLaunch n f).fuseRoll = s.fuseRoll := rfl
@[simp] theorem modLaunch_fw (s : State) (n : Nat) (f : Launch → Launch) : (s.modLaunch n f).fw = s.fw := rfl
@[simp] theorem modLaunch_image (s : State) (n : Nat) (f : Launch → Launch) : (s.modLaunch n f).image = s.image := rfl
@[simp] theorem modLaunch_flash (s : State) (n : Nat) (f : Launch → Launch) : (s.modLaunch n f).flash = s.flash := rfl
@[simp] theorem modLaunch_life (s : State) (n : Nat) (f : Launch → Launch) : (s.modLaunch n f).life = s.life := rfl
@[simp] theorem modLaunch_heat (s : State) (n : Nat) (f : Launch → Launch) : (s.modLaunch n f).heat = s.heat := rfl
@[simp] theorem modLaunch_period (s : State) (n : Nat) (f : Launch → Launch) : (s.modLaunch n f).period = s.period := rfl
@[simp] theorem modLaunch_ticks (s : State) (n : Nat) (f : Launch → Launch) : (s.modLaunch n f).ticks = s.ticks := rfl
@[simp] theorem modLaunch_hot (s : State) (n : Nat) (f : Launch → Launch) : (s.modLaunch n f).hot = s.hot := rfl
@[simp] theorem modLaunch_ports (s : State) (n : Nat) (f : Launch → Launch) : (s.modLaunch n f).ports = s.ports := rfl
@[simp] theorem modLaunch_passed (s : State) (n : Nat) (f : Launch → Launch) : (s.modLaunch n f).passed = s.passed := rfl
@[simp] theorem modLaunch_scrubs (s : State) (n : Nat) (f : Launch → Launch) : (s.modLaunch n f).scrubs = s.scrubs := rfl
@[simp] theorem modLaunch_scrubAt (s : State) (n : Nat) (f : Launch → Launch) : (s.modLaunch n f).scrubAt = s.scrubAt := rfl
@[simp] theorem modLaunch_devKey (s : State) (n : Nat) (f : Launch → Launch) : (s.modLaunch n f).devKey = s.devKey := rfl
@[simp] theorem modLaunch_cert (s : State) (n : Nat) (f : Launch → Launch) : (s.modLaunch n f).cert = s.cert := rfl
@[simp] theorem modLaunch_uncounted (s : State) (n : Nat) (f : Launch → Launch) : (s.modLaunch n f).uncounted = s.uncounted := rfl

@[simp] theorem irq_power (s : State) (v bit : Nat) : (s.irq v bit).power = s.power := rfl
@[simp] theorem irq_agenda (s : State) (v bit : Nat) : (s.irq v bit).agenda = s.agenda := rfl
@[simp] theorem irq_port (s : State) (v bit : Nat) : (s.irq v bit).port = s.port := rfl
@[simp] theorem irq_free (s : State) (v bit : Nat) : (s.irq v bit).free = s.free := rfl
@[simp] theorem irq_nextId (s : State) (v bit : Nat) : (s.irq v bit).nextId = s.nextId := rfl
@[simp] theorem irq_cores (s : State) (v bit : Nat) : (s.irq v bit).cores = s.cores := rfl
@[simp] theorem irq_tiles (s : State) (v bit : Nat) : (s.irq v bit).tiles = s.tiles := rfl
@[simp] theorem irq_parts (s : State) (v bit : Nat) : (s.irq v bit).parts = s.parts := rfl
@[simp] theorem irq_vfs (s : State) (v bit : Nat) : (s.irq v bit).vfs = (modAt s.vfs v fun x => { x with irq := x.irq ||| BitVec.ofNat 32 (2 ^ bit) }) := rfl
@[simp] theorem irq_tenants (s : State) (v bit : Nat) : (s.irq v bit).tenants = s.tenants := rfl
@[simp] theorem irq_contexts (s : State) (v bit : Nat) : (s.irq v bit).contexts = s.contexts := rfl
@[simp] theorem irq_images (s : State) (v bit : Nat) : (s.irq v bit).images = s.images := rfl
@[simp] theorem irq_launches (s : State) (v bit : Nat) : (s.irq v bit).launches = s.launches := rfl
@[simp] theorem irq_blocks (s : State) (v bit : Nat) : (s.irq v bit).blocks = s.blocks := rfl
@[simp] theorem irq_clusters (s : State) (v bit : Nat) : (s.irq v bit).clusters = s.clusters := rfl
@[simp] theorem irq_groups (s : State) (v bit : Nat) : (s.irq v bit).groups = s.groups := rfl
@[simp] theorem irq_mats (s : State) (v bit : Nat) : (s.irq v bit).mats = s.mats := rfl
@[simp] theorem irq_slots (s : State) (v bit : Nat) : (s.irq v bit).slots = s.slots := rfl
@[simp] theorem irq_homeq (s : State) (v bit : Nat) : (s.irq v bit).homeq = s.homeq := rfl
@[simp] theorem irq_turns (s : State) (v bit : Nat) : (s.irq v bit).turns = s.turns := rfl
@[simp] theorem irq_units (s : State) (v bit : Nat) : (s.irq v bit).units = s.units := rfl
@[simp] theorem irq_mem (s : State) (v bit : Nat) : (s.irq v bit).mem = s.mem := rfl
@[simp] theorem irq_poison (s : State) (v bit : Nat) : (s.irq v bit).poison = s.poison := rfl
@[simp] theorem irq_host (s : State) (v bit : Nat) : (s.irq v bit).host = s.host := rfl
@[simp] theorem irq_inflight (s : State) (v bit : Nat) : (s.irq v bit).inflight = s.inflight := rfl
@[simp] theorem irq_reads (s : State) (v bit : Nat) : (s.irq v bit).reads = s.reads := rfl
@[simp] theorem irq_rowops (s : State) (v bit : Nat) : (s.irq v bit).rowops = s.rowops := rfl
@[simp] theorem irq_relqs (s : State) (v bit : Nat) : (s.irq v bit).relqs = s.relqs := rfl
@[simp] theorem irq_recs (s : State) (v bit : Nat) : (s.irq v bit).recs = s.recs := rfl
@[simp] theorem irq_faultLog (s : State) (v bit : Nat) : (s.irq v bit).faultLog = s.faultLog := rfl
@[simp] theorem irq_pfCauses (s : State) (v bit : Nat) : (s.irq v bit).pfCauses = s.pfCauses := rfl
@[simp] theorem irq_isolation (s : State) (v bit : Nat) : (s.irq v bit).isolation = s.isolation := rfl
@[simp] theorem irq_floor (s : State) (v bit : Nat) : (s.irq v bit).floor = s.floor := rfl
@[simp] theorem irq_pfReport (s : State) (v bit : Nat) : (s.irq v bit).pfReport = s.pfReport := rfl
@[simp] theorem irq_fuseRoll (s : State) (v bit : Nat) : (s.irq v bit).fuseRoll = s.fuseRoll := rfl
@[simp] theorem irq_fw (s : State) (v bit : Nat) : (s.irq v bit).fw = s.fw := rfl
@[simp] theorem irq_image (s : State) (v bit : Nat) : (s.irq v bit).image = s.image := rfl
@[simp] theorem irq_flash (s : State) (v bit : Nat) : (s.irq v bit).flash = s.flash := rfl
@[simp] theorem irq_life (s : State) (v bit : Nat) : (s.irq v bit).life = s.life := rfl
@[simp] theorem irq_heat (s : State) (v bit : Nat) : (s.irq v bit).heat = s.heat := rfl
@[simp] theorem irq_period (s : State) (v bit : Nat) : (s.irq v bit).period = s.period := rfl
@[simp] theorem irq_ticks (s : State) (v bit : Nat) : (s.irq v bit).ticks = s.ticks := rfl
@[simp] theorem irq_hot (s : State) (v bit : Nat) : (s.irq v bit).hot = s.hot := rfl
@[simp] theorem irq_ports (s : State) (v bit : Nat) : (s.irq v bit).ports = s.ports := rfl
@[simp] theorem irq_passed (s : State) (v bit : Nat) : (s.irq v bit).passed = s.passed := rfl
@[simp] theorem irq_scrubs (s : State) (v bit : Nat) : (s.irq v bit).scrubs = s.scrubs := rfl
@[simp] theorem irq_scrubAt (s : State) (v bit : Nat) : (s.irq v bit).scrubAt = s.scrubAt := rfl
@[simp] theorem irq_devKey (s : State) (v bit : Nat) : (s.irq v bit).devKey = s.devKey := rfl
@[simp] theorem irq_cert (s : State) (v bit : Nat) : (s.irq v bit).cert = s.cert := rfl
@[simp] theorem irq_uncounted (s : State) (v bit : Nat) : (s.irq v bit).uncounted = s.uncounted := rfl

@[simp] theorem pfIrq_power (s : State) (bit : Nat) : (s.pfIrq bit).power = s.power := rfl
@[simp] theorem pfIrq_agenda (s : State) (bit : Nat) : (s.pfIrq bit).agenda = s.agenda := rfl
@[simp] theorem pfIrq_port (s : State) (bit : Nat) : (s.pfIrq bit).port = s.port := rfl
@[simp] theorem pfIrq_free (s : State) (bit : Nat) : (s.pfIrq bit).free = s.free := rfl
@[simp] theorem pfIrq_nextId (s : State) (bit : Nat) : (s.pfIrq bit).nextId = s.nextId := rfl
@[simp] theorem pfIrq_cores (s : State) (bit : Nat) : (s.pfIrq bit).cores = s.cores := rfl
@[simp] theorem pfIrq_tiles (s : State) (bit : Nat) : (s.pfIrq bit).tiles = s.tiles := rfl
@[simp] theorem pfIrq_parts (s : State) (bit : Nat) : (s.pfIrq bit).parts = s.parts := rfl
@[simp] theorem pfIrq_vfs (s : State) (bit : Nat) : (s.pfIrq bit).vfs = s.vfs := rfl
@[simp] theorem pfIrq_tenants (s : State) (bit : Nat) : (s.pfIrq bit).tenants = s.tenants := rfl
@[simp] theorem pfIrq_contexts (s : State) (bit : Nat) : (s.pfIrq bit).contexts = s.contexts := rfl
@[simp] theorem pfIrq_images (s : State) (bit : Nat) : (s.pfIrq bit).images = s.images := rfl
@[simp] theorem pfIrq_launches (s : State) (bit : Nat) : (s.pfIrq bit).launches = s.launches := rfl
@[simp] theorem pfIrq_blocks (s : State) (bit : Nat) : (s.pfIrq bit).blocks = s.blocks := rfl
@[simp] theorem pfIrq_clusters (s : State) (bit : Nat) : (s.pfIrq bit).clusters = s.clusters := rfl
@[simp] theorem pfIrq_groups (s : State) (bit : Nat) : (s.pfIrq bit).groups = s.groups := rfl
@[simp] theorem pfIrq_mats (s : State) (bit : Nat) : (s.pfIrq bit).mats = s.mats := rfl
@[simp] theorem pfIrq_slots (s : State) (bit : Nat) : (s.pfIrq bit).slots = s.slots := rfl
@[simp] theorem pfIrq_homeq (s : State) (bit : Nat) : (s.pfIrq bit).homeq = s.homeq := rfl
@[simp] theorem pfIrq_turns (s : State) (bit : Nat) : (s.pfIrq bit).turns = s.turns := rfl
@[simp] theorem pfIrq_units (s : State) (bit : Nat) : (s.pfIrq bit).units = s.units := rfl
@[simp] theorem pfIrq_mem (s : State) (bit : Nat) : (s.pfIrq bit).mem = s.mem := rfl
@[simp] theorem pfIrq_poison (s : State) (bit : Nat) : (s.pfIrq bit).poison = s.poison := rfl
@[simp] theorem pfIrq_host (s : State) (bit : Nat) : (s.pfIrq bit).host = s.host := rfl
@[simp] theorem pfIrq_inflight (s : State) (bit : Nat) : (s.pfIrq bit).inflight = s.inflight := rfl
@[simp] theorem pfIrq_reads (s : State) (bit : Nat) : (s.pfIrq bit).reads = s.reads := rfl
@[simp] theorem pfIrq_rowops (s : State) (bit : Nat) : (s.pfIrq bit).rowops = s.rowops := rfl
@[simp] theorem pfIrq_relqs (s : State) (bit : Nat) : (s.pfIrq bit).relqs = s.relqs := rfl
@[simp] theorem pfIrq_recs (s : State) (bit : Nat) : (s.pfIrq bit).recs = s.recs := rfl
@[simp] theorem pfIrq_faultLog (s : State) (bit : Nat) : (s.pfIrq bit).faultLog = s.faultLog := rfl
@[simp] theorem pfIrq_pfCauses (s : State) (bit : Nat) : (s.pfIrq bit).pfCauses = (s.pfCauses ||| BitVec.ofNat 32 (2 ^ bit)) := rfl
@[simp] theorem pfIrq_isolation (s : State) (bit : Nat) : (s.pfIrq bit).isolation = s.isolation := rfl
@[simp] theorem pfIrq_floor (s : State) (bit : Nat) : (s.pfIrq bit).floor = s.floor := rfl
@[simp] theorem pfIrq_pfReport (s : State) (bit : Nat) : (s.pfIrq bit).pfReport = s.pfReport := rfl
@[simp] theorem pfIrq_fuseRoll (s : State) (bit : Nat) : (s.pfIrq bit).fuseRoll = s.fuseRoll := rfl
@[simp] theorem pfIrq_fw (s : State) (bit : Nat) : (s.pfIrq bit).fw = s.fw := rfl
@[simp] theorem pfIrq_image (s : State) (bit : Nat) : (s.pfIrq bit).image = s.image := rfl
@[simp] theorem pfIrq_flash (s : State) (bit : Nat) : (s.pfIrq bit).flash = s.flash := rfl
@[simp] theorem pfIrq_life (s : State) (bit : Nat) : (s.pfIrq bit).life = s.life := rfl
@[simp] theorem pfIrq_heat (s : State) (bit : Nat) : (s.pfIrq bit).heat = s.heat := rfl
@[simp] theorem pfIrq_period (s : State) (bit : Nat) : (s.pfIrq bit).period = s.period := rfl
@[simp] theorem pfIrq_ticks (s : State) (bit : Nat) : (s.pfIrq bit).ticks = s.ticks := rfl
@[simp] theorem pfIrq_hot (s : State) (bit : Nat) : (s.pfIrq bit).hot = s.hot := rfl
@[simp] theorem pfIrq_ports (s : State) (bit : Nat) : (s.pfIrq bit).ports = s.ports := rfl
@[simp] theorem pfIrq_passed (s : State) (bit : Nat) : (s.pfIrq bit).passed = s.passed := rfl
@[simp] theorem pfIrq_scrubs (s : State) (bit : Nat) : (s.pfIrq bit).scrubs = s.scrubs := rfl
@[simp] theorem pfIrq_scrubAt (s : State) (bit : Nat) : (s.pfIrq bit).scrubAt = s.scrubAt := rfl
@[simp] theorem pfIrq_devKey (s : State) (bit : Nat) : (s.pfIrq bit).devKey = s.devKey := rfl
@[simp] theorem pfIrq_cert (s : State) (bit : Nat) : (s.pfIrq bit).cert = s.cert := rfl
@[simp] theorem pfIrq_uncounted (s : State) (bit : Nat) : (s.pfIrq bit).uncounted = s.uncounted := rfl

@[simp] theorem modIss_power (s : State) (i : Iss) (f : Group → Group) : (s.modIss i f).power = s.power := rfl
@[simp] theorem modIss_agenda (s : State) (i : Iss) (f : Group → Group) : (s.modIss i f).agenda = s.agenda := rfl
@[simp] theorem modIss_port (s : State) (i : Iss) (f : Group → Group) : (s.modIss i f).port = s.port := rfl
@[simp] theorem modIss_free (s : State) (i : Iss) (f : Group → Group) : (s.modIss i f).free = s.free := rfl
@[simp] theorem modIss_nextId (s : State) (i : Iss) (f : Group → Group) : (s.modIss i f).nextId = s.nextId := rfl
@[simp] theorem modIss_cores (s : State) (i : Iss) (f : Group → Group) : (s.modIss i f).cores = s.cores := rfl
@[simp] theorem modIss_tiles (s : State) (i : Iss) (f : Group → Group) : (s.modIss i f).tiles = s.tiles := rfl
@[simp] theorem modIss_parts (s : State) (i : Iss) (f : Group → Group) : (s.modIss i f).parts = s.parts := rfl
@[simp] theorem modIss_vfs (s : State) (i : Iss) (f : Group → Group) : (s.modIss i f).vfs = s.vfs := rfl
@[simp] theorem modIss_tenants (s : State) (i : Iss) (f : Group → Group) : (s.modIss i f).tenants = s.tenants := rfl
@[simp] theorem modIss_contexts (s : State) (i : Iss) (f : Group → Group) : (s.modIss i f).contexts = s.contexts := rfl
@[simp] theorem modIss_images (s : State) (i : Iss) (f : Group → Group) : (s.modIss i f).images = s.images := rfl
@[simp] theorem modIss_launches (s : State) (i : Iss) (f : Group → Group) : (s.modIss i f).launches = s.launches := rfl
@[simp] theorem modIss_blocks (s : State) (i : Iss) (f : Group → Group) : (s.modIss i f).blocks = s.blocks := rfl
@[simp] theorem modIss_clusters (s : State) (i : Iss) (f : Group → Group) : (s.modIss i f).clusters = s.clusters := rfl
@[simp] theorem modIss_groups (s : State) (i : Iss) (f : Group → Group) : (s.modIss i f).groups = (s.groups.map fun g => if g.isAt i.g.core i.g.part i.g.slot then f g else g) := rfl
@[simp] theorem modIss_mats (s : State) (i : Iss) (f : Group → Group) : (s.modIss i f).mats = s.mats := rfl
@[simp] theorem modIss_slots (s : State) (i : Iss) (f : Group → Group) : (s.modIss i f).slots = s.slots := rfl
@[simp] theorem modIss_homeq (s : State) (i : Iss) (f : Group → Group) : (s.modIss i f).homeq = s.homeq := rfl
@[simp] theorem modIss_turns (s : State) (i : Iss) (f : Group → Group) : (s.modIss i f).turns = s.turns := rfl
@[simp] theorem modIss_units (s : State) (i : Iss) (f : Group → Group) : (s.modIss i f).units = s.units := rfl
@[simp] theorem modIss_mem (s : State) (i : Iss) (f : Group → Group) : (s.modIss i f).mem = s.mem := rfl
@[simp] theorem modIss_poison (s : State) (i : Iss) (f : Group → Group) : (s.modIss i f).poison = s.poison := rfl
@[simp] theorem modIss_host (s : State) (i : Iss) (f : Group → Group) : (s.modIss i f).host = s.host := rfl
@[simp] theorem modIss_inflight (s : State) (i : Iss) (f : Group → Group) : (s.modIss i f).inflight = s.inflight := rfl
@[simp] theorem modIss_reads (s : State) (i : Iss) (f : Group → Group) : (s.modIss i f).reads = s.reads := rfl
@[simp] theorem modIss_rowops (s : State) (i : Iss) (f : Group → Group) : (s.modIss i f).rowops = s.rowops := rfl
@[simp] theorem modIss_relqs (s : State) (i : Iss) (f : Group → Group) : (s.modIss i f).relqs = s.relqs := rfl
@[simp] theorem modIss_recs (s : State) (i : Iss) (f : Group → Group) : (s.modIss i f).recs = s.recs := rfl
@[simp] theorem modIss_faultLog (s : State) (i : Iss) (f : Group → Group) : (s.modIss i f).faultLog = s.faultLog := rfl
@[simp] theorem modIss_pfCauses (s : State) (i : Iss) (f : Group → Group) : (s.modIss i f).pfCauses = s.pfCauses := rfl
@[simp] theorem modIss_isolation (s : State) (i : Iss) (f : Group → Group) : (s.modIss i f).isolation = s.isolation := rfl
@[simp] theorem modIss_floor (s : State) (i : Iss) (f : Group → Group) : (s.modIss i f).floor = s.floor := rfl
@[simp] theorem modIss_pfReport (s : State) (i : Iss) (f : Group → Group) : (s.modIss i f).pfReport = s.pfReport := rfl
@[simp] theorem modIss_fuseRoll (s : State) (i : Iss) (f : Group → Group) : (s.modIss i f).fuseRoll = s.fuseRoll := rfl
@[simp] theorem modIss_fw (s : State) (i : Iss) (f : Group → Group) : (s.modIss i f).fw = s.fw := rfl
@[simp] theorem modIss_image (s : State) (i : Iss) (f : Group → Group) : (s.modIss i f).image = s.image := rfl
@[simp] theorem modIss_flash (s : State) (i : Iss) (f : Group → Group) : (s.modIss i f).flash = s.flash := rfl
@[simp] theorem modIss_life (s : State) (i : Iss) (f : Group → Group) : (s.modIss i f).life = s.life := rfl
@[simp] theorem modIss_heat (s : State) (i : Iss) (f : Group → Group) : (s.modIss i f).heat = s.heat := rfl
@[simp] theorem modIss_period (s : State) (i : Iss) (f : Group → Group) : (s.modIss i f).period = s.period := rfl
@[simp] theorem modIss_ticks (s : State) (i : Iss) (f : Group → Group) : (s.modIss i f).ticks = s.ticks := rfl
@[simp] theorem modIss_hot (s : State) (i : Iss) (f : Group → Group) : (s.modIss i f).hot = s.hot := rfl
@[simp] theorem modIss_ports (s : State) (i : Iss) (f : Group → Group) : (s.modIss i f).ports = s.ports := rfl
@[simp] theorem modIss_passed (s : State) (i : Iss) (f : Group → Group) : (s.modIss i f).passed = s.passed := rfl
@[simp] theorem modIss_scrubs (s : State) (i : Iss) (f : Group → Group) : (s.modIss i f).scrubs = s.scrubs := rfl
@[simp] theorem modIss_scrubAt (s : State) (i : Iss) (f : Group → Group) : (s.modIss i f).scrubAt = s.scrubAt := rfl
@[simp] theorem modIss_devKey (s : State) (i : Iss) (f : Group → Group) : (s.modIss i f).devKey = s.devKey := rfl
@[simp] theorem modIss_cert (s : State) (i : Iss) (f : Group → Group) : (s.modIss i f).cert = s.cert := rfl
@[simp] theorem modIss_uncounted (s : State) (i : Iss) (f : Group → Group) : (s.modIss i f).uncounted = s.uncounted := rfl

@[simp] theorem fresh_fst (s : State) : s.fresh.1 = Config.freeValue s.free := rfl
@[simp] theorem fresh_snd (s : State) : s.fresh.2 = { s with free := s.free + 1 } := rfl
@[simp] theorem freshes_snd (s : State) (n : Nat) : (s.freshes n).2 = { s with free := s.free + n } := rfl
theorem freshes_fst_length (s : State) (n : Nat) : (s.freshes n).1.length = n := by simp [State.freshes]

theorem modCore_coreAt (s : State) (c k : Nat) (f : Core → Core) (h : c < s.cores.length) :
    (s.modCore c f).coreAt k = if k = c then f (s.coreAt c) else s.coreAt k := by
  rw [State.coreAt, modCore_cores, modAt_getD]
  by_cases hk : k = c
  · subst hk; simp [State.coreAt, h]
  · simp [State.coreAt, hk]

theorem modTile_tileAt (s : State) (t k : Nat) (f : Tile → Tile) (h : t < s.tiles.length) :
    (s.modTile t f).tileAt k = if k = t then f (s.tileAt t) else s.tileAt k := by
  rw [State.tileAt, modTile_tiles, modAt_getD]
  by_cases hk : k = t
  · subst hk; simp [State.tileAt, h]
  · simp [State.tileAt, hk]

theorem modVf_vfAt (s : State) (v k : Nat) (f : Vf → Vf) (h : v < s.vfs.length) :
    (s.modVf v f).vfAt k = if k = v then f (s.vfAt v) else s.vfAt k := by
  rw [State.vfAt, modVf_vfs, modAt_getD]
  by_cases hk : k = v
  · subst hk; simp [State.vfAt, h]
  · simp [State.vfAt, hk]

theorem modIso_isoAt (s : State) (p k : Nat) (f : IsoPart → IsoPart) (h : p < s.parts.length) :
    (s.modIso p f).isoAt k = if k = p then f (s.isoAt p) else s.isoAt k := by
  rw [State.isoAt, modIso_parts, modAt_getD]
  by_cases hk : k = p
  · subst hk; simp [State.isoAt, h]
  · simp [State.isoAt, hk]

/-! What comes of a request that goes to the host (R389), of a read by an agent of a tile, and of a fault that ends its context (R335). -/

@[simp] theorem hostTakes_state (s : State) : s.hostTakes.2 = { s with free := s.free + 1 } := rfl

theorem hostPost_taken {s : State} (vf : Nat) (put : Memory → Memory) (h : s.hostTakes.1 = true) :
    s.hostPost vf put = { s with free := s.free + 1, host := put s.host } := by simp [State.hostPost, h]

theorem hostPost_dropped {s : State} (vf : Nat) (put : Memory → Memory) (h : s.hostTakes.1 = false) :
    s.hostPost vf put = State.modVf { s with free := s.free + 1 } vf fun v => { v with aer := true } := by simp [State.hostPost, h]

theorem agentRead_stack (s : State) (tile ctx pa n : Nat) {leaf : Addr} (h : leaf.getLsbD 58 = false) :
    s.agentRead tile ctx pa n leaf =
      ((rdBytes s.mem pa n, s.poisoned pa), s.l2 (s.walkWhere tile ctx) pa n false (bitsOf leaf 61 60 != 2)) := by
  unfold State.agentRead
  rw [h]
  rfl

@[simp] theorem endContext_groups (s : State) (c code pc block group gslot core addr aux : Nat) :
    (s.endContext c code pc block group gslot core addr aux).groups = s.groups := rfl
@[simp] theorem endContext_blocks (s : State) (c code pc block group gslot core addr aux : Nat) :
    (s.endContext c code pc block group gslot core addr aux).blocks = s.blocks := rfl
@[simp] theorem endContext_mem (s : State) (c code pc block group gslot core addr aux : Nat) :
    (s.endContext c code pc block group gslot core addr aux).mem = s.mem := rfl

end Sys2Proof.Machine
end

