-- ==== Sys2Proof/Tests/Slice0.lean ====
section
/-! SUPPORT. Tests: words of every encoding, ill-formed terms, single steps, and a witness for the hypotheses of every statement. -/

set_option Elab.async false

namespace Sys2Proof.Machine

theorem test_decode_integer :
    decode 0x01051206 = .ok (.iadd 1 20 36 6) ∧ decode 0x01251206 = .ok (.isub 1 20 36 6) ∧
    decode 0x00451265 = .ok (.imul 20 36 101) ∧ decode 0x00651265 = .ok (.imulhS32 20 36 101) ∧
    decode 0x00851265 = .ok (.iminS32 20 36 101) ∧ decode 0x00A51265 = .ok (.imaxS32 20 36 101) ∧
    decode 0x00C51265 = .ok (.imad 20 36 101) ∧ decode 0x00E51265 = .ok (.idp4S8 20 36 101) ∧
    decode 0x05051239 = .ok (.iaddImm 1 20 36 57) ∧ decode 0x0525126E = .ok (.isubImm 1 20 36 110) ∧
    decode 0x04451247 = .ok (.imulImm 20 36 71) ∧ decode 0x0465126D = .ok (.imulhS32Imm 20 36 109) ∧
    decode 0x04851276 = .ok (.iminS32Imm 20 36 118) ∧ decode 0x04A51263 = .ok (.imaxS32Imm 20 36 99) ∧
    decode 0x04C5123B = .ok (.imadImm 20 36 59) ∧ decode 0x08051200 = .ok (.iabs 20 36) ∧
    decode 0x08251265 = .ok (.imulhUi32 20 36 101) ∧ decode 0x08451265 = .ok (.iminUi32 20 36 101) ∧
    decode 0x08651265 = .ok (.imaxUi32 20 36 101) ∧ decode 0x08851265 = .ok (.idp4Ui8 20 36 101) ∧
    decode 0x0D651265 = .ok (.lea 3 20 36 101) := by
  decide +kernel

theorem test_decode_logic :
    decode 0x10051265 = .ok (.and 20 36 101) ∧ decode 0x10251265 = .ok (.or 20 36 101) ∧
    decode 0x10451265 = .ok (.xor 20 36 101) ∧ decode 0x10651265 = .ok (.andn 20 36 101) ∧
    decode 0x10851265 = .ok (.shl 20 36 101) ∧ decode 0x10A51265 = .ok (.shr 20 36 101) ∧
    decode 0x10C51265 = .ok (.sar 20 36 101) ∧ decode 0x10E51265 = .ok (.shf 20 36 101) ∧
    decode 0x14051241 = .ok (.andImm 20 36 65) ∧ decode 0x1425126D = .ok (.orImm 20 36 109) ∧
    decode 0x1445124B = .ok (.xorImm 20 36 75) ∧ decode 0x14651218 = .ok (.andnImm 20 36 24) ∧
    decode 0x14851217 = .ok (.shlImm 20 36 23) ∧ decode 0x14A51266 = .ok (.shrImm 20 36 102) ∧
    decode 0x14C51241 = .ok (.sarImm 20 36 65) ∧ decode 0x14E5123C = .ok (.shfImm 20 36 60) := by
  decide +kernel

theorem test_decode_bits :
    decode 0x18051200 = .ok (.popc 20 36) ∧ decode 0x18251200 = .ok (.clz 20 36) ∧
    decode 0x18451200 = .ok (.brev 20 36) ∧ decode 0x18651265 = .ok (.bfxS32 20 36 101) ∧
    decode 0x18851265 = .ok (.bfxUi32 20 36 101) ∧ decode 0x18A51265 = .ok (.bfi 20 36 101) ∧
    decode 0x18C51265 = .ok (.prmt 20 36 101) ∧ decode 0x1C651250 = .ok (.bfxS32Imm 20 36 80) ∧
    decode 0x1C85124E = .ok (.bfxUi32Imm 20 36 78) ∧ decode 0x1CA51265 = .ok (.bfiImm 20 36 101) ∧
    decode 0x1CC51217 = .ok (.prmtImm 20 36 23) := by
  decide +kernel

theorem test_decode_compare :
    decode 0x20A05265 = .ok (.icmpS32 5 1 36 101) ∧ decode 0x2460D226 = .ok (.icmpS32Imm 3 3 36 38) ∧
    decode 0x28805265 = .ok (.icmpUi32 4 1 36 101) ∧ decode 0x2CA05244 = .ok (.icmpUi32Imm 5 1 36 68) ∧
    decode 0x30C13A5D = .ok (.plop 6 4 14 4 11 5) ∧ decode 0x31011200 = .ok (.pmovToPred 4 36) ∧
    decode 0x32050200 = .ok (.pmovToReg 20 4) := by
  decide +kernel

theorem test_decode_move :
    decode 0x34A51265 = .ok (.sel 5 20 36 101) ∧ decode 0x3A051200 = .ok (.mov 2 20 36) ∧
    decode 0x3C0502AE = .ok (.movi 20 686) ∧ decode 0x3C25261B = .ok (.moviX2 20 9755) := by
  decide +kernel

theorem test_decode_float :
    decode 0x43051265 = .ok (.fadd 3 20 36 101) ∧ decode 0x41251265 = .ok (.fsub 1 20 36 101) ∧
    decode 0x43451265 = .ok (.fmul 3 20 36 101) ∧ decode 0x41651265 = .ok (.ffma 1 20 36 101) ∧
    decode 0x40851265 = .ok (.fmin 20 36 101) ∧ decode 0x40A51265 = .ok (.fmax 20 36 101) ∧
    decode 0x40C51200 = .ok (.fclass 20 36) ∧ decode 0x4605125E = .ok (.faddImm 2 20 36 94) ∧
    decode 0x46251253 = .ok (.fsubImm 2 20 36 83) ∧ decode 0x4545124F = .ok (.fmulImm 1 20 36 79) ∧
    decode 0x4565126A = .ok (.ffmaImm 1 20 36 106) ∧ decode 0x44851243 = .ok (.fminImm 20 36 67) ∧
    decode 0x44A51208 = .ok (.fmaxImm 20 36 8) ∧ decode 0x48205265 = .ok (.fcmp 1 1 36 101) ∧
    decode 0x4C21D21E = .ok (.fcmpImm 1 7 36 30) := by
  decide +kernel

theorem test_decode_packed :
    decode 0x52851265 = .ok (.hadd2 2 1 20 36 101) ∧ decode 0x53A51265 = .ok (.hmul2 3 1 20 36 101) ∧
    decode 0x51C51265 = .ok (.hfma2 1 1 20 36 101) ∧ decode 0x50E51265 = .ok (.hmax2 1 20 36 101) ∧
    decode 0x63051200 = .ok (.rcp 3 20 36) ∧ decode 0x60251200 = .ok (.rsq 20 36) ∧
    decode 0x61451200 = .ok (.sqrt 1 20 36) ∧ decode 0x60651200 = .ok (.ex2 20 36) ∧
    decode 0x60851200 = .ok (.lg2 20 36) ∧ decode 0x60A51200 = .ok (.sin 20 36) ∧
    decode 0x60C51200 = .ok (.cos 20 36) ∧ decode 0x60E51200 = .ok (.tanh 20 36) ∧
    decode 0x6605125A = .ok (.cvt 2 0 20 36 11 0 1) ∧ decode 0x69251265 = .ok (.cvtsr 1 1 20 36 101) ∧
    decode 0x6C051265 = .ok (.rng 20 36 101) := by
  decide +kernel

theorem test_decode_lanes :
    decode 0x70051265 = .ok (.shfl 20 36 101) ∧ decode 0x70251265 = .ok (.shflx 20 36 101) ∧
    decode 0x70451265 = .ok (.shflup 20 36 101) ∧ decode 0x70651265 = .ok (.shfldn 20 36 101) ∧
    decode 0x70851265 = .ok (.qswz 20 36 101) ∧ decode 0x70A51265 = .ok (.qbc 20 36 101) ∧
    decode 0x70C51265 = .ok (.lbc 20 36 101) ∧ decode 0x7405123F = .ok (.shflImm 20 36 63) ∧
    decode 0x74251201 = .ok (.shflxImm 20 36 1) ∧ decode 0x74451254 = .ok (.shflupImm 20 36 84) ∧
    decode 0x7465120A = .ok (.shfldnImm 20 36 10) ∧ decode 0x74851217 = .ok (.qswzImm 20 36 23) ∧
    decode 0x74A51203 = .ok (.qbcImm 20 36 3) ∧ decode 0x74C5123A = .ok (.lbcImm 20 36 58) := by
  decide +kernel

theorem test_decode_votes :
    decode 0x78050280 = .ok (.voteAll 20 5) ∧ decode 0x78250100 = .ok (.voteAny 20 2) ∧
    decode 0x79450180 = .ok (.voteBallot 20 3) ∧ decode 0x79651200 = .ok (.matchLanes 20 36) ∧
    decode 0x79851200 = .ok (.trn8B8 20 36) ∧ decode 0x7AA31200 = .ok (.trn8B16 12 36) ∧
    decode 0x7BC41400 = .ok (.trn8B32 16 40) ∧ decode 0x7C051200 = .ok (.lredAddI32 20 36) ∧
    decode 0x7F251200 = .ok (.lredAddF32 3 20 36) ∧ decode 0x7C451200 = .ok (.lredMinF32 20 36) ∧
    decode 0x7C651200 = .ok (.lredMaxF32 20 36) ∧ decode 0x7C851200 = .ok (.lscanAddI32 20 36) ∧
    decode 0x7EA51200 = .ok (.lscanAddF32 2 20 36) := by
  decide +kernel

theorem test_decode_minmax :
    decode 0x7CC51200 = .ok (.lredMinI32 20 36) ∧ decode 0x7CE51200 = .ok (.lredMaxI32 20 36) := by
  decide +kernel

theorem test_decode_proxy :
    decode 0x80E29277 = .ok (.ldp 7 10 36 119) ∧ decode 0x8405126B = .ok (.stp 20 36 107) ∧
    decode 0x88051100 = .ok (.mat 20 34) ∧ decode 0x88201100 = .ok (.pdrop 34) ∧
    decode 0x88451100 = .ok (.pqry 20 34) ∧ decode 0x88605100 = .ok (.pqryPred 1 34) ∧
    decode 0x88829165 = .ok (.pmigr 10 34 101) := by
  decide +kernel

theorem test_decode_memory :
    decode 0x9185125A = .ok (.ld 1 4 20 36 90) ∧ decode 0x95C51220 = .ok (.st 1 6 20 36 32) ∧
    decode 0x9A451261 = .ok (.ldq 2 2 20 36 97) ∧ decode 0x9E05121D = .ok (.ldsB32 2 20 36 29) ∧
    decode 0x9E251241 = .ok (.stsB32 2 20 36 65) ∧ decode 0x9C451224 = .ok (.ldsUi16 20 36 36) ∧
    decode 0x9C651203 = .ok (.ldsS16 20 36 3) ∧ decode 0x9C851208 = .ok (.stsB16 20 36 8) ∧
    decode 0x9CA51248 = .ok (.ldsUi8 20 36 72) ∧ decode 0x9CC51262 = .ok (.ldsS8 20 36 98) ∧
    decode 0x9CE5120D = .ok (.stsB8 20 36 13) := by
  decide +kernel

theorem test_decode_ordered :
    decode 0xA1651233 = .ok (.lda 1 3 20 36 51) ∧ decode 0xA585120D = .ok (.stl 1 4 20 36 13) ∧
    decode 0xA8A51238 = .ok (.atom 0 5 20 36 3 2) ∧ decode 0xA9E51225 = .ok (.atomn 1 7 20 36 2 1) ∧
    decode 0xA825124E = .ok (.atoms 0 1 20 36 4 3) ∧ decode 0xAC000A00 = .ok (.fence 2 4) ∧
    decode 0xAC200000 = .ok .wcdrain ∧ decode 0xAD401201 = .ok (.pref 36 1) ∧
    decode 0xAD651204 = .ok (.cvta 20 36 4) := by
  decide +kernel

theorem test_decode_copy :
    decode 0xB0001265 = .ok (.cpkick 36 101) ∧ decode 0xB0201265 = .ok (.boinit 36 101) ∧
    decode 0xB0401265 = .ok (.boarr 36 101) ∧ decode 0xB0651200 = .ok (.bowait 20 36) := by
  decide +kernel

theorem test_decode_names :
    decode 0xB6051202 = .ok (.stn 2 20 36 2) ∧ decode 0xB4200000 = .ok .nfence ∧
    decode 0xB5401265 = .ok (.relq 36 101) ∧ decode 0xB9051265 = .ok (.pgreq 20 36 101) ∧
    decode 0xB9251265 = .ok (.rzero 20 36 101) ∧ decode 0xBA451265 = .ok (.rcopy 20 36 101) := by
  decide +kernel

theorem test_decode_matrix :
    decode 0xC1051200 = .ok (.wload 20 36) ∧ decode 0xC1251200 = .ok (.wloadT 20 36) ∧
    decode 0xC0400000 = .ok .wswap ∧ decode 0xC0601200 = .ok (.accz 36) ∧
    decode 0xC2851200 = .ok (.accld 2 20 36) ∧ decode 0xC09E1265 = .ok (.accldScr 36 101) ∧
    decode 0xC2A51200 = .ok (.accst 2 20 36) ∧ decode 0xC0BE1265 = .ok (.accstScr 36 101) ∧
    decode 0xC0C01200 = .ok (.gang 36) ∧ decode 0xC0E00000 = .ok .opfence ∧
    decode 0xC6051200 = .ok (.mmaC8 20 36) ∧ decode 0xC6251200 = .ok (.mmaBf16 20 36) ∧
    decode 0xC6451265 = .ok (.mmao 20 36 101) ∧ decode 0xC4601200 = .ok (.mwait 36) := by
  decide +kernel

theorem test_decode_control :
    decode 0xD1FD5091 = .ok (.bra 3 1 4018321) ∧ decode 0xD4EBD55C = .ok (.call 1 1 2872668) ∧
    decode 0xD8001201 = .ok (.brt 36 1) ∧ decode 0xD820121B = .ok (.callt 36 27) ∧
    decode 0xD8400000 = .ok .ret ∧ decode 0xE0000D6C = .ok (.meet 3436) ∧
    decode 0xE0253B54 = .ok (.meetw 20 15188) ∧ decode 0xE0400000 = .ok .mpush ∧
    decode 0xE0600000 = .ok .mpop ∧ decode 0xE0800000 = .ok .exit ∧
    decode 0xE0A03A41 = .ok (.nap 14913) ∧ decode 0xE0C00000 = .ok .yield := by
  decide +kernel

theorem test_decode_barrier :
    decode 0xE4050005 = .ok (.bar 20 5) ∧ decode 0xE4250005 = .ok (.bara 20 5) ∧
    decode 0xE4400005 = .ok (.barw 5) ∧ decode 0xE4650005 = .ok (.cbar 20 5) := by
  decide +kernel

theorem test_decode_width :
    decode 0xE8000002 = .ok (.width 2) ∧ decode 0xE8200000 = .ok .wlock ∧
    decode 0xE8400000 = .ok .wfree ∧ decode 0xE860000D = .ok (.rclaim 13) ∧
    decode 0xE8800078 = .ok (.rgive 120) ∧ decode 0xE8A00003 = .ok (.win 3) := by
  decide +kernel

theorem test_decode_system :
    decode 0xF0050204 = .ok (.srd 20 516) ∧ decode 0xF0250103 = .ok (.swr 20 259) ∧
    decode 0xF0450007 = .ok (.launch 20 7) ∧ decode 0xF0602D5E = .ok (.trap 11614) ∧
    decode 0xF0800000 = .ok .tret ∧ decode 0xF0A0196F = .ok (.bkpt 6511) := by
  decide +kernel

theorem test_decode_counters :
    decode 0xF4050059 = .ok (.cntclm 20 1 3 1) ∧ decode 0xF42500E5 = .ok (.cntrd 20 1 1 4 5) ∧
    decode 0xF4400060 = .ok (.cntrel 1 4) ∧ decode 0xF46500C7 = .ok (.trmark 20 199) := by
  decide +kernel

theorem test_decode_words :
    decode 0xFC5A8C00 = .ok (.endRun 5 1 40 6) ∧ decode 0xFCD6636C = .ok (.xi 5661548) ∧
    decode 0xFD280000 = .ok (.guard 2 1) := by
  decide +kernel

/-- A term that each check of WellFormed refuses (R25 to R28, R34, R46). -/
theorem test_wf_refuses :
    ∀ i ∈ ([
      .iadd 2 4 6 8, .iadd 1 5 6 8, .iadd 1 4 7 8, .iadd 1 4 6 9, .isubImm 3 4 6 1, .imul 121 6 8, .imul 4 127 8, .imul 4 6 127,
      .iabs 4 127, .lea 0 5 6 8, .lea 0 4 7 8, .lea 0 4 6 127, .icmpS32 6 0 4 5, .icmpUi32 7 0 4 5, .icmpS32Imm 6 0 4 5, .icmpS32 0 0 127 5,
      .fcmp 0 0 4 127, .fcmpImm 0 0 127 1, .pmovToPred 0 127, .pmovToReg 121 0, .sel 0 4 6 127, .mov 3 4 8, .mov 2 4 6, .movi 121 0,
      .moviX2 5 0, .fadd 0 121 4 4, .faddImm 0 4 127 4, .hadd2 0 0 4 4 127, .hmax2 0 4 127 4, .rcp 0 4 127, .cvt 0 1 4 4 1 0 0, .cvt 0 0 4 5 9 0 0,
      .cvt 0 1 5 4 0 1 0, .cvt 0 1 4 4 9 0 0, .cvtsr 0 0 4 4 127, .qswzImm 4 4 24, .qbcImm 4 4 4, .voteAll 121 0, .voteBallot 5 0, .matchLanes 5 4,
      .matchLanes 4 127, .trn8B8 5 4, .trn8B16 6 4, .trn8B32 4 8, .lredAddI32 4 127, .lscanAddF32 0 121 4, .ldp 0 96 4 0, .ldp 0 4 5 0,
      .stp 127 4 0, .mat 4 96, .pdrop 100, .pqry 121 4, .pqryPred 0 96, .pmigr 4 4 127, .ld 0 6 4 4 0, .ld 1 0 4 4 0,
      .ld 1 4 5 4 0, .ld 0 4 4 5 0, .st 0 1 4 4 0, .st 0 7 4 4 0, .st 1 2 4 4 0, .ldq 1 0 5 4 0, .ldsB32 1 5 4 0, .stsB32 1 5 4 0,
      .ldsUi8 4 127 0, .stsB8 127 4 0, .lda 2 0 4 4 0, .lda 0 5 4 4 0, .stl 2 0 4 4 0, .stl 0 5 4 4 0, .atom 1 0 4 4 0 0, .atom 0 7 4 4 0 0,
      .atom 0 0 4 4 5 0, .atomn 1 7 5 4 0 0, .atoms 0 0 4 5 0 0, .fence 0 1, .fence 1 5, .pref 5 0, .cvta 4 4 5, .cpkick 4 127,
      .boinit 127 4, .bowait 121 4, .stn 0 5 4 0, .stn 2 4 6 0, .relq 5 4, .pgreq 4 5 4, .rzero 4 4 127, .rcopy 4 6 4,
      .wload 4 5, .accz 127, .gang 127, .mwait 127, .accld 0 120 4, .accst 0 120 4, .accldScr 4 127, .mmaC8 4 6,
      .mmao 4 4 127, .brt 4 0, .callt 127 1, .meetw 127 0, .bar 127 0, .bara 127 0, .cbar 127 0, .width 3,
      .srd 4 0x00D, .srd 4 0x105, .srd 4 0x303, .swr 4 0x000, .swr 127 0x103, .launch 127 0, .cntclm 4 0 5 0, .cntrd 4 0 0 5 0,
      .cntrel 0 7, .trmark 127 0, .endRun 0 0 4 0, .endRun 0 0 95 2, .endRun 0 0 111 2] : List Instr), i.wf = false := by
  decide +kernel

/-- The context in which the group that issues executes. -/
def iss (s : State) : Iss :=
  match s.issueCtx with
  | some i => i
  | none => { g := placeGroup 0, b := placeBlk, r := placeRole, vf := 0, seq := 0, set := 0, act := 0, wr := 0, pc := 0, x := none, undef := 0, seed := 0 }

theorem issueCtx_iss {s : State} (h : s.issueCtx.isSome = true) : s.issueCtx = some (iss s) := by
  unfold iss
  cases hc : s.issueCtx with
  | none => simp [hc] at h
  | some i => rfl

/-- Whether Ready holds of the group that issues. -/
def readyB (s : State) (u : Uses) : Bool :=
  s.issueCtx.isSome && !(iss s).stalls u && ((iss s).prefixFault u).isNone && (iss s).act != 0 && (iss s).g.refused.isNone &&
    ((iss s).operandFault u).isNone && (iss s).blind u == 0

theorem ready_of {s : State} {u : Uses} (h : readyB s u = true) : Ready s (iss s) u := by
  simp [readyB] at h
  obtain ⟨⟨⟨⟨⟨⟨h1, h2⟩, h3⟩, h4⟩, h5⟩, h6⟩, h7⟩ := h
  exact ⟨issueCtx_iss h1, by simpa using h2, by simpa using h3, h4, by simpa using h5, by simpa using h6, h7⟩

/-- Whether Plain holds. -/
def plainB (i : Iss) (u : Uses) : Bool := (u.reads ++ u.also ++ u.tags ++ u.writes).all fun f => (List.range f.2).all fun j => (i.proxy f.1 j).isNone

theorem plain_of {i : Iss} {u : Uses} (h : plainB i u = true) : Plain i u := by
  intro f hf j hj
  have := List.all_eq_true.mp h f hf
  have := List.all_eq_true.mp this j (List.mem_range.mpr hj)
  simpa using this

theorem forms_of {s : State} {l : List Uses} (h : (l.all fun u => readyB s u && plainB (iss s) u) = true) :
    ∀ u ∈ l, Ready s (iss s) u ∧ Plain (iss s) u := by
  intro u hu
  have h := List.all_eq_true.mp h u hu
  rw [Bool.and_eq_true] at h
  exact ⟨ready_of h.1, plain_of h.2⟩

/-- Four groups of 16 lanes of one block on core 0; that of partition 0 issues. -/
def t0 : State := State.reset.setup

/-- The state with the group that issues changed. -/
def onG (s : State) (f : Group → Group) : State := s.modGroup 0 0 0 f
/-- The state with its block changed. -/
def onB (s : State) (f : Block → Block) : State := s.modBlock 0 f
/-- The state with one value in every lane of a vector register of that group. -/
def setV (s : State) (k : Nat) (v : Word) : State := onG s fun g => withReg g k (.val (List.replicate 16 v))

theorem witness_IntegerResults :
    ∀ u ∈ [withPx (usesRR 2 4 6), withPx (usesRI 2 4), usesRR 2 4 6, usesRI 2 4, usesRRD 2 4 6, usesRID 2 4, usesR 2 4,
      { reads := [(4, 2), (6, 2)], writes := [(2, 2)] }, { reads := [(4, 2)], writes := [(2, 2)], xi := true },
      { reads := [(4, 2), (6, 1)], writes := [(2, 2)] }], Ready t0 (iss t0) u ∧ Plain (iss t0) u := forms_of (by decide +kernel)

theorem readies_of {s : State} {l : List Uses} (h : (l.all fun u => readyB s u) = true) : ∀ u ∈ l, Ready s (iss s) u :=
  fun u hu => ready_of (List.all_eq_true.mp h u hu)

theorem witness_LogicResults :
    ∀ u ∈ [withPx (usesRR 2 4 6), withPx (usesRI 2 4), usesRR 2 4 6, usesRI 2 4, usesRRD 2 4 6, usesRID 2 4],
      Ready t0 (iss t0) u ∧ Plain (iss t0) u := forms_of (by decide +kernel)

theorem witness_BitFieldResults :
    ∀ u ∈ [usesR 2 4, usesRR 2 4 6, usesRI 2 4, usesRRD 2 4 6, usesRID 2 4], Ready t0 (iss t0) u ∧ Plain (iss t0) u :=
  forms_of (by decide +kernel)

theorem witness_PredicateResults :
    ∀ u ∈ [({ reads := [(4, 1), (6, 1)], preds := [7], px := true, xi := false } : Uses), { reads := [(4, 1)], preds := [1], px := true, xi := true },
      { preds := [2, 3, 0, 1], psrc := [2, 3, 0] }, { reads := [(4, 1)], preds := [1] }], Ready t0 (iss t0) u ∧ Plain (iss t0) u :=
  forms_of (by decide +kernel)

theorem witness_MoveResults :
    ∀ u ∈ [({ withPx (usesRR 2 4 6) with preds := [1], psrc := [1] } : Uses), { reads := [(4, 1)], writes := [(2, 1)], px := true, toPx := true },
      { reads := [(8, 8)], writes := [(16, 8)], px := true, toPx := true }, { writes := [(2, 1)], xi := true }, { writes := [(2, 2)], xi := true },
      { writes := [(2, 1)], preds := [1], psrc := [1] }], Ready t0 (iss t0) u ∧ Plain (iss t0) u := forms_of (by decide +kernel)

theorem witness_FloatResults :
    ∀ u ∈ [withPx (usesRR 2 4 6), withPx (usesRI 2 4), withPx (usesRRD 2 4 6), withPx (usesRID 2 4), usesR 2 4],
      Ready t0 (iss t0) u ∧ Plain (iss t0) u := forms_of (by decide +kernel)

theorem witness_PackedResults : ∀ u ∈ [usesRR 2 4 6, usesRRD 2 4 6, usesR 2 4], Ready t0 (iss t0) u ∧ Plain (iss t0) u :=
  forms_of (by decide +kernel)

/-- A pack of two and of four, an unpack of each, and a conversion of one element, by the type codes 0, 9, 12, 5. -/
theorem witness_ConvertResults :
    (∀ u ∈ [({ reads := [(4, 2)], writes := [(2, 1)], px := cvtPx 0 9, toPx := cvtPx 0 9 } : Uses), { reads := [(4, 4)], writes := [(2, 1)], px := cvtPx 0 12, toPx := cvtPx 0 12 },
      { reads := [(4, 1)], writes := [(2, 2)], px := cvtPx 9 0, toPx := cvtPx 9 0 }, { reads := [(4, 1)], writes := [(4, 4)], px := cvtPx 12 0, toPx := cvtPx 12 0 },
      { reads := [(4, 1)], writes := [(2, 1)], px := cvtPx 0 5, toPx := cvtPx 0 5 }], Ready t0 (iss t0) u ∧ Plain (iss t0) u) ∧
    (4 : BitVec 7).toNat % 4 = 0 := ⟨forms_of (by decide +kernel), by decide⟩

/-- A source in every lane, in the upper lanes alone, and in one lane for all. -/
theorem witness_LaneExchange :
    let up := fun (_ : Iss) (l : Nat) => if 3 ≤ l then some (l - 3) else none
    ∀ u ∈ [{ usesRR 2 4 6 with from_ := exchangeFrom (fun _ l => some (l % 4)) false }, { usesR 2 4 with from_ := exchangeFrom up false },
      { usesRR 2 4 6 with from_ := exchangeFrom (fun _ _ => some 5) true }], Ready t0 (iss t0) u ∧ Plain (iss t0) u := forms_of (by decide +kernel)

theorem witness_VoteAndTranspose :
    ∀ u ∈ [({ writes := [(2, 1)], preds := [7], psrc := [7] } : Uses), { writes := [(2, 2)], preds := [1], psrc := [1] }, { reads := [(4, 1)], from_ := fromActive, writes := [(2, 2)] },
      { reads := [(4, 2)], from_ := trn8From 8, writes := [(2, 2)] }, { reads := [(8, 4)], from_ := trn8From 16, writes := [(4, 4)] },
      { reads := [(8, 8)], from_ := trn8From 32, writes := [(16, 8)] }],
      Ready t0 (iss t0) u ∧ Plain (iss t0) u := forms_of (by decide +kernel)

theorem witness_Reductions : ∀ u ∈ [{ usesR 2 4 with from_ := fromActive }], Ready t0 (iss t0) u ∧ Plain (iss t0) u := forms_of (by decide +kernel)

/-- Register 34 of the group that issues names slot 7 of the saggar of home 3; its context has a quota of 4 slots. -/
def tPx : State := (onG t0 fun g => withReg g 34 (.px 3 7)).modCtx 1 fun c => { c with quota := 4 }

theorem witness_ProxyQueries :
    let uq : Uses := { tags := [(34, 1)], writes := [(2, 1)], p6 := false }
    let up : Uses := { tags := [(34, 1)], preds := [1], p6 := false }
    let um : Uses := { also := [(34, 1)], writes := [(2, 1)], p6 := false }
    let ud : Uses := { tags := [(34, 1)], p6 := false }
    (∀ u ∈ [uq, up, um, ud], Ready tPx (iss tPx) u ∧ Ready t0 (iss t0) u) ∧ (iss tPx).proxy 2 0 = none ∧ (iss tPx).proxy 34 0 = some (3, 7) ∧
      (iss t0).proxy 34 0 = none ∧ (iss t0).proxy 2 0 = none ∧ (∀ g ∈ tPx.groups, g.trap = none) :=
  ⟨fun u hu => ⟨readies_of (by decide +kernel) u hu, readies_of (by decide +kernel) u hu⟩, by decide +kernel⟩

/-- The same with proxies in registers 40 to 47, and with one lane inactive. -/
def tPx8 : State := onG tPx fun g => (List.range 8).foldl (fun g k => withReg g (40 + k) (.px 3 k)) g
def tPxPart : State := onG tPx fun g => { g with iset := 0x7FFF }

/-- A proxy in the first source, in the second, and in the prior destination; a register and a field that is discarded as the destination; all
lanes active and not; one and eight registers moved. -/
theorem witness_ProxyArithmetic :
    let rr := fun (d a b : BitVec 7) => withPx (usesRR d a b)
    let uc := fun (d : BitVec 7) (n m : Nat) => ({ reads := [(34, n)], writes := [(d, m)], px := true, toPx := true } : Uses)
    let cmp := fun (xi : Bool) (fs : List (BitVec 7)) => ({ reads := fs.map fun f => (f, 1), preds := [1], px := true, xi := xi } : Uses)
    let us := [rr 2 34 6, rr 2 6 34, rr 34 34 6, rr 120 34 6, withPx (usesRI 2 34), withPx (usesRRD 2 34 6), withPx (usesRRD 34 4 6), withPx (usesRID 2 34),
      { rr 2 34 6 with preds := [1], psrc := [1] }, uc 2 1 1, uc 2 2 1, uc 2 1 2, cmp false [34, 6], cmp false [6, 34], cmp true [34]]
    let first := fun (s : State) (fs : List (BitVec 7)) => (fs.findSome? fun f => ((iss s).proxy f 0).map Prod.fst) = some 3
    (∀ u ∈ us, Ready tPx (iss tPx) u) ∧ (∀ u ∈ us, Ready tPxPart (iss tPxPart) u) ∧
    (∀ u ∈ [({ reads := [(40, 8)], writes := [(8, 8)], px := true, toPx := true } : Uses)], Ready tPx8 (iss tPx8) u) ∧
    (∀ j < 8, (iss tPx8).proxy 40 j = some (3, j)) ∧ (∀ g ∈ tPx8.groups, g.trap = none) ∧ (iss tPx).full = true ∧ (iss tPxPart).full = false ∧
    ∀ s ∈ [tPx, tPxPart], first s [34, 6] ∧ first s [6, 34] ∧ first s [34] ∧ first s [4, 6, 34] ∧ first s [34, 35] ∧ (∀ g ∈ s.groups, g.trap = none) ∧
      (iss s).g.rpoison = [] ∧ 2 ≤ s.credits 0 1 3 ∧ (s.acct 0 1).handles.length + 2 ≤ 4096 ∧ s.poison = [] ∧ s.slots = [] ∧ s.homeq = [] :=
  ⟨readies_of (by decide +kernel), readies_of (by decide +kernel), readies_of (by decide +kernel), by decide +kernel⟩

/-- What checking the lanes of an access has found. -/
def oks (c : Checked) : List (Nat × Place) × State := match c with | .ok ps s => (ps, s) | _ => ([], t0)

theorem oks_ok {c : Checked} (h : (match c with | .ok _ _ => true | _ => false) = true) : c = .ok (oks c).1 (oks c).2 := by
  cases c <;> simp_all [oks]

theorem gather_state {rs : List (Nat × LaneChk)} {wr : Bool} {s t : State} {ps : List (Nat × Place)} (h : gather rs wr s = .ok ps t) : t = s := by
  unfold gather at h
  split at h
  · exact absurd h (by simp)
  · dsimp only at h
    split at h
    · exact (Checked.ok.inj h).2.symm
    · exact absurd h (by simp)

theorem gatherRows_state {rs : List (Bool × LaneChk)} {low : Nat} {s t : State} {ps : List (Nat × Place)} (h : gatherRows rs low s = .ok ps t) :
    t = s := by
  unfold gatherRows at h
  dsimp only at h
  split at h
  · exact absurd h (by simp)
  · split at h
    · exact (Checked.ok.inj h).2.symm
    · exact absurd h (by simp)

theorem gatherRows_ok {rs : List (Bool × LaneChk)} {low : Nat} {s : State}
    (h : (match gatherRows rs low s with | .ok _ _ => true | _ => false) = true) : gatherRows rs low s = .ok (oks (gatherRows rs low s)).1 s := by
  have h' := oks_ok h
  rw [gatherRows_state h'] at h'
  exact h'

theorem gather_ok {rs : List (Nat × LaneChk)} {wr : Bool} {s : State}
    (h : (match gather rs wr s with | .ok _ _ => true | _ => false) = true) : gather rs wr s = .ok (oks (gather rs wr s)).1 s := by
  have h' := oks_ok h
  rw [gather_state h'] at h'
  exact h'

theorem pair2_eta {A B : Type} (x : A × B) : x = (x.1, x.2) := rfl
theorem pair3_eta {A B C : Type} (x : A × B × C) : x = (x.1, x.2.1, x.2.2) := rfl

/-- Register pair 4 of every lane holds the generic address 2^36, which maps to the foot of stack 0, and pair 8 the private offset 64. -/
def tMem : State := setV (setV (onB t0 fun b => { b with privSize := 4096 }) 5 16) 9 0xC3000000

/-- A word at each lane's address 4 × l past 2^36, a name's home being that of the foot of stack 0. -/
def tMemPx : State := (setV (onG t0 fun g => withReg (withReg g 34 (.px 0 7)) 4 (.val ((List.range 16).map fun l => BitVec.ofNat 32 (4 * l)))) 5 16).modCtx 1
  fun c => { c with quota := 4 }

theorem witness_ProxyMoves_load :
    let i := iss tMemPx
    let u : Uses := { reads := [(4, 2)], writes := [(10, 1)], preds := [1], xi := true, p6 := false }
    let words := (List.range 16).map fun l => (l, 4 * l)
    ∃ ps v, Ready tMemPx i u ∧ ((counted tMemPx i u).settleStp i.g.core).checkLanes i.lanes false
        (fun s l => s.checkAddr i l (i.rd2 4 l + BitVec.ofInt 64 (immM i.x 0 * 4)) 4 4 .read) = .ok ps v ∧
      i.full = true ∧ i.act = i.wr ∧ i.proxy 10 0 = none ∧ words ≠ [] ∧ (∀ w ∈ words, homeOf w.2 = 0 ∧ w.2 / 2 ^ 36 = i.tile) ∧
      (ps.map fun q => match q.2 with | .mem pa _ false => (q.1, Place.mem pa 0 false) | x => (q.1, x)) =
        words.map (fun w => (w.1, Place.mem w.2 0 false)) ∧ v.shortOf i 0 1 = none :=
  ⟨_, _, ready_of (by decide +kernel), oks_ok (by decide +kernel), by decide +kernel⟩

theorem witness_ProxyMoves_store :
    let i := iss tMemPx
    let u : Uses := { reads := [(4, 2)], also := [(34, 1)], dsrc := true, xi := true, p6 := false }
    let words := (List.range 16).map fun l => (l, 4 * l)
    ∃ ps v, Ready tMemPx i u ∧ i.proxy 34 0 = some (0, 7) ∧
      ((counted tMemPx i u).settleStp i.g.core).checkLanes i.lanes true
        (fun s l => s.checkAddr i l (i.rd2 4 l + BitVec.ofInt 64 (immM i.x 0 * 4)) 4 4 .write) = .ok ps v ∧
      v.poison = [] ∧ (∀ k ∈ v.slots, k.poison = 0) ∧ v.homeq = [] ∧
      (ps.map fun q => match q.2 with | .mem pa _ false => (q.1, Place.mem pa 0 false) | x => (q.1, x)) =
        words.map (fun w => (w.1, Place.mem w.2 0 false)) :=
  ⟨_, _, ready_of (by decide +kernel), by decide +kernel, oks_ok (by decide +kernel), by decide +kernel⟩

theorem witness_ProxyMoves_plain :
    let i := iss tMemPx
    let u : Uses := { reads := [(4, 2)], also := [(6, 1)], dsrc := true, xi := true, p6 := false }
    ∃ ps v, Ready tMemPx i u ∧ Plain i u ∧
      ((counted tMemPx i u).settleStp i.g.core).checkLanes i.lanes true
        (fun s l => s.checkAddr i l (i.rd2 4 l + BitVec.ofInt 64 (immM i.x 0 * 4)) 4 4 .write) = .ok ps v ∧ i.b.absentOf (linesOf ps) = [] :=
  ⟨_, _, ready_of (by decide +kernel), plain_of (by decide +kernel), oks_ok (by decide +kernel), by decide +kernel⟩

theorem witness_ProxyMoves_moves :
    let i := iss tMemPx
    let um : Uses := { also := [(34, 1)], writes := [(10, 1)], p6 := false }
    let uc := fun (a : BitVec 7) => ({ reads := [(6, 1)], from_ := fromLow, tags := [(a, 1)], writes := [(10, 1)], p6 := false } : Uses)
    let away := onG tMemPx fun g => withReg g 34 (.px 300 7)
    (∀ u ∈ [um, uc 34, uc 35], Ready tMemPx i u) ∧ (∀ u ∈ [uc 34], Ready away (iss away) u) ∧ (iss away).proxy 34 0 = some (300, 7) ∧
      (iss away).rd 6 0 (iss away).low = 0 ∧ away.shortOf (iss away) 0 1 = none ∧
      i.proxy 34 0 = some (0, 7) ∧ i.proxy 35 0 = none ∧ i.proxy 10 0 = none ∧ (∀ g ∈ tMemPx.groups, g.trap = none) ∧ i.g.rpoison = [] ∧
      vecKey i 10 < 256 ∧ tMemPx.poison = [] ∧ (∀ k ∈ tMemPx.slots, k.poison = 0) ∧ tMemPx.homeq = [] ∧ (i.rd 6 0 i.low).toNat = 0 ∧ 0 / 256 = i.tile ∧
      i.full = true ∧ tMemPx.shortOf i 0 1 = none :=
  ⟨readies_of (by decide +kernel), readies_of (by decide +kernel), by decide +kernel⟩

/-- Whether Canonical holds. -/
def canonB (s : State) : Bool :=
  let blk := fun (b : Block) => b.scratch.wf && b.priv.wf
  s.mem.wf && s.host.wf && s.blocks.all blk && (s.tiles.all fun t => tableOk 0 0 t.fsm && tableOk 0 0 t.fmap) &&
    (s.mats.all fun m => tableOk 0 0 m.acc) && tableOk 0 0 s.turns && tableOk 0 0 s.life && (s.cores.all fun k => k.px.all fun a => tableOk 0 0 a.used) &&
    s.images.all fun m => m.blocks.all blk && m.mats.all fun x => tableOk 0 0 x.acc

theorem canonical_of {s : State} (h : canonB s = true) : Canonical s := by
  simp only [canonB, Bool.and_eq_true, List.all_eq_true] at h
  obtain ⟨⟨⟨⟨⟨⟨⟨⟨h1, h2⟩, h3⟩, h4⟩, h5⟩, h6⟩, h7⟩, h8⟩, h9⟩ := h
  exact ⟨h1, h2, h3, h4, h5, h6, h7, h8, h9⟩

/-- Offsets at the end of the scratchpad, and at the end of a column part of 64 bytes. -/
def tScr (off : Word) : State := setV (onB t0 fun b => { b with colSize := 64 }) 4 off

/-- The last aligned bytes of the scratchpad and of the column part, by each width. -/
theorem witness_ScratchLoads :
    ∀ q ∈ [((1008 : Word), (4 : Nat), (16 : Nat)), (1020, 1, 4), (1022, 1, 2), (1023, 1, 1), (0x100030, 4, 16), (0x10003C, 1, 4), (0x10003E, 1, 2), (0x10003F, 1, 1)],
      let s := tScr q.1
      let i := iss s
      let u : Uses := { reads := [(4, 1)], writes := [(8, q.2.1)], xi := true }
      let off := fun (l : Nat) => ((i.rd 4 0 l).toNat : Int) + immM i.x 0 * q.2.2
      readyB s u = true ∧ plainB i u = true ∧ i.act = i.wr ∧
      ∀ l ∈ i.lanes, 0 ≤ off l ∧ off l % q.2.2 = 0 ∧
        if off l < 0x100000 then off l + q.2.2 ≤ i.b.scrSize ∧ ((off l).toNat / 128) ∉ i.b.absent ∧ i.b.poisonedAt (off l).toNat q.2.2 = false
        else off l < 2 ^ 32 ∧ off l + q.2.2 ≤ 0x100000 + i.b.colSize ∧
          ((counted s i u).settleStp i.g.core).colBad i.g.core (i.b.colBase + ((off l).toNat - 0x100000)) q.2.2 = false := by
  decide +kernel

theorem witness_ScratchStores :
    ∀ q ∈ [((1008 : Word), (4 : Nat), (16 : Nat)), (1022, 1, 2), (1023, 1, 1), (0x100030, 4, 16), (0x10003E, 1, 2), (0x10003F, 1, 1)],
      let s := tScr q.1
      let i := iss s
      let u : Uses := { reads := [(4, 1), (8, q.2.1)], dsrc := true, xi := true }
      let off := fun (l : Nat) => ((i.rd 4 0 l).toNat : Int) + immM i.x 0 * q.2.2
      readyB s u = true ∧ canonB s = true ∧ plainB i u = true ∧ (∀ k ∈ s.cores, ∀ r ∈ k.reqs ++ k.sent, r.block = i.b.id → r.out = false) ∧
      ∀ l ∈ i.lanes, 0 ≤ off l ∧ off l % q.2.2 = 0 ∧
        if off l < 0x100000 then off l + q.2.2 ≤ i.b.scrSize ∧ ((off l).toNat / 128) ∉ i.b.absent
        else off l < 2 ^ 32 ∧ off l + q.2.2 ≤ 0x100000 + i.b.colSize := by
  decide +kernel

/-- What reading the lanes of a load has found. -/
def allRead (v : State) (i : Iss) (ps : List (Nat × Place)) (n : Nat) (al : Bool) : List (Nat × Nat) × State :=
  ((v.readAll i ps n al).1, (v.readAll i ps n al).2.2)

theorem allRead_ok {v : State} {i : Iss} {ps : List (Nat × Place)} {n : Nat} {al : Bool} (h : (v.readAll i ps n al).2.1 = []) :
    v.readAll i ps n al = ((allRead v i ps n al).1, [], (allRead v i ps n al).2) := by
  rw [← h]; rfl

/-- LD.b32.x4 and LDA.b32, at .gang and at .dev, of device memory, and of private memory through the window. -/
theorem witness_GenericLoads :
    let i := iss tMem
    ∀ q ∈ [((4 : BitVec 7), (4 : Nat)), (8, 4), (8, 1)],
      let u : Uses := { reads := [(q.1, 2)], writes := [(16, q.2)], xi := true }
      ∃ ps v vs v' ws w', Ready tMem i u ∧ Plain i u ∧
        ((counted tMem i u).settleStp i.g.core).checkLanes i.lanes false
          (fun s l => s.checkAddr i l (i.rd2 q.1 l + BitVec.ofInt 64 (immM i.x 0 * (4 * q.2 : Nat))) (4 * q.2) (4 * q.2) .read) = .ok ps v ∧
        v.readAll i ps (4 * q.2) true = (vs, [], v') ∧ (v.toSlice i (4 * q.2) ps).readAll i ps (4 * q.2) true = (ws, [], w') ∧
        (i.act = i.wr ∧ i.b.absentOf (linesOf ps) = [] ∧ v.linkMissing i ps (4 * q.2) = [] ∧ ∀ e ∈ vs, e.2 < 2 ^ (8 * (4 * q.2))) := by
  intro i q hq
  have h := hq
  simp only [List.mem_cons, List.not_mem_nil, or_false] at h
  obtain rfl | rfl | rfl := h <;>
    exact ⟨_, _, _, _, _, _, ready_of (by decide +kernel), plain_of (by decide +kernel), oks_ok (by decide +kernel),
      allRead_ok (by decide +kernel), allRead_ok (by decide +kernel), by decide +kernel⟩

/-- LDQ of lanes that can be read and of an address that maps nothing. -/
theorem witness_GenericLoads_ldq :
    ∀ a ∈ [(4 : BitVec 7), 6],
      let s := setV tMem 7 0x40
      let i := iss s
      let u : Uses := { reads := [(a, 2)], writes := [(16, 1)], xi := true, preds := [1] }
      ∃ ps v vs bad v', Ready s i u ∧ Plain i u ∧ i.act = i.wr ∧
        i.lanes.foldl (fun (acc : List (Nat × Place) × State) l =>
          match acc.2.checkAddr i l (i.rd2 a l + BitVec.ofInt 64 (immM i.x 0 * (4 : Nat))) 4 4 .read with
          | (.ok q, s) => (acc.1 ++ [(l, q)], s)
          | (_, s) => (acc.1, s)) ([], (counted s i u).settleStp i.g.core) = (ps, v) ∧
        v.readAll i ps 4 true = (vs, bad, v') ∧ i.b.absentOf (linesOf ps) = [] ∧ v.linkMissing i ps 4 = [] := by
  intro a ha
  have h := ha
  simp only [List.mem_cons, List.not_mem_nil, or_false] at h
  obtain rfl | rfl := h <;>
    exact ⟨_, _, _, _, _, ready_of (by decide +kernel), plain_of (by decide +kernel), by decide +kernel, pair2_eta _, pair3_eta _,
      by decide +kernel⟩

theorem witness_GenericStores :
    let i := iss tMem
    ∀ q ∈ [((4 : BitVec 7), (4 : Nat)), (8, 4), (8, 1)],
      let u : Uses := { reads := [(q.1, 2), (16, q.2)], dsrc := true, xi := true }
      ∃ ps v, Ready tMem i u ∧ Plain i u ∧
        ((counted tMem i u).settleStp i.g.core).checkLanes i.lanes true
          (fun s l => s.checkAddr i l (i.rd2 q.1 l + BitVec.ofInt 64 (immM i.x 0 * (4 * q.2 : Nat))) (4 * q.2) (4 * q.2) .write) = .ok ps v ∧
        i.b.absentOf (linesOf ps) = [] := by
  intro i q hq
  have h := hq
  simp only [List.mem_cons, List.not_mem_nil, or_false] at h
  obtain rfl | rfl | rfl := h <;>
    exact ⟨_, _, ready_of (by decide +kernel), plain_of (by decide +kernel), oks_ok (by decide +kernel), by decide +kernel⟩

theorem witness_StoreThenLoad :
    let i := iss t0
    Canonical t0 ∧ t0.blockAt i.b.id = some i.b ∧ i.g.core < t0.cores.length ∧ (∀ x ∈ (t0.coreAt i.g.core).l1, x.data.length = 128) ∧
    (∀ x ∈ (t0.coreAt i.g.core).wc, x.addr % 128 = 0 ∧ x.data.length = 128) ∧ 112 % 128 + (List.replicate 16 (1 : Byte)).length ≤ 128 ∧
    (∀ k ∈ t0.cores, ∀ r ∈ k.reqs, meets r.bobj 8 0 16 = false) :=
  ⟨canonical_of (by decide +kernel), by decide +kernel⟩

theorem witness_StoreFrame :
    let i := iss t0
    Canonical t0 ∧ i.g.core < t0.cores.length ∧ t0.inflight = [] ∧ (t0.coreAt i.g.core).wc = [] ∧
    (∀ x ∈ (t0.coreAt i.g.core).l1, x.data.length = 128) ∧
    ((t0.coreAt i.g.core).setLines 96).length < 8 ∧ 96 % 128 + (List.replicate 32 (1 : Byte)).length ≤ 128 ∧
    (List.replicate 32 (1 : Byte)).length ≤ 32 :=
  ⟨canonical_of (by decide +kernel), by decide +kernel⟩

/-- ATOM.add and ATOM.cas of one word of device memory, and ATOMN of private memory. -/
theorem witness_AtomicResults :
    let i := iss tMem
    ∀ q ∈ [((4 : BitVec 7), (1 : Nat), true), (4, 2, true), (8, 1, false), (8, 2, false)],
      let u : Uses := { reads := [(q.1, 2), (16, q.2.1)], dsrc := true, writes := if q.2.2 then [(16, 1)] else [] }
      ∃ ps v, Ready tMem i u ∧ Plain i u ∧
        ((counted tMem i u).settleStp i.g.core).checkLanes i.lanes true (atomCheck i 0 q.1) = .ok ps v ∧
        i.b.absentOf (linesOf ps) = [] ∧ (v.linkRefused ps).1 = [] ∧
        ∀ z ∈ ps, (v.linkRefused ps).2.atomPoison i z.2 1 = false ∧ (v.linkRefused ps).2.atomPoison i z.2 3 = false := by
  intro i q hq
  have h := hq
  simp only [List.mem_cons, List.not_mem_nil, or_false] at h
  obtain rfl | rfl | rfl | rfl := h <;>
    exact ⟨_, _, ready_of (by decide +kernel), plain_of (by decide +kernel), oks_ok (by decide +kernel), by decide +kernel⟩

/-- A word of device memory that is near at scope .gang and far at scope .dev. -/
theorem witness_AtomicTable :
    let i := iss t0
    let near := fun (scope : Nat) => false = false ∧ bitsOf (0xBA : Addr) 63 62 = 0 ∧ bitsOf (0xBA : Addr) 61 60 = 0 ∧ scope < 2 ∧ t0.mm0 i.g.ctx = false ∧ i.g.through = false
    Canonical t0 ∧ t0.blockAt i.b.id = some i.b ∧ i.g.core < t0.cores.length ∧ t0.inflight = [] ∧ (t0.coreAt i.g.core).wc = [] ∧
    (∀ z ∈ (t0.coreAt i.g.core).l1, z.data.length = 128) ∧ (∀ k ∈ t0.cores, ∀ r ∈ k.reqs, meets r.bobj 8 0 4 = false) ∧ 124 % 128 + 4 ≤ 128 ∧
    (near 1 ∧ ((t0.coreAt i.g.core).setLines 124).length < 8) ∧ (¬ near 3 ∧ t0.sector i.g.core 124 = none) :=
  ⟨canonical_of (by decide +kernel), by decide +kernel⟩

theorem witness_FenceResults :
    (∀ u ∈ [({ guard := false } : Uses), { reads := [(4, 2)] }], Ready t0 (iss t0) u) ∧ (3 : BitVec 2) ≠ 0 ∧ (3 : BitVec 2) ≠ 1 ∧
    (1 : BitVec 2) ≠ 2 ∧ 2 ≤ (2 : BitVec 3).toNat := ⟨readies_of (by decide +kernel), by decide +kernel⟩

/-- The windows and the ends of the global addresses, and of the offsets that each mode takes. -/
theorem witness_CvtaResults :
    (∀ u ∈ [({ reads := [(4, 2)], writes := [(2, 2)] } : Uses)], Ready t0 (iss t0) u ∧ Plain (iss t0) u) ∧
    (∀ q ∈ [((0 : Nat), (0xC4000001 : Word)), (0, 0xC5FFFFFF), (0, 0x00FFFFFF), (1, 0xC3000000), (1, 0xFF000000), (2, 1), (3, 0x00FFFFFF), (4, 0xFF000000)],
      let s := setV (setV t0 4 0xFFFFFFFF) 5 q.2
      let i := iss s
      let top := fun (x : Addr) => x.toNat / 2 ^ 56
      let window := fun (x : Addr) => top x = 0xC3 ∨ top x = 0xC4 ∨ top x = 0xC5
      let global := fun (x : Addr) => x.toNat < 2 ^ 56 ∨ 2 ^ 64 - 2 ^ 56 ≤ x.toNat
      ∀ l ∈ i.lanes,
        let x := i.rd2 4 l
        if q.1 = 0 then window x ∧ (top x = 0xC4 → x.toNat % 2 ^ 56 < 2 ^ 33) ∨ global x else if q.1 = 1 then window x ∨ global x
        else if q.1 = 2 then x.toNat < 2 ^ 33 else if q.1 = 3 then x.toNat < 2 ^ 56 else global x) :=
  ⟨forms_of (by decide +kernel), by decide +kernel⟩

/-- A scratchpad of 2,048 bytes: 32 copy requests of one byte to offset 128, or an object at its end. -/
def tObj (m : Memory) (o n : Word) : State := setV (setV (onB t0 fun b => { b with scrSize := 2048, scratch := m }) 4 o) 6 n

theorem witness_CopyAndObjects :
    let u : Uses := { reads := [(4, 1), (6, 1)], from_ := fromLow }
    let uw : Uses := { reads := [(4, 1)], from_ := fromLow, writes := [(2, 1)], guard := false }
    let kick := fun (o n : Word) =>
      let s := tObj ((List.range 32).map fun k => (64 * k + 58, 8)) o n
      let i := iss s
      readyB s u = true ∧ i.g.core < s.cores.length ∧ o.toNat % 64 = 0 ∧ o.toNat + 64 * n.toNat ≤ i.b.scrSize ∧
        (s.coreAt i.g.core).reqs.length + n.toNat ≤ 64 ∧
        ∀ k < n.toNat, malformed i.b i.b.scratch (o.toNat + 64 * k) (parseCopy i i.b.scratch (o.toNat + 64 * k)) = false
    let object := fun (o : Word) =>
      let s := tObj [] o 1
      let i := iss s
      readyB s u = true ∧ readyB s uw = true ∧ plainB i uw = true ∧ canonB s = true ∧ (i.rd 4 0 i.low).toNat % 8 = 0 ∧ (i.rd 4 0 i.low).toNat + 8 ≤ i.b.scrSize ∧
        (∀ k ∈ s.cores, ∀ r ∈ k.reqs, r.block ≠ i.b.id) ∧ (BitVec.ofNat 48 (leNat (rdBytes i.b.scratch o.toNat 8))).toInt ≤ 0
    kick 0 0 ∧ kick 0 1 ∧ kick 0 32 ∧ object 0 ∧ object 2040 ∧
    (let s := tObj [(2040, 1)] 2040 0
     let i := iss s
     readyB s uw = true ∧ 0 < (BitVec.ofNat 48 (leNat (rdBytes i.b.scratch 2040 8))).toInt ∧ leNat (rdBytes i.b.scratch 2040 8) < 2 ^ 63) := by
  decide +kernel

/-- The state of RELQ of the 1,024 bytes at the foot of stack 0, which the context has named. -/
def tName : State := setV (setV (t0.modTile 0 fun t => { t with fsm := (List.range 8).map fun k => (k, 0x8001) }) 5 0xC5000000) 6 1024
/-- Eight sectors of the pool of context 1, in one row of the stack of tile 0. -/
def tPool : State := t0.modTile 0 fun t => { t with fsm := (List.range 8).map fun k => (8 + k, 0x4001) }

/-- A pool with nothing free, and one with one free row of the tile's own stack. -/
theorem witness_NamelessStorage_pool :
    let free := fun (s : State) (t k : Nat) => (tget 0 (s.tileAt t).fsm k).toNat / 2 ^ 14 = 1 ∧ (tget 0 (s.tileAt t).fsm k).toNat % 4096 = (iss s).g.ctx
    let fits := fun (s : State) (n t k : Nat) => t < 20 ∧ s.partOf t = s.partOf (iss s).tile ∧ k % 8 + n ≤ 8 ∧ ∀ j < n, free s t (k + j)
    (∀ n, 0 < n → ∀ t k, ¬ fits t0 n t k) ∧ (∀ n ≤ 8, fits tPool n 0 8) ∧ (iss tPool).tile = 0 := by
  refine ⟨fun n hn t k h => ?_, by decide +kernel, by decide +kernel⟩
  have hf := (by decide +kernel : ∀ t < 20, (t0.tileAt t).fsm = []) t h.1
  have h1 := (h.2.2.2 0 hn).1
  simp [hf, tget] at h1

/-- Chunks of 128 and of 512 bytes; a RELQ of no names, and one of 1,024 bytes of names. -/
theorem witness_NamelessStorage :
    let legal := fun (s : State) (i : Iss) (n : Addr) (c : Nat) =>
      let live := fun (x : Nat) => x / 1024 % 2 ^ 15 = 0 ∧ x / 2 ^ 51 % 32 < 20 ∧ s.partOf (x / 2 ^ 51 % 32) = s.partOf i.tile ∧
        (s.fsmAt (namePa x)).toNat / 2 ^ 14 = 2 ∧ (s.fsmAt (namePa x)).toNat % 4096 = i.g.ctx
      n = 0 ∨ (bitsOf n 63 56 = 0xC5 ∧ (c = 128 ∨ c = 256 ∨ c = 512 ∨ c = 1024) ∧ bitsOf n 9 0 % 128 = 0 ∧ bitsOf n 9 0 + c ≤ 1024 ∧
        ∀ j < c / 128, live (n.toNat + 128 * j))
    (∀ s ∈ [t0, tPool], canonB s = true ∧ s.tiles.length = 20 ∧ (∀ y ∈ s.tiles, ∀ e ∈ y.fsm, e.1 < 2 ^ 29) ∧ ∀ w ∈ [1, 3],
      let u : Uses := { reads := [(8, 2 ^ w)], writes := [(2, 2)], preds := [1], p6 := false }
      readyB s u = true ∧ plainB (iss s) u = true ∧ 128 ≤ (iss s).g.grant * 4 * 2 ^ w ∧ (iss s).g.grant * 4 * 2 ^ w ≤ 1024) ∧
    canonB t0 = true ∧ readyB t0 { guard := false, p6 := false } = true ∧
    (let u : Uses := { reads := [(4, 2), (6, 1)], p6 := false }
     ∀ s ∈ [t0, tName], readyB s u = true ∧ canonB s = true ∧ s.tiles.length = 20 ∧
        ∀ l ∈ (iss s).lanes, legal s (iss s) ((iss s).rd2 4 l) ((iss s).rd 6 0 l).toNat) := by
  decide +kernel

/-- PGREQ of a page that maps nothing, for an object at offset 0. -/
theorem witness_PageAndRowRequests :
    let s := setV t0 5 0x40
    let i := iss s
    let u : Uses := { reads := [(4, 2), (6, 1)], from_ := lowAt 1, writes := [(2, 1)] }
    ∃ ps v, Ready s i u ∧ Canonical s ∧ Plain i u ∧
      i.lanes.foldl (fun (acc : List (Nat × Nat × Nat) × State) l =>
        let (r, s) := pgreqLane acc.2 i l (i.rd2 4 l)
        (acc.1 ++ r.toList, s)) ([], counted s i u) = (ps, v) ∧
      (i.rd 6 0 i.low).toNat % 8 = 0 ∧ (i.rd 6 0 i.low).toNat + 8 ≤ i.b.scrSize ∧
      (∀ l ∈ i.lanes, 65536 ≤ (i.rd2 4 l).toNat ∧ (i.rd2 4 l).toNat < 2 ^ 56) ∧
      (s.recs.filter fun r => r.core == i.g.core && !r.written).length + (dedup ps).length ≤ 64 ∧ (dedup ps).length = 1 :=
  ⟨_, _, ready_of (by decide +kernel), canonical_of (by decide +kernel), plain_of (by decide +kernel), pair2_eta _, by decide +kernel⟩

/-- RZERO of one row and RCOPY of one row onto itself. -/
theorem witness_PageAndRowRequests_rows :
    let s := setV (setV (setV t0 5 16) 7 16) 8 1
    let i := iss s
    let dst := i.rd2 4 i.low
    let src : Addr := i.rd 4 3 i.low ++ i.rd 4 2 i.low
    let global := fun (x : Addr) => x.toNat % 1024 = 0 ∧ globalFault x = none
    ∀ n ∈ [2, 4],
      let u : Uses := { reads := [(4, n), (8, 1)], from_ := fromLow, writes := [(2, 1)], p6 := false }
      let l := if n = 2 then [(dst + BitVec.ofNat 64 (1024 * 0), Acc.write)] else
        [(dst + BitVec.ofNat 64 (1024 * 0), Acc.write), (src + BitVec.ofNat 64 (1024 * 0), Acc.read)]
      ∃ rs v qs, Ready s i u ∧ Plain i u ∧ ((i.rd 8 0 i.low).toNat = 1 ∧ global dst ∧ global src) ∧
        l.foldl (fun (acc : List (Bool × LaneChk) × State) q =>
          let (r, s) := acc.2.rowAt i q.1 q.2
          (acc.1 ++ [(q.2 == .write, r)], s)) ([], (counted s i u).settleStp i.g.core) = (rs, v) ∧ gatherRows rs i.low v = .ok qs v := by
  intro s i dst src global n hn
  have h := hn
  simp only [List.mem_cons, List.not_mem_nil, or_false] at h
  obtain rfl | rfl := h <;>
    exact ⟨_, _, _, ready_of (by decide +kernel), plain_of (by decide +kernel), by decide +kernel, pair2_eta _, gatherRows_ok (by decide +kernel)⟩


/-- The largest scratchpad, with a value in each of registers 4 to 7. -/
def tMat (a b c d : Word) : State := setV (setV (setV (setV (onB t0 fun x => { x with scrSize := 0x100000 }) 4 a) 5 b) 6 c) 7 d

/-- WLOAD of both formats and WLOAD.t at the end of the scratchpad; the streams with 1,024 rows; WSWAP; GANG of 0 and of two groups. -/
theorem witness_MatrixQueue :
    let ul : Uses := { reads := [(4, 2)], from_ := fromLow, plain := [(2, 1)], writes := [(2, 1)], guard := false }
    let us := fun (extra : List (BitVec 7 × Nat)) (p6 : Bool) =>
      ({ reads := (4, 4) :: extra, from_ := fromLow, plain := [(2, 1)], writes := [(2, 1)], guard := false, p6 := p6 } : Uses)
    let ug : Uses := { reads := [(4, 1)], from_ := fromLow, guard := false, p6 := false }
    let inScratch := fun (s : State) (x n : Nat) => x + n ≤ 0x100000 ∧ x + n ≤ (iss s).b.scrSize
    let q := fun (s : State) (u : Uses) => readyB s u = true ∧ plainB (iss s) u = true ∧ (s.imat (iss s)).queue.length < 16 ∧
      (iss s).g.gang = 0 ∧ (s.imat (iss s)).latch = []
    (let s := tMat 0xFE801 0 0 0
     q s ul ∧ ((iss s).rd 4 0 (iss s).low).toNat = 0xFE801 ∧ inScratch s 0xFE800 6144) ∧
    (let s := tMat 0xFC000 0xFBC00 0 0
     q s ul ∧ 0xFC000 % 128 = 0 ∧ 0xFBC00 % 128 = 0 ∧ inScratch s 0xFC000 16384 ∧ inScratch s 0xFBC00 1024) ∧
    (let s := tMat 0 0x20000 1024 0
     q s (us [] true) ∧ q s (us [(8, 1)] false) ∧ ((iss s).rd 4 2 (iss s).low).toNat = 1024 ∧ inScratch s 0 (128 * 1024) ∧
       inScratch s 0x20000 (8 * 1024)) ∧
    readyB t0 { guard := false } = true ∧ (t0.imat (iss t0)).queue.length < 16 ∧ readyB t0 ug = true ∧ (iss t0).rd 4 0 (iss t0).low = 0 ∧
    (let s := tMat 0x02000010 0 0 0
     let g := (iss s).rd 4 0 (iss s).low
     let n := g.toNat / 2 ^ 24 % 8
     let slots := (List.range n).map fun k => g.toNat / 16 ^ k % 16
     readyB s ug = true ∧ g.toNat < 2 ^ 27 ∧ 2 ≤ n ∧ n ≤ 6 ∧ slots.Nodup ∧ (iss s).g.slot ∈ slots ∧ g.toNat % 2 ^ 24 < 16 ^ n) := by
  decide +kernel

/-- Rows 1008 to 1023 and the last columns; the scratchpad forms at its end; tokens that are and are not held. -/
theorem witness_Accumulators :
    let uz : Uses := { reads := [(4, 1)], from_ := fromLow, guard := false }
    let ul := fun (k : Nat) => ({ reads := [(4, 1)], from_ := fromLow, plain := [(8, k)], writes := [(8, k)] } : Uses)
    let us := fun (k : Nat) => ({ reads := [(4, 1), (8, k)], dsrc := true, from_ := lowAt 0 } : Uses)
    let ub : Uses := { reads := [(4, 1), (6, 1)], from_ := fromLow }
    (let s := tMat (0x00100000 + 1008) 0 0xFE800 0
     let v := ((iss s).rd 4 0 (iss s).low).toNat
     canonB s = true ∧ readyB s uz = true ∧ readyB s ub = true ∧ v / 2 ^ 10 % 64 = 0 ∧ v / 2 ^ 27 = 0 ∧ v / 2 ^ 16 % 2048 = 16 ∧ v % 1024 + 16 ≤ 1024 ∧
       (s.imat (iss s)).queue = [] ∧ 0xFE800 % 128 = 0 ∧ 0xFE800 + 384 * 16 ≤ 0x100000 ∧ 0xFE800 + 384 * 16 ≤ (iss s).b.scrSize ∧
       (∀ k ∈ s.cores, ∀ q ∈ k.reqs, q.block ≠ (iss s).b.id) ∧ (iss s).b.absent = [] ∧ (iss s).b.spoison = [] ∧ (iss s).b.unfenced = [] ∧
       (s.imat (iss s)).accPoison = []) ∧
    (∀ k ∈ [1, 8],
      let s := tMat (BitVec.ofNat 32 ((96 - k) * 65536) + 1008) 0 0 0
      let v := ((iss s).rd 4 0 (iss s).low).toNat
      readyB s (ul k) = true ∧ plainB (iss s) (ul k) = true ∧ readyB s (us k) = true ∧ v / 2 ^ 10 % 64 = 0 ∧ v / 2 ^ 23 = 0 ∧ v / 2 ^ 16 % 128 + k ≤ 96 ∧
        (∀ l ∈ (iss s).lanes, v % 1024 + l ≤ 1023) ∧ ∀ l ∈ (iss s).lanes ++ lanesOf (iss s).wr 16,
          ((s.imat (iss s)).queuedRows.contains (v % 1024 + l) || decide (1023 < v % 1024 + l) ||
            (List.range k).any fun j => (s.imat (iss s)).accPoison.contains (96 * (v % 1024 + l) + v / 2 ^ 16 % 128 + j)) = false) ∧
    readyB t0 { guard := false } = true ∧ readyB t0 uz = true ∧ (∀ q ∈ (t0.imat (iss t0)).queue, (iss t0).rd 4 0 (iss t0).low ∉ q.tokens) ∧
    (iss t0).rd 4 0 (iss t0).low ∉ (t0.imat (iss t0)).badTokens := by
  decide +kernel

/-- An operation with a token. -/
def tOp (k : MatKind) (token : Word) (started : Bool) : MatOp :=
  { id := 0, kind := k, block := 0, tokens := [token], started := started, undef := false, bad := false, row := 0, plane := none, undefRows := [], mix := [], stalled := [] }

theorem witness_Accumulators_held :
    let op := tOp .wswap 0 false
    let s := t0.setMat { t0.imat (iss t0) with queue := [op] }
    Ready s (iss s) { reads := [(4, 1)], from_ := fromLow, guard := false } ∧ ∃ q ∈ (s.imat (iss s)).queue, (iss s).rd 4 0 (iss s).low ∈ q.tokens :=
  ⟨ready_of (by decide +kernel), by decide +kernel⟩

/-- Words of code from offset 0 on, with a list word for the offset 0 at 8, and a stack depth of 8. -/
def tCode : State :=
  { onB t0 fun b => { b with depth := 8 } with mem := wrBytes (wrBytes t0.mem 4 (leBytes 4 0xFC000000)) 8 (leBytes 4 0xF8000000) }

theorem tableGot_is {s : State} {i : Iss} {n : Nat} {r : Word × List Word}
    (h : (match tableTargets s i n with | .ok x => x == r | .error _ => false) = true) : tableTargets s i n = .ok r := by
  cases hc : tableTargets s i n <;> simp_all

theorem witness_BranchResults :
    let ub : Uses := { preds := [1], psrc := [1], guard := false }
    let i := iss tCode
    (∀ u ∈ [ub, { guard := false }], Ready tCode i u) ∧ i.act &&& i.g.pred 1 = 0 ∧ i.act &&& ~~~i.g.pred 1 ≠ 0 ∧
    tCode.runStart i (i.pc + 4 * (0 : BitVec 22).signExtend 32) = none ∧
    (∀ l ∈ lanesOf (i.act &&& ~~~i.g.pred 1) i.g.grant, (i.g.threadAt l).stack.length < i.b.depth) ∧
    (∀ v ∈ [tCode, tCode.look i (tCode.callWords i (i.pc + 4 * (0 : BitVec 22).signExtend 32))],
      (match v.trailer i with | .ok at_ => at_ == 4 && (match v.pastList i 128 (at_ + 4) with | .ok ret => ret == 12 | _ => false) | _ => false) = true) :=
  ⟨readies_of (by decide +kernel), by decide +kernel⟩

theorem witness_BranchResults_table :
    let i := iss tCode
    let ut : Uses := { reads := [(4, 1)], guard := false, ahead := fun i => tableWords tCode i 1 }
    ∃ ret ts, Ready tCode i ut ∧ tableTargets tCode i 1 = .ok (ret, ts) ∧ tableTargets (counted tCode i ut) i 1 = .ok (ret, ts) ∧
      (∀ l ∈ i.lanes, (i.rd 4 0 l).toNat < 1) ∧ ∀ l ∈ lanesOf i.act i.g.grant, (i.g.threadAt l).stack.length < i.b.depth :=
  ⟨12, [0], ready_of (by decide +kernel), tableGot_is (by decide +kernel), tableGot_is (by decide +kernel), by decide +kernel⟩

theorem witness_BranchResults_ret :
    let s := onG tCode fun g => { g with threads := g.threads.map fun t => { t with stack := [8] } }
    Ready s (iss s) { guard := false } ∧ ∀ l ∈ (iss s).lanes, ∃ x xs, ((iss s).g.threadAt l).stack = x :: xs ∧ x ≠ 0xFFFFFFFF := by
  refine ⟨ready_of (by decide +kernel), ?_⟩
  have h : ∀ l ∈ (iss (onG tCode fun g => { g with threads := g.threads.map fun t => { t with stack := [8] } })).lanes,
      ((iss (onG tCode fun g => { g with threads := g.threads.map fun t => { t with stack := [8] } })).g.threadAt l).stack = [8] := by
    decide +kernel
  exact fun l hl => ⟨8, [], h l hl, by decide⟩

theorem witness_ThreadControl :
    let i := iss tCode
    let uw : Uses := { reads := [(6, 1)], dsrc := true, guard := false, p6 := false, ahead := fun i => i.startWords (i.pc + 4 * (0 : BitVec 14).signExtend 32) }
    (∀ u ∈ [({ guard := false } : Uses), uw], Ready tCode i u) ∧
    tCode.runStart i (i.pc + 4 * (0 : BitVec 14).signExtend 32) = none ∧ ∀ l ∈ i.lanes, (i.g.threadAt l).stack.length < i.b.depth :=
  ⟨readies_of (by decide +kernel), by decide +kernel⟩

/-- The whole group, and the eight lanes that a guard leaves. -/
theorem witness_ExitResults :
    let s := onG t0 fun g => { g with preds := [0xFF], pfx := { g.pfx with guard := some (0, 0) } }
    (∀ t ∈ [t0, s], readyB t {} = true ∧ t.groupAt (iss t).g.core (iss t).g.part (iss t).g.slot = some (iss t).g ∧
      (∀ b ∈ t.blocks, ∀ r ∈ b.roles, r.coll = []) ∧ (∀ g ∈ t.groups, g.status ≠ .parked .claim) ∧ (iss t).g.trap = none) ∧
    (iss t0).g.liveMask &&& ~~~(iss t0).act = 0 ∧ (iss s).g.liveMask &&& ~~~(iss s).act ≠ 0 := by
  decide +kernel

/-- A block with a trap handler and 64 bytes of private memory; with and without a debugger. -/
def tTrap (dbg : Option Bool) : State := (onB t0 fun b => { b with trapEnt := some 0x100, privSize := 64 }).modCtx 1 fun c => { c with dbg := dbg }

theorem witness_TrapEntry :
    let u : Uses := { guard := false }
    let ok := fun (s : State) => readyB s u = true ∧ canonB s = true ∧ s.groupAt (iss s).g.core (iss s).g.part (iss s).g.slot = some (iss s).g ∧
      (iss s).g.trap = none ∧ (iss s).b.privSize + 128 ≤ 2 ^ 17
    ok (tTrap none) ∧ (iss (tTrap none)).b.trapEnt = some 0x100 ∧ (tTrap none).debugged 1 = false ∧
    ok (tTrap (some false)) ∧ (tTrap (some false)).debugged 1 = true ∧ ok t0 ∧ t0.debugged 1 = false ∧ (iss t0).b.trapEnt = none := by
  decide +kernel

/-- A group in its handler, entered at offset 0 by all its lanes, or by one lane of the group more than executes TRET. -/
def tTret (one : Bool) : State :=
  onG (tTrap none) fun g => { g with
    threads := g.threads.map fun t => { t with trapfp := 64 }
    iset := if one then 1 else g.iset
    trap := some ⟨0xFFFF, List.replicate 16 0, List.replicate 16 0, List.replicate 16 1, 0x48, []⟩ }

theorem witness_TrapReturn :
    let u : Uses := { guard := false }
    ∀ one ∈ [false, true],
      let s := tTret one
      let i := iss s
      let tr : Trap := ⟨0xFFFF, List.replicate 16 0, List.replicate 16 0, List.replicate 16 1, 0x48, []⟩
      let g := i.g.modThreads i.act fun t => { t with wait := .tret }
      readyB s u = true ∧ s.groupAt i.g.core i.g.part i.g.slot = some i.g ∧ i.g.trap = some tr ∧ (∀ l ∈ i.lanes, (i.g.threadAt l).trapfp ≠ 0) ∧
        g.trapOver = !one ∧ (∀ l ∈ lanesOf tr.entered i.g.grant, tr.tkinds.getD l 0 ≠ 4) ∧ tr.held = [] ∧ s.homeq = [] ∧
        let j : Iss := { i with g := g }
        let w := s.awaitAcks i.g.ctx
        let ls := (lanesOf tr.entered i.g.grant).filter fun l => (i.g.threadAt l).live
        let v := w.look j ((ls.map fun l => match w.resumeAt j tr l with | some (o, none) => i.startWords o | _ => []).flatten)
        ∀ l ∈ ls, (s.resumeAt j tr l).isSome = true ∧ (v.resumeAt j tr l).isSome = true := by
  decide +kernel

/-- An arrival that leaves a phase open, and one of 16 threads that completes it, at a block's last and a cluster's last barrier. -/
theorem witness_BarrierResults :
    let u : Uses := { reads := [(4, 1)], dsrc := true, from_ := fromLow, guard := false }
    ∀ q ∈ [((0 : Word), false, 15), (16, false, 15), (0, true, 7), (16, true, 7)],
      let s := setV t0 4 q.1
      let i := iss s
      let b := s.barAt i q.2.1 q.2.2
      let new := i.lanes.map (i.party q.2.1)
      let live := if q.2.1 then s.liveOfCluster i.b.cluster else s.liveOf i.b
      readyB s u = true ∧ s.groupAt i.g.core i.g.part i.g.slot = some i.g ∧ new.Nodup ∧ q.1.toNat ≤ i.b.threads * (if q.2.1 then i.b.csize else 1) ∧
        (∀ t ∈ new, t ∉ b.opens) ∧ b.arrived = 0 ∧ (∀ l ∈ i.lanes, (i.g.threadAt l).wait = .none) ∧
        (if q.2.1 then (s.clusters.any fun y => y.id == i.b.cluster && decide (q.2.2 < y.bars.length)) = true else q.2.2 < i.b.bars.length) ∧
        if q.1 = 0 then ∃ t ∈ live, t ∉ b.opens ++ new else b.arrived + new.length = q.1.toNat := by
  decide +kernel

theorem witness_BarrierResults_wait :
    Ready t0 (iss t0) { guard := false } ∧ t0.groupAt (iss t0).g.core (iss t0).g.part (iss t0).g.slot = some (iss t0).g ∧
    (∀ l ∈ (iss t0).lanes, ((iss t0).g.threadAt l).wait = .none) ∧ ∀ l ∈ (iss t0).lanes, ((iss t0).g.threads[l]?).isSome = true :=
  ⟨ready_of (by decide +kernel), by decide +kernel⟩

/-- One group of the role alone, unlocked or locked, with spare registers on its partition; and four groups of which one arrives. -/
def tRole (locked : Bool) : State :=
  onB { t0 with groups := t0.groups.take 1 } fun b => { b with
    roles := [{ placeRole with locked := locked, allot := 128 }], spare := [2048, 0, 0, 0] }

theorem witness_CollectiveResults :
    let u : Uses := { guard := false, p6 := false }
    let arrived := fun (s : State) (x : Instr) (g : Group) => ∀ l ∈ lanesOf g.liveMask g.grant,
      ∃ e ∈ (iss s).r.coll ++ (iss s).lanes.map (fun l => ((iss s).thread l, x)), e.1 = g.thread (iss s).b l
    let on := fun (s : State) (p : Nat) =>
      ((s.groups.filter fun g => g.block == (iss s).b.id && g.role == (iss s).g.role && g.part == p).map Group.grant).sum
    (readyB t0 u = true ∧ ∃ g ∈ t0.groups, g.block = (iss t0).b.id ∧ g.role = (iss t0).g.role ∧ ¬ arrived t0 .wlock g) ∧
    (∀ k ∈ [false, true], readyB (tRole k) u = true ∧ (∀ g ∈ (tRole k).groups, arrived (tRole k) .wlock g) ∧ (iss (tRole k)).r.coll = [] ∧
      (iss (tRole k)).r.locked = k) ∧
    (let i := iss (tRole false)
     (128 : BitVec 8).toNat % 8 = 0 ∧ i.r.allot + 128 ≤ 256 ∧ (∀ p < 4, 128 * on (tRole false) p ≤ i.b.spare.getD p 0) ∧
       120 + ((i.b.depth + 7) / 8 * 8 + 8) ≤ i.r.allot ∧ i.r.minW ≤ 16 ∧
       (∀ g ∈ (tRole false).groups, ∀ v ∈ g.regs, (match v with | .px _ _ => false | .val _ => true) = true)) := by
  decide +kernel

theorem witness_CollectiveResults_width :
    let s := tRole false
    let i := iss s
    (s.homeq = [] ∧ s.rowops = [] ∧ (∀ k ∈ s.cores, k.answers = [] ∧ k.stns = []) ∧ (∀ g ∈ s.groups, g.grant = i.g.grant ∧ g.liveMask ≠ 0) ∧
      (s.groups.map Group.gix).Nodup) ∧
    (grantRole (s.coreAt i.b.core).maxG { i.r with coll := i.r.coll ++ i.lanes.map fun l => (i.thread l, .width 0) } 16
      ((List.range 4).map ((onlyGroup s i fun g => ((g.modThreads i.act fun t => { t with wait := .coll }).tailAt g.iset).endSet).partUse i.b.core i.b.id
        fun g => g.block == i.b.id && g.role == i.g.role))).isSome = true := by
  decide +kernel

theorem witness_SpecialReads : Ready t0 (iss t0) { writes := [(2, 1)], guard := false } ∧ Plain (iss t0) { writes := [(2, 1)], guard := false } :=
  ⟨ready_of (by decide +kernel), plain_of (by decide +kernel)⟩

theorem witness_SpecialWrites :
    let u := fun (p6 : Bool) => ({ reads := [(4, 1)], dsrc := true, from_ := fromLow, guard := false, p6 := p6 } : Uses)
    let um : Uses := { reads := [(4, 1)], dsrc := true, guard := false, ahead := fun i =>
      (i.lanes.map fun l => if i.rd 4 0 l = 0xFFFFFFFF then [] else i.startWords (i.rd 4 0 l)).flatten }
    (∀ w ∈ [u true, u false, um], Ready t0 (iss t0) w) ∧ (iss t0).rd 4 0 (iss t0).low = 0 ∧ t0.cores.length = 80 ∧
    (∀ l ∈ (iss t0).lanes, (counted t0 (iss t0) um).runStart (iss t0) ((iss t0).rd 4 0 l) = none) ∧
    (∀ l ∈ (iss (setV t0 4 0xFFFFFFFF)).lanes, (iss (setV t0 4 0xFFFFFFFF)).rd 4 0 l = 0xFFFFFFFF) :=
  ⟨readies_of (by decide +kernel), by decide +kernel⟩

theorem witness_RunWords :
    t0.issuer = some (iss t0).g ∧ t0.issueCtx = some (iss t0) ∧ (iss t0).prefixFault { guard := false } = none :=
  ⟨by decide +kernel, issueCtx_iss (by decide +kernel), by decide +kernel⟩

/-- A launch record of one block, with no wait word, at offset 0 of the scratchpad. -/
def tLaunch : State := onB t0 fun b => { b with scratch := [(0, 16), (32, 1), (36, 1), (38, 1), (40, 1)] }

/-- An empty queue, one of 64 launches, and the second core cycle of a base-die cycle. -/
theorem witness_LaunchResults :
    let u : Uses := { reads := [(4, 1)], dsrc := true, from_ := fromLow, preds := [1], guard := false }
    let i := iss tLaunch
    let r := rdBytes i.b.scratch 0 64
    let l : Launch := { id := 7, ctx := 1, tile := 0, prio := 0, seq := 0, record := [], digest := none, state := .waiting, header := [], next := 0,
                        total := 0, ended := 0, boosted := 0, hold := false, readyAt := 0, movedAt := 0, src := 0, cyc := 0 }
    let full : State := { tLaunch with launches := List.replicate 64 l }
    let odd := tLaunch.modCore 0 fun k => { k with cyc := 1 }
    readyB tLaunch u = true ∧ (i.rd 4 0 i.low).toNat = 0 ∧ 0 + 64 ≤ i.b.scrSize ∧ i.b.absentOf [0] = [] ∧ malformedLaunch r = false ∧
    (tLaunch.launches.filter fun l => l.tile == i.g.core / 4 && l.prio == launchPrio r).length < 64 ∧ (∀ l ∈ tLaunch.launches, l.id ≠ tLaunch.nextId) ∧
    (launchCtl r).getLsbD 2 = false ∧ readyB full u = true ∧ (tLaunch.ctxAt 1).isSome = true ∧ (full.coreAt 0).cyc % 2 = 0 ∧
    (tLaunch.coreAt 0).cyc % 2 = 0 ∧ readyB odd u = true ∧ (odd.coreAt 0).cyc % 2 = 1 ∧
    64 ≤ (full.launches.filter fun l => l.tile == (iss full).g.core / 4 && l.prio == launchPrio r).length := by
  decide +kernel

/-- A free counter unit, one of the context's own, and one of the physical function. -/
theorem witness_CounterResults :
    let uc : Uses := { reads := [(4, 1)], dsrc := true, from_ := fromLow, preds := [1], guard := false }
    let ur : Uses := { writes := [(2, 1)], guard := false }
    let um : Uses := { reads := [(4, 1)], dsrc := true, from_ := fromLow, guard := false }
    let ref : UnitRef := ⟨false, 0, 0⟩
    let own := t0.setUnit { t0.unitAt ref with owner := .ctx 1 }
    let pf := t0.setUnit { t0.unitAt ref with owner := .pf }
    (∀ s ∈ [t0, own, pf], readyB s uc = true ∧ 0 % 32 = 0 ∧ 0 + 32 ≤ (iss s).b.scrSize ∧ (iss s).b.absentOf [0] = [] ∧
      unitRecordOk ref false (rdBytes (iss s).b.scratch 0 32) = true ∧ readyB s ur = true ∧ plainB (iss s) ur = true ∧ readyB s { guard := false } = true) ∧
    (t0.unitAt ref).owner = .free ∧ (own.unitAt ref).owner = .ctx 1 ∧ (own.unitAt ref).pend = none ∧ (pf.unitAt ref).owner ≠ .free ∧
    (pf.unitAt ref).owner ≠ .ctx 1 ∧ readyB t0 um = true ∧ (t0.unitAt ⟨false, 0, 4⟩).owner ≠ .ctx 1 := by
  decide +kernel

/-- The group of partition 0 of core 0, looked at again: eligible. -/
def tSel : State := onG t0 fun _ => placeGroup 0

/-- What a group that a statement finds at ⟨0, 0, 0⟩ may be. -/
theorem witness_SchedulerEvents :
    let is := fun (s : State) => s.groupAt 0 0 0 = some (iss t0).g
    let quiet := fun (s : State) => ∀ h ∈ s.groups, h.core = 0 ∧ h.part = 0 → (match h.status with | .parked _ => false | _ => true) = true
    is t0 ∧ quiet t0 ∧ (∃ h ∈ t0.groups, (h.core = 0 ∧ h.part = 0) ∧ h.status = .issuing) ∧
    (tSel.groupAt 0 0 0 = some (placeGroup 0) ∧ quiet tSel ∧
      (∀ h ∈ tSel.groups, h.core = 0 ∧ h.part = 0 → h.status ≠ .issuing ∧ h.resumed = none) ∧ tSel.damped 0 = false ∧
      tSel.selectable (placeGroup 0) = true ∧ (placeGroup 0).candidates ≠ [] ∧
      ∀ h ∈ tSel.groups, h.core = 0 ∧ h.part = 0 → tSel.selectable h = true → h = placeGroup 0 ∨ (h.slot ≠ 0 ∧ h.cls < (placeGroup 0).cls)) ∧
    (let g := { placeGroup 0 with cont := true }
     (onG t0 fun _ => g).groupAt 0 0 0 = some g ∧ (onG t0 fun _ => g).selectable g = true) := by
  decide +kernel

/-- A group skipped 64 times; one in a gap that is over; one that awaits register 5; one whose nap is over; one of which lanes are held, past their time. -/
theorem witness_SchedulerEvents_timers :
    let held := { placeGroup 0 with timers := [(0, 1)], threads := (List.range 16).map fun l => { (placeGroup 0).threadAt l with meet := 0, pc := if l = 0 then 4 else 0 } }
    let late := { tSel with cores := modAt tSel.cores 0 fun k => { k with cyc := 9 } }
    64 ≤ { placeGroup 0 with skip := 64 }.skip ∧
    ({ placeGroup 0 with status := .gapped 4 [5] }.status = .gapped 4 [5] ∧ 4 ≤ (late.coreAt 0).cyc) ∧
    { placeGroup 0 with status := .awaiting [5], sb := [(5, Pend.handle)] }.status = .awaiting [5] ∧
    { placeGroup 0 with status := .parked (.nap 4) }.status = .parked (.nap 4) ∧
    ((onG late fun _ => held).groupAt 0 0 0 = some held ∧ (0, 1) ∈ held.timers ∧ 1 ≠ 0 ∧ 1 < ((onG late fun _ => held).coreAt 0).cyc ∧ held.grant ≤ 64 ∧
      ∃ l < held.grant, held.held l = true ∧ (held.threadAt l).meet = 0) := by
  decide +kernel

/-- One operation sent to home 3 of core 0's context, whose handle 7 names a slot there with some references. -/
def tHome (k : HomeKind) (refs : Nat) : State :=
  { t0 with
    homeq := [⟨3, 0, 1, 0, k⟩]
    slots := [{ home := 3, ctx := 1, core := 0, handle := 7, refs := refs, lanes := List.replicate 64 5, poison := 0 }] }

/-- One operation of each kind, which is the home's next; and of two cores' operations the one whose turn it is. -/
theorem witness_HomeEvents :
    let v := HomeSrc.vals (List.replicate 64 9)
    (∀ k ∈ [HomeKind.make 8 .iadd v (.slot 3 7) .none .none 0xFFFF, .load 8 [(0, 0x30000), (1, 0x30004)] v 3, .store [(0, 0x30000), (1, 0x30004)] [0x30000] 7,
      .compare 2 0 v (.slot 3 7) 0xFFFF 0 0 1, .bring 7 0xFFFF 0 0 4, .ref 7, .release 7], ∀ r ∈ [1, 2],
      let s := tHome k r
      let o : HomeOp := ⟨3, 0, 1, 0, k⟩
      s.power = .ready ∧ s.nextWork 3 = some (0, 0) ∧ s.homeq[0]? = some o ∧ .homeLanes 3 ∉ (s.tileAt (3 / 256)).gated ∧ 0 < s.cores.length ∧
        tableOk 0 0 s.turns = true ∧ s.mem.wf = true ∧ (s.slotAt 3 0 1 7).map Slot.refs = some r) ∧
    (∀ l < 64, (3 : Mask).getLsbD l = true ↔ l ∈ [0, 1]) ∧ ([(0, 0x30000), (1, 0x30004)].map Prod.fst).Nodup ∧
    ([(0, 0x30000), (1, 0x30004)].Pairwise fun (x y : Nat × Nat) => x.2 + 4 ≤ y.2 ∨ y.2 + 4 ≤ x.2) ∧
    ∀ turn ∈ [0, 1, 5],
      let s := { tHome (.load 8 [(0, 0x30000)] v 1) 1 with
        turns := if turn = 0 then [] else [(3, turn)], homeq := [⟨3, 0, 1, 0, .load 8 [(0, 0x30000)] v 1⟩, ⟨3, 1, 1, 0, .load 8 [(0, 0x30000)] v 1⟩] }
      let w := if turn = 1 then (1, 1) else (0, 0)
      w ∈ s.homeWork 3 ∧ s.homeWork 3 = [(0, 0), (1, 1)] ∧ tget 0 s.turns 3 < 6 ∧
        ∀ y ∈ s.homeWork 3, y ≠ w → (w.1 + 6 - tget 0 s.turns 3) % 6 < (y.1 + 6 - tget 0 s.turns 3) % 6 := by
  decide +kernel

/-- An answer for register 4, one for predicate 1, and an acknowledgement. -/
theorem witness_HomeEvents_answers :
    let s := { t0 with
      cores := modAt t0.cores 0 fun k => { k with
        answers := [⟨0, 0, 4, 0xFF, none, List.replicate 64 7⟩, ⟨0, 0, 1, 0xFF, some 0x55, []⟩], acks := [(3, 1)] } }
    (s.coreAt 0).answers = [⟨0, 0, 4, 0xFF, none, List.replicate 64 7⟩, ⟨0, 0, 1, 0xFF, some 0x55, []⟩] ∧ (s.coreAt 0).acks = [(3, 1)] ∧
    s.groupAt 0 0 0 = some (iss t0).g ∧ (iss t0).g.regs[4]? = some (.val (List.replicate 16 0)) ∧ tableOk 0 0 (s.acct 0 1).used = true := by
  decide +kernel

/-- The matrix queue of the issuing group's partition, with a BF16 active plane or a C8 one. -/
def tQueue (bf : Bool) (q : List MatOp) : State :=
  t0.setMat { t0.imat (iss t0) with queue := q, active := { (t0.imat (iss t0)).active with bf16 := bf, data := [(0, 0x3F)] } }
/-- A ready package with n operations queued at partition 0 of core 0, no gang on its way, and every block held. -/
def matReady (s : State) (n : Nat) : Bool :=
  s.power == .ready && (s.matAt 0 0 1).isSome && (s.mat 0 0 1).latch.isEmpty && (s.mat 0 0 1).waiting.isEmpty &&
    (s.blocks.all fun b => s.groups.any fun g => g.block == b.id) && (s.mat 0 0 1).queue.length == n && s.blockAt 0 == s.blocks.head?
/-- The state with one line of its block absent. -/
def tGone (s : State) (l : Nat) : State := onB s fun b => { b with absent := [l] }

/-- A stream that may start, behind a load that stalls; a swap at the head; loads of both formats. -/
theorem witness_MatrixEvents :
    (let q := [tOp (.wload false true 0 512 0) 2 false, tOp (.stream 1 [⟨0, 0, 0, 2, 5⟩] 0 0) 1 false]
     let s := tGone (tQueue true q) 4
     matReady s 2 = true ∧ s.canStart (s.mat 0 0 1) 1 = true ∧ (∀ j < 1, s.canStart (s.mat 0 0 1) j = false) ∧ mayStart q 0 = true ∧
       s.newStalls (tOp (.wload false true 0 512 0) 2 false) = [4] ∧ .matrix 0 0 ∉ (s.tileAt (0 / 4)).gated) ∧
    matReady (tQueue true [tOp .wswap 1 false]) 1 = true ∧
    ∀ tr ∈ [false, true], ∀ bf ∈ [false, true], let o := tOp (.wload tr bf 0 0 0) 1 true
      matReady (tQueue bf [o]) 1 = true ∧ o.mix = [] ∧ o.started = true := by
  decide +kernel

/-- Passes of each function over three rows: of all, and of the rows before one whose line is absent. -/
theorem witness_MatrixEvents_passes :
    ∀ fn ∈ [0, 1, 2], ∀ last ∈ [2, 3],
      let oc := if fn = 2 then 1 else 0
      let o := tOp (.stream fn [⟨0, 0, 512, 3, 5⟩] 896 oc) 1 true
      let s := if last = 3 then tQueue (fn == 1) [o] else tGone (tQueue (fn == 1) [o]) (if fn = 1 then 1 else 2)
      let m := s.mat 0 0 1
      let row := fun (r : Nat) => rowRanges fn (896, oc) 0 (⟨0, 0, 512, 3, 5⟩, r)
      matReady s 1 = true ∧ (m.active.bf16 = (fn == 1) ∧ m.active.poison = false ∧ m.active.undef = false) ∧ (o.row ≤ last ∧ tableOk 0 0 m.acc = true) ∧
        (∀ r < 3, s.poisonIn (row r) = false) ∧ (∀ r < last, s.absentIn (row r) = []) ∧ (last = 3 ∨ s.absentIn (row last) ≠ []) := by
  decide +kernel

/-- A copy request of 16 bytes between 2^36 and line 0 of the block's scratchpad, bobj at 64. -/
def tReq (out started : Bool) : CopyReq :=
  { block := 0, ctx := 1, gix := 0, gslot := 0, pc := 0, recOff := 0, mem := 0x1000000000, org := [0, 0, 0, 0], bnd := [16, 1, 1, 1],
    str := [0, 0, 0, 0], ext := [16, 1, 1, 1], fill := 0, fmt := 0, out := out, gat := false, scr := 0, glist := [], bobj := 64,
    started := started, paused := false, spoilt := [], objBad := false, left := [0], part := [] }
/-- A request in the copy queue of core 0. -/
def tCopy (r : CopyReq) : State :=
  let s := { t0 with cores := modAt t0.cores 0 fun k => { k with reqs := [r] } }
  if r.out then s else onB s fun b => { b with absent := [0] }

/-- What sending a line does. -/
theorem sendGot_ok {r : CopyReq} (h : ((tCopy r).sendElems 0 r placeBlk 0).1.1 = none) :
    (tCopy r).sendElems 0 r placeBlk 0 = ((none, ((tCopy r).sendElems 0 r placeBlk 0).1.2), ((tCopy r).sendElems 0 r placeBlk 0).2) :=
  Prod.ext (Prod.ext h rfl) rfl

/-- A request that starts, also behind one that has started; a line that lands; a line sent outward. -/
theorem witness_MovementEvents_copy :
    (let r := tReq false false
     let s := tCopy r
     let two := { t0 with cores := modAt t0.cores 0 fun k => { k with reqs := [tReq false true, r] } }
     s.power = .ready ∧ (s.coreAt 0).reqs[0]? = some r ∧ (two.coreAt 0).reqs = [tReq false true, r] ∧ r.started = false ∧
       (tReq false true).started = true ∧ (s.ctxAt r.ctx).map Context.run = some .running) ∧
    (∃ got u, let r := tReq false true
     let bs := got.bytes
     (tCopy r).copyLine 0 r 0 = (got, u) ∧ got.bad.isNone = true ∧
       ((tCopy r).runningReq 0 0 = some r ∧ r.out = false ∧ 0 ∈ r.left ∧ (∀ b ∈ u.blocks, (u.groups.any fun g => g.block == b.id) = true) ∧
       r.objBad = false ∧ u.blockAt r.block = u.blocks.head? ∧ (u.blocks.all fun b => b.scratch.wf) = true ∧ (u.coreAt 0).reqs[0]? = some r ∧
       (bs.map Prod.fst).Nodup ∧ bs.length = 16 ∧
       (∀ e ∈ bs, ∀ k ∈ u.cores, ∀ q ∈ k.reqs, q.block = r.block → e.1 < q.bobj ∨ q.bobj + 8 ≤ e.1) ∧
       ∀ e ∈ r.inLines 0, ∀ k ∈ u.cores, ∀ q ∈ k.reqs, q.block = r.block → e.1 + e.2 ≤ q.bobj ∨ q.bobj + 8 ≤ e.1)) ∧
    (∃ k u, let r := tReq true true
     (tCopy r).sendElems 0 r placeBlk 0 = ((none, k), u) ∧
       ((tCopy r).runningReq 0 0 = some r ∧ r.out = true ∧ (tCopy r).blockAt r.block = some placeBlk ∧
       r.left.find? (fun k => !placeBlk.absent.contains k) = some 0 ∧ (∀ b ∈ u.blocks, (u.groups.any fun g => g.block == b.id) = true) ∧
       (u.coreAt 0).reqs[0]? = some r ∧ r.objBad = false)) :=
  ⟨by decide +kernel, ⟨_, _, rfl, by decide +kernel⟩, ⟨_, _, sendGot_ok (by decide +kernel), by decide +kernel⟩⟩

/-- Write-combining buffers of memory and of the link past their time, and writes in flight: the first of its way, one behind it, and one of the link. -/
theorem witness_MovementEvents_writes :
    let w : InFlight := ⟨0x40000, false, 0, 1, 0, 0, false, false, [1, 2, 3, 4]⟩
    let flying := { t0 with inflight := [w, { w with thread := 1 }, { w with link := true }] }
    let first := fun (n : Nat) (w : InFlight) => ∀ v ∈ flying.inflight.take n,
      tileOf v.core ≠ tileOf w.core ∨ v.link ≠ w.link ∨ (w.link = false ∧ v.addr / 2 ^ 36 ≠ w.addr / 2 ^ 36)
    (∀ link ∈ [false, true],
      let wc : WcBuf := { addr := 0x40000, link := link, vf := 0, ctx := 1, threads := [0], mask := 0xFF, data := List.replicate 128 7, cyc := 0, alloc := false }
      let s := { t0 with
        cores := modAt t0.cores 0 fun k => { k with cyc := 5000, wc := [wc] }, inflight := [{ w with link := !link }, { w with addr := 2 ^ 36 }].take 1 }
      s.power = .ready ∧ (s.coreAt 0).wc[0]? = some wc ∧ wc.cyc + 4096 ≤ (s.coreAt 0).cyc ∧ s.mem.wf = true ∧ s.host.wf = true ∧
        ∀ v ∈ s.inflight, tileOf v.core ≠ tileOf 0 ∨ v.link ≠ wc.link ∨ (wc.link = false ∧ v.addr / 2 ^ 36 ≠ wc.addr / 2 ^ 36)) ∧
    (flying.inflight[0]? = some w ∧ first 0 w ∧ flying.inflight[1]? = some { w with thread := 1 } ∧ ¬ first 1 { w with thread := 1 } ∧
      flying.inflight[2]? = some { w with link := true } ∧ first 2 { w with link := true } ∧ flying.mem.wf = true ∧ flying.host.wf = true) := by
  decide +kernel

/-- A name on its way, relinquished sectors, rows to zero and to copy, a finished row operation, a refresh that waits and one that does not, a sector
and a register that an error strikes. -/
theorem witness_MovementEvents :
    let st : StnPend := ⟨0, 0, 0, 34, 1, 0xFFFF, 0x40⟩
    let rq : Relq := ⟨0, 1, [4096, 4097]⟩
    let ro : RowOp := ⟨0, 0, 0, 0, 34, [(0x40000, none), (0x40400, none)], false, []⟩
    let rc : RowOp := ⟨0, 0, 0, 0, 34, [(0x40000, some 0x10000)], false, []⟩
    let s := { t0 with
      cores := modAt t0.cores 0 fun k => { k with stns := [st] }, relqs := [rq], rowops := [ro, rc, { ro with rows := [] }] }
    (s.power = .ready ∧ (s.coreAt 0).stns[0]? = some st ∧ s.groupAt 0 0 0 = some (iss t0).g ∧ (iss t0).g.block = st.block) ∧
    (s.relqs[0]? = some rq ∧ s.tiles.length = 20 ∧ (∀ t ∈ s.tiles, tableOk 0 0 t.fsm = true) ∧ ∀ k ∈ rq.sectors, k < 20 * 2 ^ 29) ∧
    (s.rowops[0]? = some ro ∧ s.rowops[1]? = some rc ∧ s.mem.wf = true ∧ (0x40000 + 1024 ≤ 0x40400) ∧
      (∀ y ∈ (s.coreAt 0).l1, y.pa / 1024 = 0x10000 / 1024 → y.dirty = false) ∧ s.rowops[2]?.map RowOp.rows = some []) ∧
    ((∀ b ∈ s.blocks, (s.groups.any fun g => g.block == b.id) = true) ∧ (iss t0).g.block = ro.block) ∧
    (∃ o ∈ s.rowops, (0, bankOf 0x40000) ∈ o.stepBanks) ∧ (((s.tileAt 0).refreshDue.filter (· == bankOf 0x40000)).length < 8 ∧ t0.rowops = []) ∧
    (tableOk 0 0 s.life = true ∧ 4096 / 2 ^ 29 < s.tiles.length ∧ s.scrubs = []) := by
  decide +kernel

/-- A launch record of one block with the header at 2^36, or with a grid of no blocks of a cluster of none, which is malformed. -/
def tRec (good : Bool) : List Byte := wrB (wrB (wrB (wrB (wrB (List.replicate 64 0) 4 16) 32 1) 36 1) 38 1) 40 (if good then 1 else 0)
where
  /-- A byte replaced. -/
  wrB (bs : List Byte) (k : Nat) (b : Byte) : List Byte := modAt bs k fun _ => b

/-- The header of a kernel of one role with 64 threads. -/
def tHdr : List Byte :=
  leBytes 4 0x0008C5D1 ++ leBytes 2 128 ++ [1, 1] ++ List.replicate 16 0 ++ [0, 0, 1, 0] ++ List.replicate 20 0 ++
    (leBytes 4 0 ++ leBytes 2 64 ++ leBytes 2 64 ++ [0x14, 15] ++ List.replicate 10 0) ++ List.replicate 60 0

/-- VF 0's current context is context 1. -/
def tVf : State := { t0 with vfs := modAt t0.vfs 0 fun v => { v with ctxdesc := modAt v.ctxdesc 0 fun _ => 0x0010000000000001 } }

/-- A launch of that record. -/
def tLn (st : LaunchSt) (next : Nat) : Launch :=
  { id := 7, ctx := 1, tile := 0, prio := 0, seq := 1, record := tRec true, digest := none, state := st, header := tHdr, next := next,
    total := 1, ended := next, boosted := 0, hold := false, readyAt := 0, movedAt := 0, src := 0, cyc := 0 }

/-- A tenant entry of VF 0 for the tag 5. -/
def tTen : Tenant := { port := 2, vf := 3, bytes := List.replicate 32 0 ++ [5, 0, 1, 0, 4, 1, 0, 1] ++ List.replicate 24 0, tokens := 2, refusals := 0, since := 0 }

/-- An empty queue, and one with a launch of a later source of the same cycle; a full queue; records that are refused; a tenant's launch, and ones that its
entry refuses. -/
theorem witness_LaunchEvents_accept :
    let enters := fun (s : State) => s.power = .ready ∧ (s.ctxAt 1).isSome = true ∧ s.firstTile (s.vfAt 0).part = some 0 ∧ (s.vfAt 0).current = some 1 ∧
      (tRec true).length = 64 ∧ malformedLaunch (tRec true) = false
    let room := fun (s : State) => (s.launches.filter fun y => y.tile == 0 && y.prio == launchPrio (tRec true)).length < 64 ∧
      ∀ y ∈ s.launches, y.id ≠ s.nextId
    let full := { tVf with launches := List.replicate 64 (tLn .ready 0) }
    let late := { tVf with launches := [{ tLn .ready 0 with src := 5 }] }
    let ten := { tVf with tenants := [tTen] }
    (enters tVf ∧ (launchCtl (tRec true)).getLsbD 2 = false ∧ room tVf) ∧
    (enters late ∧ room late ∧ ∀ y ∈ late.launches, y.tile = 0 ∧ y.cyc = (late.coreAt 0).cyc / 2 ∧ 0 < y.src) ∧
    (enters full ∧ 64 ≤ (full.launches.filter fun y => y.tile == 0 && y.prio == launchPrio (tRec true)).length) ∧
    ((tRec false).length = 64 ∧ malformedLaunch (tRec false) = true ∧ (t0.vfAt 0).current = none ∧ 0 < t0.vfs.length) ∧
    (enters ten ∧ room ten ∧ ten.tenantAt 2 3 = tTen ∧ fieldAt tTen.bytes 39 1 % 2 = 1 ∧ fieldAt tTen.bytes 32 2 = 5 ∧
      fieldAt tTen.bytes 37 1 / 2 ^ launchPrio (tRec true) % 2 = 1 ∧ 0 < tTen.tokens ∧ fieldAt tTen.bytes 38 1 % 64 = 0 ∧
      fieldAt tTen.bytes 32 2 ≠ 6 ∧ fieldAt tTen.bytes 34 2 ≠ 0 ∧ fieldAt (ten.tenantAt 2 4).bytes 39 1 % 2 = 0) := by
  decide +kernel

/-- What a walk for a write finds. -/
def walkGot (s : State) (va : Addr) : Nat × Addr × State :=
  match s.reach 0 1 va .write with | (.ok pa w, u) => (pa, w, u) | (.bad _ _ _, u) => (0, 0, u)

theorem walkGot_ok {s : State} {va : Addr} (h : (match s.reach 0 1 va .write with | (.ok _ _, _) => true | _ => false) = true) :
    s.reach 0 1 va .write = (.ok (walkGot s va).1 (walkGot s va).2.1, (walkGot s va).2.2) := by
  unfold walkGot
  generalize s.reach 0 1 va .write = p at h ⊢
  obtain ⟨e, u⟩ := p
  cases e <;> simp_all

/-- Where the two bytes at 2^36 lead. -/
def partsGot (acc : Acc) : Nat × Addr × State :=
  match t0.reachParts 0 1 acc (pageParts 0x1000000000 2) with | (some [(pa, w, _)], u) => (pa, w, u) | (_, u) => (0, 0, u)

theorem partsGot_ok {acc : Acc} (h : (match t0.reachParts 0 1 acc (pageParts 0x1000000000 2) with | (some [(_, _, n)], _) => n == 2 | _ => false) = true) :
    t0.reachParts 0 1 acc (pageParts 0x1000000000 2) = (some [((partsGot acc).1, (partsGot acc).2.1, 2)], (partsGot acc).2.2) := by
  unfold partsGot
  generalize t0.reachParts 0 1 acc (pageParts 0x1000000000 2) = p at h ⊢
  obtain ⟨_ | _ | ⟨⟨pa, w, n⟩, _ | _⟩, u⟩ := p <;> simp_all

/-- A write and a read of the VF's own context, ones to an address below 64 KiB, and a packet of another VF. -/
theorem witness_LaunchEvents_packet :
    (∀ acc ∈ [Acc.write, .read], ∃ pa w u, t0.reachParts (portTile 0) 1 acc (pageParts (0x1000000000 : Addr).toNat 2) = (some [(pa, w, 2)], u) ∧
      u.contexts = t0.contexts ∧ w.getLsbD 58 = false) ∧
    (∀ acc ∈ [Acc.write, .read], ∃ u, t0.reachParts (portTile 0) 1 acc (pageParts (16 : Addr).toNat 2) = (none, u)) ∧
    (t0.ctxAt 1).map Context.vf = some 0 ∧ (t0.ctxAt 1).map Context.vf ≠ some 9 := by
  have hp : portTile 0 = 0 := by decide +kernel
  have ha : (0x1000000000 : Addr).toNat = 0x1000000000 := by decide +kernel
  rw [hp, ha]
  refine ⟨fun acc h => ?_, fun acc h => ⟨_, Prod.ext ?_ rfl⟩, by decide +kernel, by decide +kernel⟩ <;>
    simp only [List.mem_cons, List.not_mem_nil, or_false] at h
  · obtain rfl | rfl := h <;> exact ⟨_, _, _, partsGot_ok (by decide +kernel), by decide +kernel⟩
  · obtain rfl | rfl := h <;> decide +kernel

/-- A launch with no wait word; a launch that is ready, aged, and ended; a place for its block, and none that its VF's budget of power allows. -/
theorem witness_LaunchEvents_life :
    let with_ := fun (l : Launch) => { t0 with launches := [l] }
    let only := fun (l : Launch) => (with_ l).launchAt 7 = some l ∧ ∀ y ∈ (with_ l).launches, y.id = 7 → y = l
    let old := { t0 with launches := [tLn .ready 0], cores := modAt t0.cores 0 fun k => { k with cyc := 3000000 } }
    only (tLn .waiting 0) ∧ (launchCtl (tRec true)).getLsbD 2 = false ∧ only (tLn .ready 0) ∧ old.launchAt 7 = some (tLn .ready 0) ∧
    (tLn .ready 0).readyAt + 3000000 ≤ (old.coreAt (4 * 0)).cyc ∧ (tLn .ready 0).next < (tLn .ready 0).total ∧
    (tLn .ready 0).movedAt + 300000 ≤ (old.coreAt (4 * 0)).cyc ∧
    (∀ watts ∈ [0, 200],
      let s := (with_ (tLn .ready 0)).modVf 0 fun v => { v with plbud := 0x0064000000000000, power := watts }
      s.settleLoads = s ∧ s.mayPlace (tLn .ready 0) = true ∧ s.partOf (tLn .ready 0).tile = s.partOf 0 ∧ launchCsize (tRec true) = 1 ∧
        ((s.chooseCores 0 1 tHdr (fun cs => !s.overBudget 0 cs) 1 []).map List.length = if watts = 0 then some 1 else none) ∧
        (s.chooseCores 0 1 tHdr (fun _ => true) 1 []).isSome = true) ∧
    (only (tLn .ready 1) ∧ (tLn .ready 1).total ≤ (tLn .ready 1).next ∧ (tLn .ready 1).total ≤ (tLn .ready 1).ended ∧
      (launchCtl (tRec true)).getLsbD 3 = false) ∧ t0.partOf 0 ≠ 1 := by
  decide +kernel

/-- What the word at 2^36 is read as. -/
def wordGot (s : State) : List Byte × State :=
  match s.readVa 0 1 0x1000000000 4 with | (.ok bs, u) => (bs, u) | (.error _, u) => ([], u)

theorem wordGot_ok {s : State} (h : (match s.readVa 0 1 0x1000000000 4 with | (.ok _, _) => true | _ => false) = true) :
    s.readVa 0 1 0x1000000000 4 = (.ok (wordGot s).1, (wordGot s).2) := by
  unfold wordGot
  generalize s.readVa 0 1 0x1000000000 4 = p at h ⊢
  obtain ⟨e, u⟩ := p
  cases e <;> simp_all

/-- A launch with a wait word at 2^36, which holds 0, for the value 1. -/
def tWt : Launch := { tLn .waiting 0 with record := modAt (modAt (modAt (tRec true) 41 fun _ => 4) 12 fun _ => 16) 24 fun _ => 1 }

theorem witness_LaunchEvents_wait :
    let s := { t0 with launches := [tWt] }
    ∃ bs u, s.launchAt 7 = some tWt ∧ (launchCtl tWt.record).getLsbD 2 = true ∧ s.readVa tWt.tile tWt.ctx (launchWait tWt.record) 4 = (.ok bs, u) ∧
      (BitVec.ofNat 32 (leNat bs) - BitVec.ofNat 32 (fieldAt tWt.record 24 4)).toInt < 0 := by
  have hw : launchWait tWt.record = 0x1000000000 := by decide +kernel
  rw [hw]
  exact ⟨_, _, by decide +kernel, by decide +kernel, wordGot_ok (by decide +kernel), by decide +kernel⟩

/-- What reading a header finds. -/
def headerGot (s : State) : List Byte × State :=
  match s.readHeader 0 1 0x1000000000 with | (.ok h, u) => (h, u) | (.error _, u) => ([], u)

theorem headerGot_ok {s : State} (h : (match s.readHeader 0 1 0x1000000000 with | (.ok _, _) => true | _ => false) = true) :
    s.readHeader 0 1 0x1000000000 = (.ok (headerGot s).1, (headerGot s).2) := by
  unfold headerGot
  generalize s.readHeader 0 1 0x1000000000 = p at h ⊢
  obtain ⟨e, u⟩ := p
  cases e <;> simp_all

/-- A header of the kernel, and one of zeros. -/
theorem witness_LaunchEvents_header :
    ∀ good ∈ [true, false],
      let s := { t0 with launches := [tLn .met 0], mem := if good then wrBytes t0.mem 0 tHdr else t0.mem }
      ∃ h u, s.launchAt 7 = some (tLn .met 0) ∧ s.readHeader 0 1 (launchKhdr (tLn .met 0).record) = (.ok h, u) ∧ u.launches = s.launches ∧
        u.contexts = s.contexts ∧ (tLn .met 0).digest = none ∧ (headerOk h && u.fitsSome 0 1 h) = good := by
  have hk : launchKhdr (tLn .met 0).record = 0x1000000000 := by decide +kernel
  intro good hg
  simp only [List.mem_cons, List.not_mem_nil, or_false] at hg
  rw [hk]
  obtain rfl | rfl := hg <;>
    exact ⟨_, _, by decide +kernel, headerGot_ok (by decide +kernel), by decide +kernel⟩

/-- A grid that has ended, with a completion word at 2^36. -/
theorem witness_LaunchEvents_complete :
    let l := { tLn .ready 1 with record := modAt (modAt (tRec true) 41 fun _ => 8) 20 fun _ => 16 }
    let s := { t0 with launches := [l] }
    ∃ o pa w u, { o with launches := [] }.reach 0 1 (BitVec.ofNat 64 (launchCpl l.record)) .write = (.ok pa w, u) ∧ s.publish 1 = o ∧
      s.launchAt 7 = some l ∧ l.total ≤ l.ended ∧ (launchCtl l.record).getLsbD 3 = true ∧ (launchCtl l.record).getLsbD 4 = false ∧
      (s.ctxAt 1).map Context.drained = some false ∧ o.contexts = s.contexts ∧ o.launches = s.launches ∧ o.units = [] ∧
      w.getLsbD 58 = false ∧ u.launches = [] :=
  ⟨State.publish _ 1, _, _, _, walkGot_ok (by decide +kernel), rfl, by decide +kernel⟩

/-- A link read that has no answer. -/
theorem witness_LaunchEvents_read :
    let r : LinkRead := ⟨0, 0x1000, 4, 0, 0, 0, 3, none, 0⟩
    { t0 with reads := [r] }.reads[0]? = some r ∧ r.answer = none := by
  decide +kernel

/-- PARTID of a tile with nothing resident, locked, and of the tile of a block; a good descriptor and one for another partition; a range that fits, one
whose way is taken, and one of no ways; commands for an empty queue, a full one, no context, and the command at the head of a queue. -/
theorem witness_RegisterEvents :
    let locked := { t0 with tiles := modAt t0.tiles 5 fun t => { t with partid := 0x80000005 } }
    let taken := { t0 with tiles := modAt t0.tiles 5 fun t => { t with res := modAt t.res 1 fun r => { r with ctl := 0x80000300 } } }
    let c := fun (d : Bool) => ({ va := 0, ctl := 0x0000000100050001, done := d } : InvCmd)
    let queue := fun (l : List InvCmd) => { t0 with parts := modAt t0.parts 3 fun p => { p with queue := l } }
    let root := fun (v : Addr) => bitsOf v 40 11 * 2048
    let good := fun (v : Addr) => root v / 2 ^ 36 < 20 ∧ t0.partOf (root v / 2 ^ 36) = (t0.vfAt 0).part ∧ bitsOf v 51 46 = 0
    let pages := fun k => if k = 0 then 2 ^ 16 else if k = 1 then 2 ^ 21 else if k = 2 then 2 ^ 28 else 2 ^ 35
    let ways := fun (w : Word) => bitsOf w 23 8
    let isTaken := fun (j : Nat) (r : ResRange) => j ≠ 0 ∧ taken.tiles[5]?.map (fun t => t.res[j]?) = some (some r) ∧ r.ctl.getLsbD 31 = true
    (∀ s ∈ [t0, locked, taken, queue [c false], queue [c true], queue (List.replicate 8 (c false))], s.power = .ready ∧ s.tiles.length = 20 ∧
      s.parts.length = 20 ∧ s.vfs.length = 64) ∧
    ((t0.tileAt 5).partid.getLsbD 31 = false ∧ t0.resident (t0.partOf 5) = false ∧ t0.resident (bitsOf (0x80000007 : Word) 4 0) = false ∧
      bitsOf (0x80000007 : Word) 4 0 < 20 ∧ 20 ≤ bitsOf (0x80000014 : Word) 4 0 ∧ 20 ≤ bitsOf (0x0000001F : Word) 4 0 ∧
      bitsOf (0 : Word) 4 0 < 20 ∧ t0.resident (bitsOf (0 : Word) 4 0) = true) ∧
    (locked.tileAt 5).partid.getLsbD 31 = true ∧ t0.resident (t0.partOf 0) = true ∧
    ((∀ s ∈ [t0, tVf], (s.vfAt 0).ctxdesc.length = 16) ∧ good 0x0020000000010001 ∧ bitsOf (0x0020000000010001 : Addr) 63 52 = 2 ∧ t0.ctxAt 2 = none ∧
      ¬ good 0x0020005000010001 ∧ good 0x0010000000000001 ∧ (t0.ctxAt 1).map Context.vf = some 0 ∧ (t0.described 0 ((t0.vfAt 0).ctxdesc.getD 0 0)).isNone = true ∧
      (tVf.described 0 ((tVf.vfAt 0).ctxdesc.getD 0 0)).map Context.id = some 1 ∧
      (t0.described 0 (0x0010000000000001 &&& 0xFFFFC1FFFFFFF801)).map Context.id = some 1 ∧
      ((t0.vfAt 0).ctxdesc[0]? != some 0x0020000000010001) = true ∧
      ((tVf.vfAt 0).ctxdesc[0]? == some (0x0010000000000001 &&& 0xFFFFC1FFFFFFF801)) = true) ∧
    (ways 0x80000300 = 3 ∧ ([0, 1].Nodup ∧ ∀ bit < 16, (3 : Nat).testBit bit = true → bit ∈ [0, 1]) ∧
      (∀ r ∈ (t0.tileAt 5).res, r.ctl.getLsbD 31 = false) ∧ (t0.tileAt 5).res.length = 8 ∧ ways 0x80000000 = 0 ∧
      (isTaken 1 ⟨0, 0, 0x80000300, 0⟩ ∧ (ways 0x80000300).testBit 0 = true ∧ (ways 0x80000100).testBit 0 = true)) ∧
    ((t0.isoAt 3).queue.length < 8 ∧ bitsOf (0x0000000200000000 : Addr) 47 32 ≠ 0 ∧
      (t0.isoAt 3).invva.toNat % pages (bitsOf (0x0000000200000000 : Addr) 49 48) = 0 ∧
      8 ≤ ((queue (List.replicate 8 (c false))).isoAt 3).queue.length ∧ bitsOf (0 : Addr) 47 32 = 0 ∧
      (let odd := { t0 with parts := modAt t0.parts 3 fun p => { p with invva := 0x10000 } }
       ∀ k ∈ [1, 2, 3], (odd.isoAt 3).invva.toNat % pages (bitsOf (BitVec.ofNat 64 (k * 2 ^ 48)) 49 48) ≠ 0 ∧
         (t0.isoAt 3).invva.toNat % pages (bitsOf (BitVec.ofNat 64 (k * 2 ^ 48)) 49 48) = 0)) ∧
    (((queue [c false]).isoAt 3).queue = c false :: [] ∧ ((queue [c true]).isoAt 3).queue = c true :: [] ∧ (c true).done = true ∧
      t0.rowops = [] ∧ t0.reads = [] ∧ t0.homeq = []) := by
  refine ⟨?_, ?_, ?_, ?_, ?_, ?_, ?_, ?_⟩ <;> decide +kernel

/-- A record that holds the group; a group that waits at a home for credits that have and have not come; a ring with nothing pending and with one record
pending that it takes; FQCTL words that are taken and are not. -/
theorem witness_FaultQueueEvents :
    let r : FRec := ⟨0, 1, 1, 0x1000000040, 0, 0, false, 0, 0, 0, 0, 0, 0, true, 0, false⟩
    let g := { placeGroup 0 with status := .parked .fault, records := 1 }
    let held := { tSel with groups := (onG tSel fun _ => g).groups, recs := [r], parts := modAt tSel.parts 0 fun p => { p with fqresva := 0x1000000000 } }
    let px := fun (n : Nat) => onG tPx fun g => { g with status := .parked (.pxexh [(3, n), (4, 1)] false), records := 2 }
    let ring := fun (l : List (List Byte)) => { t0 with vfs := modAt t0.vfs 0 fun v => { v with pend := l, fqctl := 0x80070000, fqbase := 0x50000 } }
    let only := fun (s : State) => (s.groups.filter (fun x => x.isAt 0 0 0)).length = 1 ∧ (s.groupAt 0 0 0).map Group.ctx = some 1
    (∀ s ∈ [held, px 1, px 200, ring [], ring [List.replicate 32 7]], s.power = .ready ∧ s.parts.length = 20 ∧ s.vfs.length = 64 ∧ only s) ∧
    (held.recs = [r] ∧ r.covered (held.isoAt 0).fqresva 0x0010000000000000 = true ∧ (held.vfAt r.vf).part = 0 ∧ 1 ≤ r.kind ∧ r.kind ≤ 3 ∧
      held.groupAt 0 0 0 = some g ∧ g.status = .parked .fault ∧ g.records = 1 ∧ (∀ b ∈ held.blocks, (held.groups.any fun g => g.block == b.id) = true)) ∧
    (bitsOf (0x0010000000000003 : Addr) 12 0 = 3 ∧ bitsOf (0x0010000000000003 : Addr) 63 52 = 1 ∧ (px 1).partOf (0 / 4) = 0 ∧
      3 ∈ [(3, 1), (4, 1)].map Prod.fst ∧ 1 ≤ (px 1).credits 0 1 3 ∧ 1 ≤ (px 1).credits 0 1 4 ∧ (px 200).credits 0 1 3 < 200) ∧
    (((ring []).vfAt 0).pend = [] ∧ ((ring [List.replicate 32 7]).vfAt 0).pend = [List.replicate 32 7] ∧ (ring []).recs = [] ∧
      (List.replicate 32 (7 : Byte)).length = 32 ∧ (ring []).inPart ((ring []).vfAt 0).part (0x50000 + 32 * ((ring []).vfAt 0).fqtail.toNat) = true ∧
      (ring []).mem.wf = true ∧ ((ring []).vfAt 0).fqctl.getLsbD 31 = true ∧
      (((ring []).vfAt 0).fqtail.toNat + 1) % 2 ^ bitsOf ((ring []).vfAt 0).fqctl 19 16 ≠ ((5 : Word) &&& 0xFFFF).toNat) ∧
    ((0x00070001 : Word).getLsbD 31 = false ∧ 7 ≤ bitsOf (0x80070001 : Word) 19 16 ∧
      (∀ a ∈ [0x50000, 0x50000 + 32 * 2 ^ 7 - 1], a / 2 ^ 36 = 0) ∧ (ring []).partOf 0 = ((ring []).vfAt 0).part ∧
      bitsOf ((ring []).vfAt 0).fqbase 40 12 * 4096 = 0x50000 ∧ bitsOf (0x80060001 : Word) 19 16 < 7) := by
  refine ⟨?_, ?_, ?_, ?_⟩ <;> decide +kernel

/-- Tile 5 with two evictable frames of VF 2, of ages 0 and 3, VF 2 with more frames than its guarantee; MAPDATA with a word. -/
def tFrame (md : Addr) (busy : Bool) : State :=
  { t0 with
    tiles := modAt t0.tiles 5 fun t => { t with fmap := [(7, 0x0C02), (9, 0x0C02)], touched := [(7, 4), (9, 1)], mapdata := md, mapBusy := busy }
    vfs := modAt t0.vfs 2 fun v => { v with part := 5, guar := 1, burst := 2 }
    ticks := 4 }

theorem witness_FrameEvents :
    let s := tFrame 0 false
    let a := tget 0 (s.tileAt 5).fmap 9
    let st := fun (s : State) (k : Nat) => bitsOf (tget 0 (s.tileAt 5).fsm k) 15 14
    let donated := { s with tiles := modAt s.tiles 5 fun t => { t with fsm := [(8 * 128, 0x4001)] } }
    let used := { s with tiles := modAt s.tiles 5 fun t => { t with fsm := [(0, 0x8001)] } }
    let flush := { s with parts := modAt s.parts 5 fun p => { p with flushing := true } }
    let others := ((List.range 64).map fun u => if u ≠ 2 ∧ (s.vfAt u).part = (s.vfAt 2).part then bitsOf (s.vfAt u).guar 24 0 else 0).sum
    (∀ s ∈ [t0, tFrame 0 false, tFrame 0x0C02 true, tFrame 0x0C02 false, donated, used, flush], s.power = .ready ∧ s.tiles.length = 20 ∧
      s.parts.length = 20 ∧ s.vfs.length = 64 ∧ ∀ t ∈ s.tiles, tableOk 0 0 t.fsm = true ∧ tableOk 0 0 t.fmap = true) ∧
    (s.victim 5 2 = some (5, 9) ∧ (9, a) ∈ (s.tileAt 5).fmap ∧ tableOk 0 0 (s.tileAt 5).fmap = true ∧ 9 < 2 ^ 20) ∧ t0.victim 5 2 = none ∧
    (bitsOf (s.vfAt 2).guar 24 0 ≤ bitsOf (1 : Word) 24 0 ∧ bitsOf (0 : Word) 24 0 < bitsOf (s.vfAt 2).guar 24 0 ∧
      bitsOf (2 : Word) 24 0 ≤ bitsOf (s.vfAt 2).burst 24 0 ∧ others + 2 ≤ (s.tilesOf (s.vfAt 2).part).length * 2 ^ 20 ∧
      bitsOf (s.vfAt 2).burst 24 0 < bitsOf (3 : Word) 24 0) ∧
    ((tget 0 (s.tileAt 5).fmap 9).toNat < 4096 ∧ tget 0 (s.tileAt 5).touched 9 ≤ s.ticks) ∧
    ((tFrame 0x0C02 true).tileAt 5).mapBusy = true ∧ (s.tileAt 5).mapBusy = false ∧ bitsOf (0x1FFFFFFF : Addr) 29 0 < 2 ^ 29 ∧
    2 ^ 29 ≤ bitsOf (0x20000000 : Addr) 29 0 ∧
    (tableOk 0 0 (s.tileAt 5).fsm = true ∧ (∀ k ∈ unitSectors 0, st s k = 0) ∧ 2 ^ 20 ≤ bitsOf (0x100000 : Addr) 29 0 ∧ (0 ∈ unitSectors 0 ∧ st used 0 ≠ 0)) ∧
    (tableOk 0 0 (donated.tileAt 5).fsm = true ∧ (∀ k ∈ unitSectors 0, st donated k < 2) ∧ 2 ≤ st used 0) ∧
    ((s.tileAt 5).mapdata.getLsbD 10 = false ∧ ((tFrame 0x0C02 false).tileAt 5).mapdata.getLsbD 10 = true ∧
      bitsOf ((tFrame 0x0C02 false).tileAt 5).mapdata 5 0 = 2 ∧ (tget 0 (s.tileAt 5).fmap 8).getLsbD 10 = false ∧
      bitsOf (s.vfAt 2).burst 24 0 ≤ s.framesUsed 2) ∧
    (s.isoAt 5).flushing = false ∧ (flush.isoAt 5).flushing = true := by
  refine ⟨?_, ?_, ?_, ?_⟩ <;> decide +kernel

/-- The trace unit of core 0, configured by the physical function, with a buffer of 4 KiB and a sample every 256 cycles. -/
def tTrace (o : Owner) : CUnit :=
  { CUnit.init ⟨false, 0, 4⟩ with
    owner := o, pfrec := List.replicate 9 0 ++ [16, 0, 0, 2, 0, 8] ++ List.replicate 17 0
    record := List.replicate 9 0 ++ [16, 0, 0, 2, 0, 8] ++ List.replicate 17 0 }
/-- A state with a unit. -/
def tUnit (u : CUnit) : State := t0.setUnit u
/-- Bank 0 of tile 5, with one counter that counts reuse of the last bin. -/
def tBank : CUnit := { CUnit.init ⟨true, 5, 0⟩ with owner := .pf, record := [0x0F, 0xD0] ++ List.replicate 30 0 }

theorem witness_UnitEvents :
    let r : UnitRef := ⟨false, 0, 4⟩
    let all := 0x2000000000000000
    let ok := fun (o : Owner) => (tUnit (tTrace o)).pfFilter r all = some .all ∧ unitRecordOk r true ((tUnit (tTrace o)).unitAt r).pfrec = true ∧
      ((tUnit (tTrace o)).unitAt r).owner = o ∧ (tUnit (tTrace o)).power = .ready ∧ (tUnit (tTrace o)).vfs.length = 64
    let tag : ReuseTag := ⟨3, 0, 9, 2 ^ 20⟩
    let tags := { tUnit tBank with tiles := modAt t0.tiles 5 fun t => { t with tags := [tag] } }
    realUnit r = true ∧ (bitsOf (0x20000000 : Addr) 63 62 = 0 ∧ r.tile = false) ∧ (∀ o ∈ [Owner.free, .pf, .ctx 1], ok o) ∧
    ((tUnit (tTrace .pf)).pfFilter r 0x3000000000000000 = none ∧ bitsOf (0x20 : Addr) 31 0 % 32 = 0 ∧ bitsOf (0x20 : Addr) 31 0 < (tTrace .pf).size) ∧
    (fieldAt (t0.tenantAt 2 3).bytes 39 1 % 2 = 0 ∧ 36 + [(9 : Byte)].length ≤ 37 ∧ (t0.tenantAt 2 3).bytes.length = 64 ∧ (1 : Byte).getLsbD 0 = true ∧
      fieldAt ({ t0 with tenants := [tTen] }.tenantAt 2 3).bytes 39 1 % 2 = 1 ∧ 38 + [(9 : Byte)].length ≤ 39) ∧
    (let s := { tUnit { tTrace .pf with least := List.replicate 8 2 } with cores := modAt t0.cores 0 fun k => { k with cyc := 2048 }, contexts := [] }
     (s.unitAt r).owner ≠ .free ∧ s.granularity (s.unitAt r) 7 = 2 ∧ (s.unitAt r).from_ + s.minwin (s.unitAt r) ≤ s.unitCycle r ∧
       (s.units.filter fun x => x.ref == r) = [s.unitAt r]) ∧
    (tUnit (tTrace .pf)).unitCycle r < (tTrace .pf).from_ + (tUnit (tTrace .pf)).minwin (tTrace .pf) ∧
    (let s := { tUnit (tTrace .pf) with groups := t0.groups.take 1 }
     let u := s.unitAt r
     s.units = [u] ∧ u.filter = .all ∧ fieldAt u.record 24 8 = 0 ∧ u.missed = 0 ∧ u.ack + 1 ≤ u.size / 32 ∧ 0 < fieldAt u.record 14 1 ∧
       (s.coreAt 0).cyc % 2 ^ fieldAt u.record 14 1 = 0 ∧ fieldAt u.record 12 2 / 2 % 2 = 1 ∧
       s.groups.map (fun g => (g.core, decide (g.part < 4), g.status)) = [(0, true, .issuing)]) ∧
    ((tags.tileAt 5).tags.find? (fun x => x.n == tag.n) = some tag ∧ 2 ^ 20 ≤ tag.d ∧ (tags.units.filter fun x => x.ref == ⟨true, 5, 0⟩) = [tBank] ∧ tBank.cnt.length = 8 ∧
      5 < tags.tiles.length) := by
  decide +kernel

/-- Cones of tile 0 at a temperature in units of 1/64 K, an emergency's start, and what core 0 has issued of VF 0. -/
def tCone (x : Word) (hot : Nat) (iss : List (Nat × Nat)) : State :=
  { t0 with
    tiles := modAt t0.tiles 0 fun t => { t with cones := List.replicate 32 (0x10000 + x) }
    cores := modAt t0.cores 0 fun k => { k with issued := iss, damper := 3 }
    hot := hot }

/-- Hot, between, and cool cones, with and without an emergency; power over and under the limits; a unit that is busy and one that is not; a warm
quadrant with slots of one VF. -/
theorem witness_ThermalEvents :
    let q := fun (x : Word) (P : List Int → List Int → Bool) =>
      P (((tCone x 0 []).tileAt 0).temps ([0, 1, 2, 3] ++ [16, 17])) (((tCone x 0 []).tileAt 0).temps [28])
    let hot := fun (l d : List Int) => l.any (fun x => decide (103 * 64 ≤ x)) || d.any fun x => decide (93 * 64 ≤ x)
    let cool := fun (l d : List Int) => l.all (fun x => decide (x ≤ 101 * 64)) && d.all fun x => decide (x ≤ 91 * 64)
    let busy := tQueue true [tOp .wswap 1 false]
    let lim := { t0 with vfs := modAt t0.vfs 0 fun v => { v with plbud := 0x0064000000000000 } }
    (∀ s ∈ [t0, tCone 6592 0 [], tCone 0 5 [], tCone 6000 0 [(0, 40), (3, 20)], busy, lim], s.power = .ready ∧ s.tiles.length = 20 ∧ s.cores.length = 80 ∧
      s.vfs.length = 64) ∧
    (t0.tileAt 0).cones.length = 32 ∧ (tCone 0 5 []).hot ≠ 0 ∧ (tCone 0 0 []).hot = 0 ∧ q 6592 hot = true ∧ q 100 cool = true ∧
    q 5900 (fun l d => !(hot l d) && !(cool l d)) = true ∧ bitsOf (lim.vfAt 0).plbud 63 48 = 100 ∧ bitsOf (t0.vfAt 0).plbud 63 48 = 0 ∧
    (tCone 0 1 []).hot + 30000000 ≤ ({ tCone 0 1 [] with cores := modAt t0.cores 0 fun k => { k with cyc := 30000000 } }.coreAt 0).cyc + 1 ∧
    t0.unitBusy (.matrix 0 0) = false ∧ powerTile (.matrix 0 0) < 20 ∧ busy.unitBusy (.matrix 0 0) = true ∧
    (∀ n ∈ [4095, 4096], let s := { t0 with cores := modAt t0.cores 0 fun k => { k with cyc := n } }
      ((s.tileAt (powerTile (.matrix 0 0))).used.find? fun e => e.1 == .matrix 0 0).elim 0 Prod.snd = 0 ∧ (s.coreAt 0).cyc = n) ∧
    (∃ y ∈ ((tCone 6000 0 []).tileAt 0).temps [28], 85 * 64 < y) ∧ (¬ ∃ y ∈ (t0.tileAt 0).temps [28], 85 * 64 < y) ∧
    ((((tCone 6000 0 [(0, 40), (3, 20)]).coreAt 0).issued.map Prod.snd).sum ≠ 0 ∧ (((tCone 6000 0 [(0, 40), (3, 20)]).coreAt 0).issued.map Prod.fst).Nodup) ∧
    tableOk 0 0 t0.life = true := by
  decide +kernel

/-- What each power event needs: every power, an image, and a request that is and is not busy; an image is good or it is not. -/
theorem witness_PowerEvents :
    let fw : FirmwareImage := { bytes := [1, 2], digest := [], rollback := 3, signature := [], key := [] }
    let good := Config.sm3 fw.bytes = fw.digest ∧ Config.sm3 fw.key = Config.rootDigest ∧
      Config.sm2Verify fw.key (Config.sm3 fw.bytes) fw.signature = true ∧ State.reset.fuseRoll ≤ fw.rollback
    let busy := { t0 with pfReport := { t0.pfReport with attBusy := true, nonceUsed := List.replicate 32 7 } }
    State.reset.power = .booting ∧ (good ∨ ¬ good) ∧ ({ t0 with image := some fw }.power ≠ .off ∧ { t0 with image := some fw }.image = some fw) ∧
    { State.reset with power := .recovery }.power = .recovery ∧ t0.power ≠ .recovery ∧ (t0.power = .ready ∧ t0.vfs.length = 64) ∧
    (t0.contexts.map Context.id).Nodup ∧ t0.pfReport.attBusy = false ∧ busy.pfReport.attBusy = true ∧ busy.pfReport.nonceUsed.length = 32 :=
  ⟨by decide +kernel, Classical.em _, by decide +kernel⟩

/-- An image of context 1 with some blocks and groups. -/
def tImage (bs : List Block) (gs : List Group) : Image :=
  { ctx := 1, groups := gs, blocks := bs, clusters := [], mats := [], reqs := [], sent := [], px := [], units := [] }
/-- The context saved or waiting to be restored, with that image; blocks of context 2 may fill the scratchpads of tile 0, the only one of the partition. -/
def tSaved (r : CtxRun) (m : Image) (full : Bool) : State :=
  { t0 with
    contexts := [{ placeCtx 0x10000 with run := r }, { placeCtx 0x10000 with id := 2 }], images := [m], groups := [], clusters := []
    blocks := if full then (List.range 4).map fun c => { placeBlk with id := 10 + c, ctx := 2, core := c, scrSize := 0x100000 } else [] }
/-- A policy in its form. -/
def tPol : List Byte := leBytes 4 0xC5D10D15 ++ leBytes 2 128 ++ [1, 0] ++ leBytes 2 0 ++ [0, 0] ++ leBytes 4 1 ++ List.replicate 16 0 ++ leBytes 4 1024 ++
  List.replicate 92 0

/-- A policy that is refused and one whose acceptance is the signature's; descriptors; a context that runs, one that stops and can be saved. -/
theorem witness_ContextEvents :
    let stop := { t0 with contexts := [{ placeCtx 0x10000 with run := .stopping }], groups := [placeGroup 0] }
    (t0.power = .ready ∧ t0.vfs.length = 64 ∧ 3 < (t0.vfAt 0).ctxdesc.length ∧ t0.policyAccepted 0 [] = false) ∧
    (tPol.length = 128 ∧ policyOk tPol = true ∧ fieldAt tPol 8 2 = (t0.vfAt 0).tenant ∧ t0.polseq 0 ≤ fieldAt tPol 12 4) ∧
    (let d : Addr := 0x0020000000010001
     d.getLsbD 0 = true ∧ bitsOf d 63 52 = 2 ∧ t0.ctxAt 2 = none ∧ ((t0.vfAt 0).ctxdesc.all fun y => descCtx y != some 2) = true ∧
       (t0.described 0 ((t0.vfAt 0).ctxdesc.getD 0 0)).isNone = true ∧ bitsOf d 51 46 = 0 ∧ bitsOf d 40 11 * 2048 / 2 ^ 36 < 20 ∧
       t0.partOf (bitsOf d 40 11 * 2048 / 2 ^ 36) = (t0.vfAt 0).part ∧ tableOk 0 0 (t0.vfAt 0).polseq = true) ∧
    (t0.ctxAt 1).map (fun c => (c.run, c.vf)) = some (.running, 0) ∧
    ((stop.ctxAt 1).map Context.run = some .stopping ∧ stop.canSave 1 = true ∧ stop.homeq = [] ∧ (∀ x ∈ stop.cores, x.answers = [] ∧ x.stns = []) ∧ stop.rowops = []) ∧
    ({ stop with groups := t0.groups }.canSave 1 = false) ∧ (∀ x ∈ t0.blocks, x.ctx = 1 ∧ x.drain = false) ∧ t0.launches = [] ∧
    (∀ x ∈ (onB t0 fun b => { b with drain := true }).blocks, x.ctx = 1 ∧ x.drain = true) ∧
    (let flag := fun (n : Nat) => ({ tLn .ready 0 with header := modAt tHdr 8 fun _ => BitVec.ofNat 8 n } : Launch)
     ∀ n < 4, (flag n).ctx = 1 ∧ (flag n).state = .ready ∧ fieldAt (flag n).header 8 4 / 2 % 2 = n / 2) := by
  decide +kernel

theorem witness_ContextEvents_policy : t0.policyAccepted 0 tPol = Config.sm2Verify (t0.vfAt 0).key (Config.sm3 (tPol.take 64)) (tPol.drop 64) := by
  have h : (policyOk tPol && fieldAt tPol 8 2 == (t0.vfAt 0).tenant && decide (t0.polseq (t0.vfAt 0).tenant ≤ fieldAt tPol 12 4)) = true := by decide +kernel
  unfold State.policyAccepted
  dsimp only
  rw [h, Bool.true_and]

/-- Images that no core could hold, that no core holds now, and that come back; one with a proxy; each for a new command and for one that waits. -/
theorem witness_ContextEvents_restore :
    let im := fun (s : State) (m : Image) => (s.images.find? fun x => x.ctx == 1) = some m
    let one := tImage [placeBlk] [placeGroup 0]
    let px := tImage [placeBlk] [withReg (placeGroup 0) 34 (.px 3 7)]
    ∀ r ∈ [CtxRun.saved, .restoring],
      (let m := tImage [{ placeBlk with irev := 2 }] []
       let s := tSaved r m false
       (s.ctxAt 1).map (fun c => (c.run, c.part)) = some (r, 0) ∧ im s m ∧ s.ctxcap m 0 = some 8) ∧
      (let s := tSaved r one true
       im s one ∧ s.ctxcap one 0 = none ∧ (s.planAll one 0 (dedup (one.cores.map tileOf)) []).isNone = true) ∧
      (let s := tSaved r one false
       im s one ∧ s.ctxcap one 0 = none ∧ (s.planAll one 0 (dedup (one.cores.map tileOf)) []).isSome = true) ∧
      im (tSaved r px false) px ∧ (withReg (placeGroup 0) 34 (.px 3 7)).regs[34]? = some (.px 3 7) := by
  decide +kernel

/-- A launch whose kernel has a safe-point table that maps offset 0 to offset 8 for the target of zeros. -/
theorem witness_ContextEvents_migrate :
    let obj : Loaded := { base := 0x1000000000, dataVa := 0, dataLen := 0, codeLen := 0, digest := [], going := none,
                          safept := List.replicate 16 0 ++ ([1, 0, 0, 0, 2] ++ List.replicate 43 0 ++ [0, 0, 0, 0, 8, 0, 0, 0]) }
    let m := tImage [{ placeBlk with launch := 7 }] [placeGroup 0]
    let s := { tSaved .saved m false with
      launches := [{ tLn .ready 1 with header := modAt tHdr 32 fun _ => 16 }], contexts := [{ placeCtx 0x10000 with run := .saved, objs := [obj] }] }
    let tb := s.safeTable { placeBlk with launch := 7 }
    (s.ctxAt 1).map Context.run = some .saved ∧ (s.images.find? fun x => x.ctx == 1) = some m ∧
      m.blocks.find? (fun x => x.id == (placeGroup 0).block) = some { placeBlk with launch := 7 } ∧ 0 < fieldAt tb 0 4 ∧ fieldAt tb 4 1 = 2 ∧
      (tb.drop 16).take 32 = List.replicate 32 0 ∧ (placeGroup 0).atStarts = true ∧ ((placeGroup 0).threads.mapM (mapThread tb)).isSome = true ∧
      fieldAt tb 4 1 ≠ 3 := by
  decide +kernel

/-- A code object with one kernel, whose text is one END, for some machine. -/
def tObjFile (machine : Nat) : CodeObject :=
  { file := [], eiClass := 2, eiData := 1, eiOsabi := 0, eType := 1, eMachine := machine, eEntry := 0, eFlags := 17, symbols := [], relocs := []
    sections := [⟨".text", 1, 6, 64, leBytes 4 0xFC000000, 4⟩, ⟨".sirzin.kern", 1, 2, 128, tHdr, 128⟩] }

/-- A context with a debugger, whose group is stopped, with a register of values; a partition with no column in use and one with; low water that is
crossed. -/
theorem witness_FirmwareEvents :
    let s := (onG tSel fun g => { g with stopped := true }).modCtx 1 fun c => { c with dbg := some false }
    let col := onB t0 fun b => { b with colSize := 1 }
    let pf := t0.modCtx 1 fun c => { c with policy := List.replicate 7 0 ++ [1] ++ List.replicate 120 0 }
    ([s, t0, col, pf].all fun x => x.power == .ready && (x.ctxAt 1).isSome) = true ∧
    (s.groupAt 0 0 0).map (fun g => (g.ctx, g.stopped)) = some (1, true) ∧ s.debugged 1 = true ∧ t0.debugged 1 = false ∧
    (placeGroup 0).regs[4]? = some (.val (List.replicate 16 0)) ∧ (placeGroup 0).preds.length = 7 ∧
    ((pf.ctxAt 1).map (fun c => fieldAt c.policy 7 1 % 2) = some 1 ∧ (t0.ctxAt 1).map (fun c => fieldAt c.policy 7 1 % 2) = some 0) ∧
    0 < t0.parts.length ∧ (∀ b ∈ t0.blocks, b.colSize = 0) ∧ (col.blocks.any fun b => col.partOf (b.core / 4) == 0 && b.colSize != 0) = true ∧
    t0.freeSectors 0 1 < 5 ∧ (t0.ctxAt 1).map Context.low = some 0 := by
  refine ⟨?_, ?_, ?_⟩ <;> decide +kernel

/-- What the loader finds for an object: a reason to refuse it; a place for it. -/
theorem witness_FirmwareEvents_load :
    let refusal := fun (o : CodeObject) => objRefusal o 65536 65536
    let c := placeCtx 0x10000
    refusal (tObjFile 0) = some 1 ∧ (tObjFile 0).eMachine ≠ 0xC5D8 ∧ refusal (tObjFile 0xC5D8) = none ∧
    (t0.dataRange c 0 = some 65536 ∧ t0.codeWindow c 65536 0 = some 0x1800000000) ∧
    ((t0.placeObject c (tObjFile 0xC5D8) 0x1800000000 65536).map fun u => (u.ctxAt 1).isSome) = some true ∧
    (t0.dataRange { c with root := 0x20000 } 0).isSome = true := by
  decide +kernel

/-- An object that a launch names, and one that none names, asked for in this cycle of the base die and in an earlier one, or not yet; a read on its way. -/
theorem witness_FirmwareEvents_unload :
    let obj : Loaded := { base := 0x1000000000, dataVa := 65536, dataLen := 0, codeLen := 4, safept := [], digest := [], going := none }
    let s := { t0 with contexts := [{ placeCtx 0x10000 with objs := [obj] }] }
    let asked := { t0 with
      contexts := [{ placeCtx 0x10000 with objs := [{ obj with going := some 1 }] }], cores := modAt t0.cores 0 fun k => { k with cyc := 2 } }
    let named := fun (s : State) => s.launches.any fun y => y.ctx == 1 && launchKhdr y.record / 2 ^ 32 * 2 ^ 32 == 0x1000000000
    named { s with launches := [tLn .ready 0] } = true ∧ named s = false ∧ s.accessing 0 = false ∧ asked.accessing 0 = false ∧ named asked = false ∧
      { s with reads := [⟨0, 0x1000, 4, 0, 0, 0, 3, none, 0⟩] }.accessing 0 = true ∧ 1 / 2 ≠ (asked.coreAt 0).cyc / 2 ∧ 1 / 2 = (s.coreAt 0).cyc / 2 ∧
      (asked.ctxAt 1).map (fun c => (c.objs.find? fun y => y.base.toNat == 0x1000000000).map Loaded.going) = some (some (some 1)) ∧
      (s.ctxAt 1).map (fun c => c.objs.find? fun y => y.base.toNat == 0x1000000000) = some (some obj) ∧
      (s.ctxAt 1).map (fun c => c.objs.find? fun y => y.base.toNat == 0x2000000000) = some none := by
  decide +kernel

/-- The states in which the checks of an instruction are shown: its context runs, with no handler, or with one and private memory for the frames. -/
def tChk (f : Group → Group) : State := onG (tTrap none) f

/-- Each check, of IADD with registers 2, 4 and 6, LDS, MOVI and PQRY; a state in which a fault can be taken. -/
theorem witness_IssueChecks :
    let u := withPx (usesRR 2 4 6)
    let um : Uses := { writes := [(2, 1)], xi := true }
    let up : Uses := { tags := [(4, 1)], writes := [(2, 1)], p6 := false }
    let ub : Uses := { also := [(4, 1)], writes := [(2, 1)], p6 := false }
    let ab : Uses := usesR 2 4
    let fails := fun (s : State) (u : Uses) =>
      let i := iss s
      let rev := !u.p6 && i.b.irev == 0
      let pfx := i.g.pfx.dup || i.g.pfx.via || (i.g.pfx.x.isSome && !u.xi) || (i.g.pfx.guard.isSome && !u.guard)
      let range := (u.reads ++ u.also ++ u.tags ++ u.writes).any fun f => decide (f.1.toNat < 96) && decide (i.r.allot - i.b.depth < i.g.win.toNat * 32 + f.1.toNat + f.2)
      let named := fun (fs : List (BitVec 7 × Nat)) => fs.any fun f => (List.range f.2).any fun j => (i.proxy f.1 j).isSome
      let proxy := (!u.px && named u.reads) || named u.plain ||
        (u.toPx && named u.reads && u.writes.any fun f => decide (96 ≤ f.1.toNat) && decide (f.1.toNat < 120))
      let marked := fun (n : Nat) (m : Mask) => i.g.rpoison.any fun e => e.1 == n && decide (e.2 < i.g.grant) &&
        (if 256 ≤ n ∧ n < 272 then m != 0 else m.getLsbD e.2) &&
        (decide (n < 272) || decide (280 ≤ n) || (i.g.threadAt e.2).xmark.getLsbD (n - 272))
      let poison := ((u.reads ++ u.also).any fun f => (List.range f.2).any fun j => match regKey i.g.win f.1 j with
        | some n => marked n i.act
        | none => false) || (match i.g.pfx.guard with
        | some q => marked (288 + q.1.toNat) (i.set &&& i.g.liveMask)
        | none => false)
      ((i.g.sb.any fun e => (i.names u).contains e.1), rev, pfx, i.act == 0, i.g.refused.isSome, range, proxy, poison)
    let ok := fun (s : State) => s.issueCtx.isSome && canonB s && s.groupAt (iss s).g.core (iss s).g.part (iss s).g.slot == some (iss s).g &&
      (s.ctxAt (iss s).g.ctx).map Context.run == some .running && decide ((iss s).b.privSize + 128 ≤ 2 ^ 17)
    let none_ := (false, false, false, false, false, false, false, false)
    let at_ := fun (f : Group → Group) (us : List Uses) (x : Bool × Bool × Bool × Bool × Bool × Bool × Bool × Bool) =>
      us.all fun u => ok (tChk f) && fails (tChk f) u == x
    at_ id [u, um, up, ub, ab] none_ = true ∧ at_ (fun g => { g with sb := [(4, .handle)] }) [u] (true, none_.2) = true ∧
    (ok (onB (tChk id) fun b => { b with irev := 0 }) && fails (onB (tChk id) fun b => { b with irev := 0 }) up == (false, true, none_.2.2)) = true ∧
    at_ (fun g => { g with pfx := { g.pfx with x := some 1 } }) [u] (false, false, true, none_.2.2.2) = true ∧
    at_ (fun g => { g with preds := [0], pfx := { g.pfx with guard := some (0, 0) } }) [u] (false, false, false, true, none_.2.2.2.2) = true ∧
    at_ (fun g => { g with refused := some 0x10000 }) [u] (false, false, false, false, true, none_.2.2.2.2.2) = true ∧
    at_ (fun g => { g with win := 2 }) [u, up] (false, false, false, false, false, true, none_.2.2.2.2.2.2) = true ∧
    at_ (fun g => withReg g 4 (.px 3 7)) [ab, withPx (usesRR 100 4 6)] (false, false, false, false, false, false, true, false) = true ∧
    at_ (fun g => { g with rpoison := [(4, 5)] }) [u, ub] (false, false, false, false, false, false, false, true) = true ∧
    at_ (fun g => { g with rpoison := [(260, 0)] }) [withPx (usesRR 2 100 6)] (false, false, false, false, false, false, false, true) = true ∧
    at_ (fun g => { g with rpoison := [(274, 5)], threads := modAt g.threads 5 fun t => { t with xmark := 4 } }) [withPx (usesRR 2 114 6)]
      (false, false, false, false, false, false, false, true) = true ∧
    at_ (fun g => { g with preds := [1], pfx := { g.pfx with guard := some (0, 0) }, rpoison := [(288, 5)] }) [u]
      (false, false, false, false, false, false, false, true) = true := by
  refine ⟨?_, ?_, ?_⟩ <;> decide +kernel

theorem witness_IssueChecks_faultable : Faultable (tChk id) (iss (tChk id)) ∧ ∀ x, decode (0x54000000 : Word).toNat ≠ .ok x :=
  ⟨⟨canonical_of (by decide +kernel), by decide +kernel, ⟨{ placeCtx 0x10000 with dbg := none }, by decide +kernel, by decide⟩, by decide +kernel⟩,
    fun x h => by
      have h' : (match decode 0x54000000 with | .ok _ => true | .error _ => false) = false := by decide +kernel
      have h : decode 0x54000000 = .ok x := h
      rw [h] at h'
      exact Bool.noConfusion h'⟩

/-- What the step fetches: the page of 2^36, which lies at the foot of stack 0. -/
def fetchGot (s : State) : Nat × Addr × State :=
  match s.walkTo 0 1 0x1000000000 .fetch with | (.ok pa w, u) => (pa, w, u) | (.bad _ _ _, u) => (0, 0, u)

theorem fetchGot_ok {s : State} (h : (match s.walkTo 0 1 0x1000000000 .fetch with | (.ok _ _, _) => true | _ => false) = true) :
    s.walkTo 0 1 0x1000000000 .fetch = (.ok (fetchGot s).1 (fetchGot s).2.1, (fetchGot s).2.2) := by
  unfold fetchGot
  generalize s.walkTo 0 1 0x1000000000 .fetch = p at h ⊢
  obtain ⟨e, u⟩ := p
  cases e <;> simp_all

/-- A word that decodes, one that does not, and a run of 24 words; a group that is charged for more slots, or for its last with its step bit set; a slot
that is withheld; none that issues; an event; no power. -/
theorem witness_StepRunsDecoded :
    (∀ w ∈ [(0x20407CE0 : Nat), 0x54000000], ∀ n ∈ [0, 24],
      let s := onG { t0 with mem := wrBytes t0.mem 0 (leBytes 4 w) } fun g => { g with pos := n }
      ∃ pa leaf u, s.walkTo 0 1 0x1000000000 .fetch = (.ok pa leaf, u) ∧
        (s.power = .ready ∧ s.agenda = [] ∧ (∀ x ∈ s.contexts, x.ending = none) ∧ (iss t0).g.refused = none ∧ s.issuer = some { (iss t0).g with pos := n } ∧ s.damped 0 = false ∧ s.capped 0 1 = false ∧
          (iss t0).g.busy = 0 ∧ s.blockAt 0 = some placeBlk ∧ leaf.getLsbD 58 = false ∧ (u.agentRead 0 1 pa 4 leaf).1.2 = false ∧
          ({ u with poison := [pa / 128] }.agentRead 0 1 pa 4 leaf).1.2 = true ∧
          BitVec.ofNat 32 (leNat (rdBytes u.mem pa 4)) = BitVec.ofNat 32 w ∧ isEnd (BitVec.ofNat 32 w) = false)) ∧
    (let a := placeBlk.base + (iss t0).g.here.setWidth 64
     a.toNat % 2 ^ 57 = 0x1000000000 ∧ globalFault a = none ∧ globalFault 0xFFFF = some 0x21) ∧ (iss t0).g.pos < 24 ∧ t0.port / 4 = 0 ∧ t0.port % 4 = 0 ∧
    (let s := t0.modCtx 1 fun c => { c with ending := some ⟨0x26, 0, 0, 0, 0, 0, 0, 0⟩ }
     s.power = .ready ∧ s.agenda = [] ∧ s.port = 0 ∧ (s.ctxAt 1).map (fun c => (c.run, c.ending.map Ending.code)) = some (.running, some 0x26) ∧
       ∀ x ∈ s.contexts, x.id = 1) ∧
    (∀ n ∈ [1, 2], (onG t0 fun g => { g with busy := n, stepBit := true }).issuer.map (fun g => (g.busy, g.stepBit)) = some (n, true)) ∧
    (let s := { t0 with cores := modAt t0.cores 0 fun k => { k with damper := 7, cyc := 7 } }
     s.power = .ready ∧ s.agenda = [] ∧ s.issuer.isSome = true ∧ s.damped 0 = true) ∧ tSel.issuer = none ∧
    ({ t0 with agenda := [.writePerformed 0] }.power ≠ .off ∧ { t0 with power := .off }.power = .off) := by
  refine ⟨?_, by decide +kernel⟩
  intro w hw n hn
  simp only [List.mem_cons, List.not_mem_nil, or_false] at hw hn
  obtain rfl | rfl := hw <;> obtain rfl | rfl := hn <;> exact ⟨_, _, _, fetchGot_ok (by decide +kernel), by decide +kernel⟩

theorem witness_StepRunsDecoded_select : ∃ t, exec (.runSelect (tSel.port / 4) (tSel.port % 4)) tSel = .next t := by
  have h : (match exec (.runSelect (tSel.port / 4) (tSel.port % 4)) tSel with | .next _ => true | _ => false) = true := by decide +kernel
  generalize exec (.runSelect (tSel.port / 4) (tSel.port % 4)) tSel = o at h ⊢
  cases o with
  | next t => exact ⟨t, rfl⟩
  | fault f => exact Bool.noConfusion h
  | refused r => exact Bool.noConfusion h

theorem witness_RoundTrip :
    (Instr.iadd 1 4 6 8).isEvent = false ∧ (Instr.iadd 1 4 6 8).wf = true ∧ 0x20407CE0 < 2 ^ 32 ∧ decode 0x20407CE0 = .ok (.icmpS32 2 1 121 96) := by
  decide +kernel

/-- Whether Inv holds. -/
def invB (s : State) : Bool :=
  canonB s && decide (s.port < 320) && s.cores.length == 80 && s.tiles.length == 20 && s.parts.length == 20 && s.vfs.length == 64 && s.ports.length == 8

theorem inv_of {s : State} (h : invB s = true) : Inv s := by
  simp only [invB, Bool.and_eq_true, decide_eq_true_eq, beq_iff_eq] at h
  obtain ⟨⟨⟨⟨⟨⟨c, p⟩, k⟩, t⟩, i⟩, v⟩, x⟩ := h
  exact ⟨canonical_of c, p, k, t, i, v, x⟩

/-- The state after reset has the invariant, and takes a step. -/
theorem witness_StepInvariant : Inv State.reset ∧ step State.reset = .next State.reset := ⟨inv_of (by decide +kernel), rfl⟩

/-- A state in which a group issues has it, and the word of its run gives a next state. -/
theorem witness_StepInvariant_run :
    let s := { t0 with mem := wrBytes t0.mem 0 (leBytes 4 (encode (.iadd 0 2 4 6))) }
    Inv s ∧ (match step s with | .next t => decide (t.port = 1) && ((t.groupAt 0 0 0).map fun g => g.pos) == some 1 | _ => false) = true :=
  ⟨inv_of (by decide +kernel), by decide +kernel⟩

/-- Lane 0 of register 2 after an instruction that reads registers 4 and 6, with a, b there and d in register 2 before. -/
def tAlu (x : Instr) (a b d : Word) : Option Word :=
  match exec x (setV (setV (setV t0 4 a) 6 b) 2 d) with
  | .next t => 
    match t.groupAt 0 0 0 with
    | some g => (match g.regs[2]? with | some (VReg.val v) => v[0]? | _ => none)
    | none => none
  | _ => none

/-- R80: 2^32 is 0; IMUL keeps the low half. -/
theorem test_integer_wraps : tAlu (.iadd 0 2 4 6) 0xFFFFFFFF 1 7 = some 0 ∧ tAlu (.imul 2 4 6) 0x10001 0x10001 7 = some 0x20001 := by decide +kernel

/-- R84: a count of 32 or more gives 0, or the sign in every bit. -/
theorem test_shifts : tAlu (.shl 2 4 6) 1 32 7 = some 0 ∧ tAlu (.sar 2 4 6) 0x80000000 40 7 = some 0xFFFFFFFF := by decide +kernel

/-- The example after R87: 0x105 inserts the low 8 bits of a at bit 5. -/
theorem test_bfi_example : tAlu (.bfi 2 4 6) 0xABC 0x105 0xFFFFFFFF = some 0xFFFFF79F := by decide +kernel

/-- The examples after R88, of a = 0x44332211 and d = 0x88776655. -/
theorem test_prmt_examples :
    [0x688, 0x053, 0xB08, 0xE000, 0x88688].map (fun c => tAlu (.prmt 2 4 6) 0x44332211 c 0x88776655) =
      [some 0x44332211, some 0x11223344, some 0x66552211, some 0x11, some 0xFF332211] := by decide +kernel

/-- The examples after R97: 500.0 to E4M3 without and with .sat; -3.7 to i32; 300 to ui8 without and with .sat. -/
theorem test_cvt_examples :
    tAlu (.cvt 0 0 2 4 3 0 0) 0x43FA0000 0 0 = some 0x7F ∧ tAlu (.cvt 0 0 2 4 3 0 1) 0x43FA0000 0 0 = some 0x7E ∧
    tAlu (.cvt 1 0 2 4 5 0 0) 0xC06CCCCD 0 0 = some 0xFFFFFFFD ∧ tAlu (.cvt 0 5 2 4 8 0 0) 300 0 0 = some 44 ∧
    tAlu (.cvt 0 5 2 4 8 0 1) 300 0 0 = some 255 := by decide +kernel

/-- R68: the values beside the midpoint 0.08203125 give code 8, as does a NaN; minus zero gives code 7. -/
theorem test_q4_examples :
    tAlu (.cvt 0 0 2 4 13 0 0) 0x3DA80000 0 0 = some 8 ∧ tAlu (.cvt 0 0 2 4 13 0 0) 0x3DA80001 0 0 = some 9 ∧
    tAlu (.cvt 0 0 2 4 13 0 0) 0x7FC00000 0 0 = some 8 ∧ tAlu (.cvt 0 0 2 4 13 0 0) 0x80000000 0 0 = some 7 := by decide +kernel

/-- The example after R62: 1.5 × 2^14 with the smallest E5M2 subnormal: the scale is 2^7, 0x74 and 0, one event. -/
theorem test_rebase_example : rebase Fmt.e5m2 [0x76, 0x01] = ([0x74, 0x00], 0x43000000, 1) := by decide +kernel

/-- R64, R192: 2^24 + 1.0 rounds back to 2^24 (chapter 21). -/
theorem test_fadd_rounds : tAlu (.fadd 0 2 4 6) 0x4B800000 0x3F800000 0 = some 0x4B800000 := by decide +kernel

/-- The example after R398: cap level 3 leaves the cycles 0 to 4 of a frame of 8, damper level 2 the cycles 0 to 5. -/
theorem test_damper_example :
    (List.range 8).map (fun c => let s := { t0 with
        cores := modAt t0.cores 0 fun k => { k with cyc := c, damper := 2 }, vfs := modAt t0.vfs 0 fun v => { v with cap := 3 } }
      (s.damped 0, s.capped 0 1)) = (List.range 8).map fun c => (decide (6 ≤ c), decide (5 ≤ c)) := by
  decide +kernel

/-- The words of a source and the codes of its diagnostics. -/
def assembled (t : String) : List Nat × List (Bool × Nat) :=
  let a := Horek.assembleText { src := "a.s" } [] t
  (a.words, a.diags.map fun d => (d.warn, d.code))

/-- Source: the listing of chapter The horek assembler, which names each word. -/
theorem test_horek_bump :
    assembled ".kernel  bump\n.scratch 4096\n        SRD       v3, THRIDX\n        SHL       v3, v3, 2\n        MOVI      v6, 100000\nloop:   LDS.b32   v4, [v3+1024]\n        IADD      v4, v4, 70\n        STS.b32   [v3+1024], v4\n        ISUB      v6, v6, 1\n        ICMP.gt   p1, v6, 0\n        BRA       p1, loop\n        EXIT\n        END\n" =
      ([0xF000C00A, 0x1480C182, 0xFC800006, 0x3C0186A0, 0xFC000000, 0x381E3C00, 0xFC800002, 0x9C010180, 0xFC800000, 0x04010246, 0xFC800002,
        0x9C210180, 0x04218301, 0x24804300, 0xD0BFFFF7, 0xE0800000, 0xFC000000], []) := by decide +kernel

/-- Source: R348, R352 and R358: a register that window 0 does not name is E05, and no object is written. -/
theorem test_horek_window :
    let r := Horek.horek ["-Werror", "a.s"] [("a.s", ".kernel k\nIADD v100, v1, 1\nEXIT\nEND\n")]
    r.status = 1 ∧ r.object = none ∧ r.errors = ["a.s:2: E05: Register outside the window in force"] := by decide +kernel

/-- Source: R49, whose table gives the words of scale. -/
theorem test_horek_scale :
    assembled ".kernel scale\n ICMP.lt p1, %lane, s0\n LEA.x2 v2, s2, %lane, 2\n ?p1 LD.b32 v4, [v2+0]\n END await=v4\n MOVI v5, 0x3F80_0000\n FFMA.rn v5, v4, s1\n ?p1 ST.b32 [v2+0], v5\n EXIT\n END" =
      ([0x20407CE0, 0x0D40B179, 0xFD100000, 0x90810100, 0xFC004200, 0xFC80FE00, 0x3C014000, 0x40614261, 0xFD100000, 0x94814100, 0xE0800000,
        0xFC000000], []) := by decide +kernel

end Sys2Proof.Machine
end

section
/-! SUPPORT. The statements of the integer, logic and bit-field instructions (R80 to R88). -/

namespace Sys2Proof.Machine

/-! The shapes of R76 and R78 with the operand fields spelled out: what is left of an instruction is its function of one lane. -/

theorem gives_aluRR {s : State} {i : Iss} {x : Instr} {d a b : BitVec 7} (fn : HomeFn) {v : Nat → Word}
    (hx : exec x s = alu2 s d a (.reg b) fn) (hv : ∀ l, fn.eval l (i.rd a 0 l) (i.rd b 0 l) 0 = v l) :
    Gives s i x (withPx (usesRR d a b)) i.wr d [v] := gives_congr1 (alu2_gives hx) hv

theorem gives_aluRI {s : State} {i : Iss} {x : Instr} {d a k : BitVec 7} (fn : HomeFn) {v : Nat → Word}
    (hx : exec x s = alu2 s d a (.int k) fn) (hv : ∀ l, fn.eval l (i.rd a 0 l) (immI i.x k) 0 = v l) :
    Gives s i x (withPx (usesRI d a)) i.wr d [v] := gives_congr1 (alu2_gives hx) hv

theorem gives_laneR {s : State} {i : Iss} {x : Instr} {d a : BitVec 7} {f : Word → Word} {v : Nat → Word}
    (hx : exec x s = lane1 s d a f) (hv : ∀ l, f (i.rd a 0 l) = v l) :
    Gives s i x (usesR d a) i.wr d [v] := gives_congr1 (lane1_gives hx) hv

theorem gives_laneRR {s : State} {i : Iss} {x : Instr} {d a b : BitVec 7} {f : Word → Word → Word} {v : Nat → Word}
    (hx : exec x s = lane2 s d a (.reg b) f) (hv : ∀ l, f (i.rd a 0 l) (i.rd b 0 l) = v l) :
    Gives s i x (usesRR d a b) i.wr d [v] := gives_congr1 (lane2_gives hx) hv

theorem gives_laneRI {s : State} {i : Iss} {x : Instr} {d a k : BitVec 7} {f : Word → Word → Word} {v : Nat → Word}
    (hx : exec x s = lane2 s d a (.int k) f) (hv : ∀ l, f (i.rd a 0 l) (immI i.x k) = v l) :
    Gives s i x (usesRI d a) i.wr d [v] := gives_congr1 (lane2_gives hx) hv

theorem gives_laneRRD {s : State} {i : Iss} {x : Instr} {d a b : BitVec 7} {f : Word → Word → Word → Word} {v : Nat → Word}
    (hx : exec x s = lane3 s d a (.reg b) f) (hv : ∀ l, f (i.rd a 0 l) (i.rd b 0 l) (i.rd d 0 l) = v l) :
    Gives s i x (usesRRD d a b) i.wr d [v] := gives_congr1 (lane3_gives hx) hv

theorem gives_laneRID {s : State} {i : Iss} {x : Instr} {d a k : BitVec 7} {f : Word → Word → Word → Word} {v : Nat → Word}
    (hx : exec x s = lane3 s d a (.int k) f) (hv : ∀ l, f (i.rd a 0 l) (immI i.x k) (i.rd d 0 l) = v l) :
    Gives s i x (usesRID d a) i.wr d [v] := gives_congr1 (lane3_gives hx) hv

/-! The functions of R80 to R83. -/

theorem iminS_eq (x y : Word) : iminS x y = if x.toInt < y.toInt then x else y := by simp [iminS, BitVec.slt]
theorem imaxS_eq (x y : Word) : imaxS x y = if x.toInt < y.toInt then y else x := by simp [imaxS, BitVec.slt]
theorem iminU_eq (x y : Word) : iminU x y = if x.toNat < y.toNat then x else y := by simp [iminU, BitVec.ult]
theorem imaxU_eq (x y : Word) : imaxU x y = if x.toNat < y.toNat then y else x := by simp [imaxU, BitVec.ult]

/-- Byte n of a word, as IDP4 reads it: signed or unsigned (R80). -/
def dotByte (signed : Bool) (w : Word) (n : Nat) : Int :=
  if signed then ((w >>> (8 * n)).setWidth 8).toInt else (((w >>> (8 * n)).setWidth 8).toNat : Int)

theorem dp4_eq (signed : Bool) (x y z : Word) :
    dp4 signed x y z = z + BitVec.ofInt 32 (dotByte signed x 0 * dotByte signed y 0 + dotByte signed x 1 * dotByte signed y 1 +
      dotByte signed x 2 * dotByte signed y 2 + dotByte signed x 3 * dotByte signed y 3) := by
  have hr : List.range 4 = [0, 1, 2, 3] := rfl
  simp only [dp4, hr, List.foldl_cons, List.foldl_nil, Int.zero_add, dotByte]

/-- LEA's shift is a multiplication by the scale (R83). -/
theorem shiftLeft_eq_mul_scale (x : Addr) (n : Nat) : x <<< n = x * BitVec.ofNat 64 (2 ^ n) := by
  rw [BitVec.shiftLeft_eq_mul_twoPow]
  congr 1
  apply BitVec.eq_of_toNat_eq
  rw [BitVec.toNat_twoPow, BitVec.toNat_ofNat]

/-- LEA writes the pair of its scaled sum (R83). -/
theorem lea_gives (s : State) (i : Iss) (f : BitVec 3) (d a b : BitVec 7) :
    Gives s i (.lea f d a b) { reads := [(a, 2), (b, 1)], writes := [(d, 2)] } i.wr d
      (words2 fun l => i.rd2 a l + (i.rd b 0 l).signExtend 64 * BitVec.ofNat 64 (2 ^ f.toNat)) := by
  refine gives_of_body (exec_lea f d a b s) (by simp : (d, 2) ∈ [(d, 2)]) rfl fun _ => ?_
  simp only [writePair_reqs, shiftLeft_eq_mul_scale, words2]

/-! IADD and ISUB work on words with W = 0 and on pairs with W = 1 (R81). -/

theorem iadd_word (s : State) (d a b : BitVec 7) : exec (.iadd 0 d a b) s = alu2 s d a (.reg b) .iadd := rfl
theorem iaddImm_word (s : State) (d a k : BitVec 7) : exec (.iaddImm 0 d a k) s = alu2 s d a (.int k) .iadd := rfl
theorem isub_word (s : State) (d a b : BitVec 7) : exec (.isub 0 d a b) s = alu2 s d a (.reg b) .isub := rfl
theorem isubImm_word (s : State) (d a k : BitVec 7) : exec (.isubImm 0 d a k) s = alu2 s d a (.int k) .isub := rfl
theorem iadd_pair (s : State) (d a b : BitVec 7) : exec (.iadd 1 d a b) s = pair2 s d a (.reg b) (· + ·) := rfl
theorem iaddImm_pair (s : State) (d a k : BitVec 7) : exec (.iaddImm 1 d a k) s = pair2 s d a (.int k) (· + ·) := rfl
theorem isub_pair (s : State) (d a b : BitVec 7) : exec (.isub 1 d a b) s = pair2 s d a (.reg b) (· - ·) := rfl
theorem isubImm_pair (s : State) (d a k : BitVec 7) : exec (.isubImm 1 d a k) s = pair2 s d a (.int k) (· - ·) := rfl

/-- Settles O1: each instruction has one of the shapes of R76, R78 and R81, and its function of a lane is that of the tables. -/
theorem integerResults : Obligations.IntegerResults := by
  unfold Obligations.IntegerResults
  intro s i d a b k f A B D K one two dot s8 ui8
  exact ⟨gives_aluRR .iadd (iadd_word ..) fun _ => rfl, gives_aluRI .iadd (iaddImm_word ..) fun _ => rfl,
    gives_aluRR .isub (isub_word ..) fun _ => rfl, gives_aluRI .isub (isubImm_word ..) fun _ => rfl,
    gives_aluRR .imul (exec_imul ..) fun _ => rfl, gives_aluRI .imul (exec_imulImm ..) fun _ => rfl,
    gives_laneRR (exec_imulhS32 ..) fun _ => rfl, gives_laneRI (exec_imulhS32Imm ..) fun _ => rfl, gives_laneRR (exec_imulhUi32 ..) fun _ => rfl,
    gives_aluRR .iminS (exec_iminS32 ..) fun _ => iminS_eq _ _, gives_aluRI .iminS (exec_iminS32Imm ..) fun _ => iminS_eq _ _,
    gives_aluRR .imaxS (exec_imaxS32 ..) fun _ => imaxS_eq _ _, gives_aluRI .imaxS (exec_imaxS32Imm ..) fun _ => imaxS_eq _ _,
    gives_aluRR .iminU (exec_iminUi32 ..) fun _ => iminU_eq _ _, gives_aluRR .imaxU (exec_imaxUi32 ..) fun _ => imaxU_eq _ _,
    gives_laneRRD (exec_imad ..) fun _ => rfl, gives_laneRID (exec_imadImm ..) fun _ => rfl,
    gives_laneRRD (exec_idp4S8 ..) fun _ => dp4_eq true _ _ _, gives_laneRRD (exec_idp4Ui8 ..) fun _ => dp4_eq false _ _ _,
    gives_laneR (exec_iabs ..) fun _ => rfl,
    pair2_gives (iadd_pair ..), pair2_gives (iaddImm_pair ..), pair2_gives (isub_pair ..), pair2_gives (isubImm_pair ..), lea_gives s i f d a b⟩

/-! The shifts of R84 and R85. -/

theorem shlW_eq (x n : Word) : shlW x n = if n.toNat < 32 then BitVec.ofNat 32 (x.toNat * 2 ^ n.toNat) else 0 := by
  unfold shlW
  split
  · apply BitVec.eq_of_toNat_eq
    rw [BitVec.toNat_shiftLeft, Nat.shiftLeft_eq, BitVec.toNat_ofNat]
  · rfl

theorem shrW_eq (x n : Word) : shrW x n = if n.toNat < 32 then BitVec.ofNat 32 (x.toNat / 2 ^ n.toNat) else 0 := by
  unfold shrW
  split
  · rw [← Nat.shiftRight_eq_div_pow, ← BitVec.toNat_ushiftRight, BitVec.ofNat_toNat, BitVec.setWidth_eq]
  · rfl

/-- An arithmetic shift is a division that rounds down. -/
theorem sshiftRight_eq_div (x : Word) (n : Nat) : x.sshiftRight n = BitVec.ofInt 32 (x.toInt / 2 ^ n) := by
  rw [BitVec.sshiftRight, Int.shiftRight_eq_div_pow]
  norm_cast

/-- An arithmetic shift by the width leaves the sign in every bit. -/
theorem sshiftRight_width (x : Word) : x.sshiftRight 32 = if 0 ≤ x.toInt then 0 else 0xFFFFFFFF := by
  have hlo := BitVec.le_toInt x
  have hhi := BitVec.toInt_lt (x := x)
  rw [sshiftRight_eq_div]
  split
  · have : x.toInt / 2 ^ 32 = 0 := by omega
    rw [this]; rfl
  · have : x.toInt / 2 ^ 32 = -1 := by omega
    rw [this]; rfl

theorem sarW_eq (x n : Word) :
    sarW x n = if n.toNat < 32 then BitVec.ofInt 32 (x.toInt / 2 ^ n.toNat) else if 0 ≤ x.toInt then 0 else 0xFFFFFFFF := by
  unfold sarW
  split
  · next h => rw [Nat.min_eq_left (Nat.le_of_lt h), sshiftRight_eq_div]
  · next h => rw [Nat.min_eq_right (Nat.le_of_not_lt h), sshiftRight_width]

/-- The number that two words side by side stand for. -/
theorem append_toNat (x z : Word) : (x ++ z).toNat = x.toNat * 2 ^ 32 + z.toNat := by
  rw [BitVec.toNat_append, ← Nat.shiftLeft_add_eq_or_of_lt z.isLt, Nat.shiftLeft_eq]

theorem shfW_eq (x n z : Word) :
    shfW x n z = BitVec.ofNat 32 ((x.toNat * 2 ^ 32 + z.toNat) / 2 ^ (min n.toNat 32)) := by
  apply BitVec.eq_of_toNat_eq
  rw [shfW, BitVec.toNat_setWidth, BitVec.toNat_ushiftRight, append_toNat, Nat.shiftRight_eq_div_pow, BitVec.toNat_ofNat]

/-- Settles O2: the logic functions are those of the table; the shifts of R84 and R85 are products and quotients by powers of two, with counts of 32 and more apart. -/
theorem logicResults : Obligations.LogicResults := by
  unfold Obligations.LogicResults
  intro s i d a b k A B D K one shl shr sar shf
  exact ⟨gives_aluRR .and (exec_and ..) fun _ => rfl, gives_aluRI .and (exec_andImm ..) fun _ => rfl,
    gives_aluRR .or (exec_or ..) fun _ => rfl, gives_aluRI .or (exec_orImm ..) fun _ => rfl,
    gives_aluRR .xor (exec_xor ..) fun _ => rfl, gives_aluRI .xor (exec_xorImm ..) fun _ => rfl,
    gives_laneRR (exec_andn ..) fun _ => rfl, gives_laneRI (exec_andnImm ..) fun _ => rfl,
    gives_aluRR .shl (exec_shl ..) fun _ => shlW_eq _ _, gives_aluRI .shl (exec_shlImm ..) fun _ => shlW_eq _ _,
    gives_aluRR .shr (exec_shr ..) fun _ => shrW_eq _ _, gives_aluRI .shr (exec_shrImm ..) fun _ => shrW_eq _ _,
    gives_aluRR .sar (exec_sar ..) fun _ => sarW_eq _ _, gives_aluRI .sar (exec_sarImm ..) fun _ => sarW_eq _ _,
    gives_laneRRD (exec_shf ..) fun _ => shfW_eq _ _ _, gives_laneRID (exec_shfImm ..) fun _ => shfW_eq _ _ _⟩

/-! Bit reversal (R86). -/

/-- The powers of two added so far, one for each set bit read from the lowest on, are the bits read, the last one lowest, above the
w - m places still to come. -/
theorem foldl_reversed_bits (f : Nat → Bool) (w m : Nat) (h : m ≤ w) :
    ∃ q, (List.range m).foldl (fun t k => if f k then t + 2 ^ (w - 1 - k) else t) 0 = 2 ^ (w - m) * q ∧
      ∀ n < m, q.testBit n = f (m - 1 - n) := by
  induction m with
  | zero => exact ⟨0, by simp, fun n hn => absurd hn (Nat.not_lt_zero n)⟩
  | succ m ih =>
    obtain ⟨q, hq, hbits⟩ := ih (by omega)
    refine ⟨Nat.bit (f m) q, ?_, fun n hn => ?_⟩
    · have hpow : 2 ^ (w - m) = 2 ^ (w - (m + 1)) * 2 := by rw [← Nat.pow_succ]; congr 1; omega
      have hplace : w - 1 - m = w - (m + 1) := by omega
      rw [List.range_succ, List.foldl_append, hq, hpow, Nat.bit_val]
      cases hf : f m
      · simp [hf, Nat.mul_assoc]
      · simp [hf, hplace, Nat.mul_assoc, Nat.mul_add]
    · cases n with
      | zero => rw [Nat.testBit_bit_zero]; rfl
      | succ n =>
        rw [Nat.testBit_bit_succ, hbits n (by omega)]
        congr 1
        omega

theorem brevW_getLsbD (x : Word) (n : Nat) (hn : n < 32) : (brevW x).getLsbD n = x.getLsbD (31 - n) := by
  obtain ⟨q, hq, hbits⟩ := foldl_reversed_bits x.getLsbD 32 32 (Nat.le_refl 32)
  rw [Nat.sub_self, Nat.pow_zero, Nat.one_mul] at hq
  rw [brevW, hq, BitVec.getLsbD_ofNat, hbits n hn, decide_eq_true hn, Bool.true_and]

/-! Bit fields (R87). -/

/-- The position of a field control (R87). -/
def fieldPos (c : Word) : Nat := c.toNat % 32
/-- The length of a field control (R87). -/
def fieldLen (c : Word) : Nat := min (c.toNat / 32 % 64) (32 - fieldPos c)
/-- The bits of a word that a field control names, as a number (R87). -/
def fieldBits (x c : Word) : Nat := x.toNat / 2 ^ fieldPos c % 2 ^ fieldLen c

theorem fieldCtl_eq (c : Word) : fieldCtl c = (fieldPos c, fieldLen c) := by
  have hpos : bitsOf c 4 0 = fieldPos c := by rw [bitsOf, Nat.pow_zero, Nat.div_one]; rfl
  have hlen : bitsOf c 10 5 = c.toNat / 32 % 64 := rfl
  rw [fieldCtl, hpos, hlen]; rfl

theorem bfxW_unsigned (x c : Word) : bfxW false x c = BitVec.ofNat 32 (fieldBits x c) := by
  rw [bfxW, fieldCtl_eq]; rfl

/-- The signed field: its top bit counts negative; an empty field is 0 (R87). -/
theorem bfxW_signed (x c : Word) :
    bfxW true x c = if fieldLen c ≠ 0 ∧ fieldBits x c / 2 ^ (fieldLen c - 1) = 1
      then BitVec.ofInt 32 (fieldBits x c - 2 ^ fieldLen c) else BitVec.ofNat 32 (fieldBits x c) := by
  rw [bfxW, fieldCtl_eq]
  exact if_congr (by simp [fieldBits]) rfl rfl

/-- The mask of a field control (R87). -/
def fieldMask (c : Word) : Word := BitVec.ofNat 32 ((2 ^ fieldLen c - 1) * 2 ^ fieldPos c)

theorem bfiW_eq (x c z : Word) : bfiW x c z = (z &&& ~~~fieldMask c) ||| ((x <<< fieldPos c) &&& fieldMask c) := by
  rw [bfiW, fieldCtl_eq]; rfl

/-! Byte permutes (R88). -/

/-- Byte n of PRMT's result, as a number (R88). -/
def prmtByte (x c z : Word) (n : Nat) : Nat :=
  let v := if c.getLsbD (12 + n) then 0 else (x.toNat + z.toNat * 2 ^ 32) / 2 ^ (8 * bitsOf c (3 * n + 2) (3 * n)) % 256
  if c.getLsbD (16 + n) then 255 - v else v

theorem prmtByte_lt (x c z : Word) (n : Nat) : prmtByte x c z n < 256 := by
  unfold prmtByte
  dsimp only
  split <;> split <;> omega

theorem prmtW_eq_foldl (x c z : Word) :
    prmtW x c z = BitVec.ofNat 32 ((List.range 4).foldl (fun t k => t + prmtByte x c z k * 2 ^ (8 * k)) 0) := rfl

theorem foldl_range_four (f : Nat → Nat) : (List.range 4).foldl (fun t k => t + f k) 0 = f 0 + f 1 + f 2 + f 3 := by
  simp [List.range_succ]

/-- Byte n of the word that four bytes make. -/
theorem foldl_bytes_byte (b : Nat → Nat) (hb : ∀ k, b k < 256) (n : Nat) (hn : n < 4) :
    (BitVec.ofNat 32 ((List.range 4).foldl (fun t k => t + b k * 2 ^ (8 * k)) 0)).toNat / 2 ^ (8 * n) % 256 = b n := by
  have h0 := hb 0
  have h1 := hb 1
  have h2 := hb 2
  have h3 := hb 3
  rw [BitVec.toNat_ofNat, foldl_range_four fun k => b k * 2 ^ (8 * k)]
  interval_cases n <;> omega

theorem prmtW_toNat_byte (x c z : Word) (n : Nat) (hn : n < 4) : (prmtW x c z).toNat / 2 ^ (8 * n) % 256 = prmtByte x c z n := by
  rw [prmtW_eq_foldl, foldl_bytes_byte _ (prmtByte_lt x c z) n hn]

theorem extractLsb'_toNat_byte {w : Nat} (x : BitVec w) (k : Nat) : (x.extractLsb' k 8).toNat = x.toNat / 2 ^ k % 256 := by
  rw [BitVec.extractLsb'_toNat, Nat.shiftRight_eq_div_pow]

/-- The number of a selected byte after zeroing and inversion. -/
theorem toNat_zeroed_inverted (p q : Bool) (v : BitVec 8) :
    (if q then ~~~(if p then 0 else v) else (if p then 0 else v)).toNat =
      if q then 255 - (if p then 0 else v.toNat) else (if p then 0 else v.toNat) := by
  cases q <;> cases p <;> simp [BitVec.toNat_not]

theorem selector_eq (c : Word) (n : Nat) : (c >>> (3 * n)).toNat % 8 = bitsOf c (3 * n + 2) (3 * n) := by
  have hw : 3 * n + 2 + 1 - 3 * n = 3 := by omega
  rw [bitsOf, hw, BitVec.toNat_ushiftRight, Nat.shiftRight_eq_div_pow]
  rfl

/-- A byte of PRMT's result by its selector and the bits of ZM and IM (R88). -/
theorem prmtW_byte (x c z : Word) (n : Nat) (hn : n < 4) :
    let v := (z ++ x).extractLsb' (8 * ((c >>> (3 * n)).toNat % 8)) 8
    let v := if c.getLsbD (12 + n) then 0 else v
    (prmtW x c z).extractLsb' (8 * n) 8 = if c.getLsbD (16 + n) then ~~~v else v := by
  apply BitVec.eq_of_toNat_eq
  rw [extractLsb'_toNat_byte, prmtW_toNat_byte x c z n hn, toNat_zeroed_inverted, extractLsb'_toNat_byte, append_toNat, selector_eq,
    Nat.add_comm (z.toNat * 2 ^ 32)]
  rfl

/-- Settles O3: counts are as defined, fields by their control, permutes by their bytes. -/
theorem bitFieldResults : Obligations.BitFieldResults := by
  unfold Obligations.BitFieldResults
  intro s i d a b k A B D K one pos len ufield sfield ins
  exact ⟨gives_laneR (exec_popc ..) fun _ => rfl, gives_laneR (exec_clz ..) fun _ => rfl, gives_laneR (exec_brev ..) fun _ => rfl, brevW_getLsbD,
    gives_laneRR (exec_bfxUi32 ..) fun _ => bfxW_unsigned _ _, gives_laneRI (exec_bfxUi32Imm ..) fun _ => bfxW_unsigned _ _,
    gives_laneRR (exec_bfxS32 ..) fun _ => bfxW_signed _ _, gives_laneRI (exec_bfxS32Imm ..) fun _ => bfxW_signed _ _,
    gives_laneRRD (exec_bfi ..) fun _ => bfiW_eq _ _ _, gives_laneRID (exec_bfiImm ..) fun _ => bfiW_eq _ _ _,
    gives_laneRRD (exec_prmt ..) fun _ => rfl, gives_laneRID (exec_prmtImm ..) fun _ => rfl, prmtW_byte⟩

end Sys2Proof.Machine
end
